-- ==== Sys2Proof/Word.lean ====
section
/-! DEFINITION. The words of the machine: registers are 32 bits (spec/03 R44), pairs 64 bits (R45), memory is bytes. -/

namespace Sys2Proof

/-- A 32-bit register or instruction word. -/
abbrev Word := BitVec 32

/-- A byte of memory. -/
abbrev Byte := BitVec 8

/-- One bit per lane of a group: bit `l` stands for lane `l` (spec/01 R5). -/
abbrev LaneMask := BitVec 96

end Sys2Proof
end

