-- ==== Sys2Proof/Forms.lean ====
section
/-! DEFINITION. The forms an instruction word takes (spec/03 R58 to R62), and what the events of the package work on. -/

namespace Sys2Proof

/-- The fields of the extended form (R62). -/
structure Ext where
  fn : BitVec 4 := 0
  dst : BitVec 10 := 0
  ty : BitVec 4 := 0
  rnd : BitVec 3 := 0
  sat : BitVec 1 := 0
  a : BitVec 10 := 0
  b : BitVec 10 := 0
  c : BitVec 10 := 0
  z : BitVec 2 := 0
  pred : BitVec 10 := 0
  pen : BitVec 1 := 0
  pneg : BitVec 1 := 0
  uni : BitVec 1 := 0
  ra : BitVec 4 := 0
  rb : BitVec 4 := 0
  rc : BitVec 4 := 0
  scope : BitVec 3 := 0
  order : BitVec 2 := 0
  hint : BitVec 2 := 0
deriving DecidableEq, Repr

/-- The words of an instruction after its opcode: the extended form, the two forms with a literal, and the compact form of
an opcode that has none (which R70 makes an illegal instruction). -/
inductive Form where
  | cmp (u : BitVec 1) (b a d : BitVec 7)
  | ext (e : Ext)
  | cmpLit (u : BitVec 1) (b a d : BitVec 7) (lit : BitVec 64)
  | extLit (e : Ext) (lit : BitVec 64)
deriving DecidableEq, Repr

/-- A Ngaub packet: the fields of the header flit (spec/21 R349), the tree flit of a multicast write (R354) and the bytes
of its line, byte i in bits [8i + 7 : 8i]. -/
structure Packet where
  kind : Nat := 0
  src : Nat := 0
  dst : Nat := 0
  cls : Nat := 0
  mark : Bool := false
  echo : Bool := false
  mbz : Nat := 0
  tag : Nat := 0
  offset : Nat := 0
  group : Nat := 0
  fdom : Nat := 0
  mask : Nat := 0
  opnd : Nat := 0
  data : Nat := 0
  tree : List Nat := []
  refused : Bool := false
  reason : Nat := 0
  lanes : List (Nat × Nat × Nat) := []
  port : Nat := 0
deriving DecidableEq, Repr

/-- A message of a Landau job between two ranks (spec/21 R370): its JobID and the PIDonFEP that serves it, the exchange it belongs to,
the first of its `run` lines, their tags (line i's in bits [3i + 2 : 3i]) and their stored sectors in line order, as bytes, with the rank
that each pixel comes from (log 23). -/
structure UetMsg where
  src : Nat := 0
  dst : Nat := 0
  jobId : Nat := 0
  pid : Nat := 0
  jtag : Nat := 0
  kind : Nat := 0
  algo : Nat := 0
  nranks : Nat := 0
  lines : Nat := 0
  round : Nat := 0
  first : Nat := 0
  run : Nat := 0
  tags : Nat := 0
  sectors : List Nat := []
  origin : List (List Nat) := []
deriving DecidableEq, Repr

/-- A PTP message at a port (spec/21 R373, IEEE 1588): of kind 0 Sync, 1 Follow_Up, 2 Delay_Req, 3 Delay_Resp, 4 Pdelay_Req,
5 Pdelay_Resp or 6 Pdelay_Resp_Follow_Up, with its timestamps and correction in nanoseconds: in `time` when the Sync or the request
left, or when the request arrived that it answers, in `time2` when a Pdelay_Resp left. `two` says that the time at which it left follows in
a Follow_Up. -/
structure PtpMsg where
  port : Nat := 0
  domain : Nat := 0
  kind : Nat := 0
  time : Int := 0
  time2 : Int := 0
  corr : Int := 0
  two : Bool := false
deriving DecidableEq, Repr

/-- The operands of an event: numbers (an operation, a group, a block, a partition, an address, a register's value, as the
event's meaning names them), a packet, a message. -/
structure EvArgs where
  a : Nat := 0
  b : Nat := 0
  c : Nat := 0
  flag : Bool := false
  who : Option Nat := none
  p : Packet := {}
  m : UetMsg := {}
  t : PtpMsg := {}
  xs : List Nat := []
  ys : List Nat := []
deriving DecidableEq, Repr

end Sys2Proof
end

