-- ==== Sys2Proof/Machine/Maps.lean ====
section
/-! DEFINITION. Sparse tables keyed by numbers, in one canonical form: keys strictly rising. A table of cells lists no
entry that equals what an unlisted key reads as, so equal tables are equal data. -/

namespace Sys2Proof.Machine

/-- The entry at key `k`. -/
def mfind {α : Type} (k : Nat) : List (Nat × α) → Option α
  | [] => none
  | (j, v) :: m => if k = j then some v else mfind k m

/-- Puts `v` at key `k`, replacing an entry there. -/
def minsert {α : Type} (k : Nat) (v : α) : List (Nat × α) → List (Nat × α)
  | [] => [(k, v)]
  | (j, w) :: m => if k = j then (k, v) :: m else if k < j then (k, v) :: (j, w) :: m else (j, w) :: minsert k v m

/-- Removes every entry at key `k`. -/
def merase {α : Type} (k : Nat) : List (Nat × α) → List (Nat × α)
  | [] => []
  | (j, w) :: m => if k = j then merase k m else (j, w) :: merase k m

/-- The keys rise strictly, all of them at or above `lo`. -/
def sortedFrom {α : Type} (lo : Nat) : List (Nat × α) → Bool
  | [] => true
  | (j, _) :: m => decide (lo ≤ j) && sortedFrom (j + 1) m

/-- What a table of cells reads at `k`: the listed value, or `d`. -/
def cget {α : Type} (d : α) (k : Nat) (m : List (Nat × α)) : α := (mfind k m).getD d

/-- Writes a cell; writing `d`, which an unlisted key reads as, removes the entry. -/
def cset {α : Type} [DecidableEq α] (d : α) (k : Nat) (v : α) (m : List (Nat × α)) : List (Nat × α) :=
  if v = d then merase k m else minsert k v m

/-- The canonical form of a table of cells. -/
def cellsOk {α : Type} [DecidableEq α] (d : α) (m : List (Nat × α)) : Bool :=
  sortedFrom 0 m && m.all (fun e => decide (e.2 ≠ d))

/-- Changes the entry at `k`, if there is one. -/
def mmodify {α : Type} (k : Nat) (f : α → α) (m : List (Nat × α)) : List (Nat × α) :=
  match mfind k m with
  | some v => minsert k (f v) m
  | none => m

/-- The first key at or above `lo` that no entry uses, within `fuel` tries. -/
def mfree {α : Type} (m : List (Nat × α)) : Nat → Nat → Nat
  | 0, lo => lo
  | fuel + 1, lo => if (mfind lo m).isSome then mfree m fuel (lo + 1) else lo

/-- Keeps the entries whose key passes. -/
def mfilter {α : Type} (p : Nat → α → Bool) (m : List (Nat × α)) : List (Nat × α) := m.filter (fun e => p e.1 e.2)

/-- The `n` bits of `w` from bit `lo` up, as a number. -/
def bits (w lo n : Nat) : Nat := (w >>> lo) % 2 ^ n

/-- Bit `i` of `w`. -/
def bit (w i : Nat) : Bool := (w >>> i) % 2 == 1

/-- `w` read as a two's complement number of `n` bits. -/
def toSigned (n w : Nat) : Int := if w % 2 ^ n < 2 ^ (n - 1) then (w % 2 ^ n : Nat) else (w % 2 ^ n : Nat) - (2 ^ n : Nat)

/-- An integer modulo 2^n. -/
def wrap (n : Nat) (x : Int) : Nat := (x % (2 ^ n : Nat)).toNat

/-- The bytes of `w`, lowest first. -/
def bytesOf (n w : Nat) : List Nat := (List.range n).map (fun i => bits w (8 * i) 8)

/-- The number whose bytes, lowest first, are given. -/
def ofBytes : List Nat → Nat
  | [] => 0
  | b :: bs => b % 256 + 256 * ofBytes bs

/-- Number of bits of `w` that are one, looking at `n` bits. -/
def popCount : Nat → Nat → Nat
  | 0, _ => 0
  | n + 1, w => w % 2 + popCount n (w / 2)

/-- The sum of a list of numbers. -/
def sumOf : List Nat → Nat
  | [] => 0
  | x :: xs => x + sumOf xs

/-- `x` divided by `y`, rounded up. -/
def ceilDiv (x y : Nat) : Nat := (x + y - 1) / y

end Sys2Proof.Machine
end

