-- ==== Sys2Proof/Machine/Num.lean ====
section
/-! DEFINITION. Number formats and exact arithmetic (spec/05 R84 to R98): a numeric value is an exact rational with signed
zero, plus infinities and NaN; the one rounding of a result is roundTo, roundInt or cvtInt. -/

namespace Sys2Proof.Machine

/-- The floating formats (R88). -/
inductive FFmt where
  | f32 | bf16 | f16 | f8a | f8b
deriving DecidableEq, Repr

/-- The integer types (R85); B32 reads as U32 where a number is wanted. -/
structure IType where
  width : Nat
  signed : Bool
deriving DecidableEq, Repr

/-- Rounding modes (R64). -/
inductive Rnd where
  | rne | rtz | rdn | rup | rna | sr | rod
deriving DecidableEq, Repr

/-- An exact value (R84): a rational `num / den` with a sign, so that zero has one, or infinity, or NaN. -/
inductive Val where
  | nan
  | inf (neg : Bool)
  | fin (neg : Bool) (num den : Nat)
deriving DecidableEq, Repr

/-- Mantissa bits (R88). -/
def FFmt.m : FFmt → Nat
  | .f32 => 23 | .bf16 => 7 | .f16 => 10 | .f8a => 3 | .f8b => 2

/-- Exponent bias (R88). -/
def FFmt.bias : FFmt → Nat
  | .f32 => 127 | .bf16 => 127 | .f16 => 15 | .f8a => 7 | .f8b => 15

/-- Width of an encoding. -/
def FFmt.width : FFmt → Nat
  | .f32 => 32 | .bf16 => 16 | .f16 => 16 | .f8a => 8 | .f8b => 8

/-- The magnitude bits of the largest finite value (R88). -/
def FFmt.maxMag : FFmt → Nat
  | .f32 => 0x7F7FFFFF | .bf16 => 0x7F7F | .f16 => 0x7BFF | .f8a => 0x7E | .f8b => 0x7B

/-- The magnitude bits of infinity, where the format has one (R88). -/
def FFmt.infMag : FFmt → Option Nat
  | .f32 => some 0x7F800000 | .bf16 => some 0x7F80 | .f16 => some 0x7C00 | .f8a => none | .f8b => some 0x7C

/-- The default NaN (R88). -/
def FFmt.defNaN : FFmt → Nat
  | .f32 => 0x7FC00000 | .bf16 => 0x7FC0 | .f16 => 0x7E00 | .f8a => 0x7F | .f8b => 0x7E

/-- The exponent of one unit of the last place of a subnormal, emin - m. -/
def FFmt.kmin (f : FFmt) : Int := 1 - (f.bias : Int) - (f.m : Int)

/-- The sign bit of an encoding. -/
def fsign (f : FFmt) (w : Nat) : Bool := bit w (f.width - 1)

/-- An encoding without its sign. -/
def fmag (f : FFmt) (w : Nat) : Nat := w % 2 ^ (f.width - 1)

/-- Puts a sign on a magnitude encoding. -/
def withSign (f : FFmt) (neg : Bool) (mag : Nat) : Nat := if neg then mag + 2 ^ (f.width - 1) else mag

/-- Is the encoding a NaN (R88)? -/
def fIsNaN (f : FFmt) (w : Nat) : Bool :=
  match f.infMag with
  | some i => decide (i < fmag f w)
  | none => decide (f.maxMag < fmag f w)

/-- Is the encoding an infinity? -/
def fIsInf (f : FFmt) (w : Nat) : Bool := f.infMag == some (fmag f w)

/-- A rational from an integer and a power of two. -/
def scaled (neg : Bool) (n : Nat) (k : Int) : Val :=
  match k with
  | .ofNat j => .fin neg (n * 2 ^ j) 1
  | .negSucc j => .fin neg n (2 ^ (j + 1))

/-- `val(F, bits)` (R89). -/
def fval (f : FFmt) (w : Nat) : Val :=
  if fIsNaN f w then .nan
  else if fIsInf f w then .inf (fsign f w)
  else
    let e := fmag f w / 2 ^ f.m
    let mnt := fmag f w % 2 ^ f.m
    if e = 0 then scaled (fsign f w) mnt f.kmin
    else scaled (fsign f w) (2 ^ f.m + mnt) (f.kmin + ((e : Int) - 1))

/-- The sign of a value; NaN counts as positive. -/
def Val.neg : Val → Bool
  | .nan => false
  | .inf n => n
  | .fin n _ _ => n

/-- Is the value a zero? -/
def Val.isZero : Val → Bool
  | .fin _ n _ => n == 0
  | _ => false

/-- Is the value NaN or infinite? -/
def Val.notFinite : Val → Bool
  | .fin _ _ _ => false
  | _ => true

/-- The value with its sign flipped. -/
def Val.flip : Val → Val
  | .nan => .nan
  | .inf n => .inf (!n)
  | .fin n a d => .fin (!n) a d

/-- The magnitude. -/
def Val.abs : Val → Val
  | .nan => .nan
  | .inf _ => .inf false
  | .fin _ a d => .fin false a d

/-- An integer as a value. -/
def Val.ofInt (x : Int) : Val := .fin (decide (x < 0)) x.natAbs 1

/-- The signed numerator. -/
def signedNum (neg : Bool) (n : Nat) : Int := if neg then - (n : Int) else n

/-- The exact sum, its zero signed as R91 says. -/
def vadd (rnd : Rnd) : Val → Val → Val
  | .nan, _ => .nan
  | _, .nan => .nan
  | .inf a, .inf b => if a = b then .inf a else .nan
  | .inf a, .fin _ _ _ => .inf a
  | .fin _ _ _, .inf b => .inf b
  | .fin sa a da, .fin sb b db =>
    let s := signedNum sa (a * db) + signedNum sb (b * da)
    if s = 0 then
      if a = 0 ∧ sa = sb then .fin sa 0 1 else .fin (rnd == .rdn) 0 1
    else .fin (decide (s < 0)) s.natAbs (da * db)

/-- The exact difference. -/
def vsub (rnd : Rnd) (x y : Val) : Val := vadd rnd x y.flip

/-- The exact product (R91, R92). -/
def vmul : Val → Val → Val
  | .nan, _ => .nan
  | _, .nan => .nan
  | .inf a, .inf b => .inf (a != b)
  | .inf a, .fin b n _ => if n = 0 then .nan else .inf (a != b)
  | .fin a n _, .inf b => if n = 0 then .nan else .inf (a != b)
  | .fin sa a da, .fin sb b db => .fin (sa != sb) (a * b) (da * db)

/-- The exact quotient; a non-zero number over zero is infinite, which roundTo turns into big (R92). -/
def vdiv : Val → Val → Val
  | .nan, _ => .nan
  | _, .nan => .nan
  | .inf _, .inf _ => .nan
  | .inf a, .fin b _ _ => .inf (a != b)
  | .fin a _ _, .inf b => .fin (a != b) 0 1
  | .fin sa a da, .fin sb b db =>
    if b = 0 then (if a = 0 then .nan else .inf (sa != sb)) else .fin (sa != sb) (a * db) (da * b)

/-- x times 2^k. -/
def vscale (x : Val) (k : Int) : Val :=
  match x with
  | .fin s n d =>
    match k with
    | .ofNat j => .fin s (n * 2 ^ j) d
    | .negSucc j => .fin s n (d * 2 ^ (j + 1))
  | v => v

/-- Numeric order of two values that are not NaN; both zeros are equal. -/
def vlt : Val → Val → Bool
  | .nan, _ => false
  | _, .nan => false
  | .inf a, .inf b => a && !b
  | .inf a, .fin _ _ _ => a
  | .fin _ _ _, .inf b => !b
  | .fin sa a da, .fin sb b db => decide (signedNum sa (a * db) < signedNum sb (b * da))

/-- Numeric equality of two values that are not NaN. -/
def veq : Val → Val → Bool
  | .nan, _ => false
  | _, .nan => false
  | .inf a, .inf b => a == b
  | .fin sa a da, .fin sb b db => decide (signedNum sa (a * db) = signedNum sb (b * da))
  | _, _ => false

/-- ⌊log2 (n / d)⌋ for n and d above zero. -/
def log2Ratio (n d : Nat) : Int :=
  let e : Int := (n.log2 : Int) - (d.log2 : Int)
  let below : Bool := match e with
    | .ofNat j => decide (n < d * 2 ^ j)
    | .negSucc j => decide (n * 2 ^ (j + 1) < d)
  if below then e - 1 else e

/-- The selection step of roundTo (R93): the integer chosen for `(lo + rem / den)` in units of q. -/
def pick (rnd : Rnd) (neg : Bool) (lo rem den b : Nat) : Nat :=
  if rem = 0 then lo
  else match rnd with
    | .rne => if 2 * rem < den then lo else if den < 2 * rem then lo + 1 else lo + lo % 2
    | .rna => if 2 * rem < den then lo else lo + 1
    | .rtz => lo
    | .rup => if neg then lo else lo + 1
    | .rdn => if neg then lo + 1 else lo
    | .rod => if lo % 2 = 1 then lo else lo + 1
    | .sr => if b < 2 ^ 32 * rem / den then lo + 1 else lo

/-- `big(F, s, sat)` (R93). -/
def big (f : FFmt) (neg sat : Bool) : Nat :=
  if sat then withSign f neg f.maxMag
  else match f.infMag with
    | some i => withSign f neg i
    | none => f.defNaN

/-- n / d divided by 2^k, as numerator and denominator. -/
def unscale (n d : Nat) (k : Int) : Nat × Nat :=
  match k with
  | .ofNat j => (n, d * 2 ^ j)
  | .negSucc j => (n * 2 ^ (j + 1), d)

/-- `roundTo(x, F, rnd, sat, b)` (R93). The magnitude encodings of a format rise with the value, so the multiple `y` of
the spacing 2^k has magnitude bits (k - kmin) · 2^m + y, and overflow is passing maxF's. -/
def roundTo (x : Val) (f : FFmt) (rnd : Rnd) (sat : Bool) (b : Nat) : Nat :=
  match x with
  | .nan => f.defNaN
  | .inf s => big f s sat
  | .fin s n d =>
    if n = 0 then withSign f s 0
    else
      let k := max (log2Ratio n d - (f.m : Int)) f.kmin
      let nd := unscale n d k
      let y := pick rnd s (nd.1 / nd.2) (nd.1 % nd.2) nd.2 b
      let mag := (k - f.kmin).toNat * 2 ^ f.m + y
      if f.maxMag < mag then
        if rnd = .rtz ∨ rnd = .rod ∨ (rnd = .rup ∧ s = true) ∨ (rnd = .rdn ∧ s = false) then withSign f s f.maxMag
        else big f s sat
      else withSign f s mag

/-- `roundInt(x, rnd, b)` of a finite value (R94); 0 for the others, which every caller rules out first. -/
def roundInt (x : Val) (rnd : Rnd) (b : Nat) : Int :=
  match x with
  | .fin s n d => signedNum s (pick rnd s (n / d) (n % d) d b)
  | _ => 0

/-- The least value of an integer type (R85). -/
def IType.minVal (t : IType) : Int := if t.signed then - ((2 ^ (t.width - 1) : Nat) : Int) else 0

/-- The greatest value of an integer type (R85). -/
def IType.maxVal (t : IType) : Int := if t.signed then ((2 ^ (t.width - 1) : Nat) : Int) - 1 else ((2 ^ t.width : Nat) : Int) - 1

/-- `x` moved into the range of `t`. -/
def clampTo (t : IType) (x : Int) : Int := if x < t.minVal then t.minVal else if t.maxVal < x then t.maxVal else x

/-- The number that the low bits of `w` encode in type `t`. -/
def ival (t : IType) (w : Nat) : Int := if t.signed then toSigned t.width w else ((w % 2 ^ t.width : Nat) : Int)

/-- `cvtInt(x, T, rnd, b)` (R94). -/
def cvtInt (x : Val) (t : IType) (rnd : Rnd) (b : Nat) : Int :=
  match x with
  | .nan => 0
  | .inf n => if n then t.minVal else t.maxVal
  | .fin _ _ _ => clampTo t (roundInt x rnd b)

/-- An integer result brought into its type (R86): clamped with SAT, else modulo 2^w. -/
def intResult (t : IType) (sat : Bool) (x : Int) : Int := if sat then clampTo t x else ival t (wrap t.width x)

/-- `mix32` (R95). -/
def mix32 (x0 : Nat) : Nat :=
  let x1 := x0 ^^^ (x0 >>> 15)
  let x2 := (x1 * 0x2C1B3C6D) % 2 ^ 32
  let x3 := x2 ^^^ (x2 >>> 12)
  let x4 := (x3 * 0x297A2D39) % 2 ^ 32
  x4 ^^^ (x4 >>> 15)

/-- `srBits(l, e)` (R95) from the seed, the instruction's address, the group number and the counter. -/
def srBits (seed pc grp ctr l e : Nat) : Nat :=
  let k := (l ||| (grp <<< 7) ||| (ctr <<< 12)) % 2 ^ 32
  let b := mix32 (seed ^^^ mix32 (pc % 2 ^ 32 ^^^ mix32 k))
  if e = 0 then b else mix32 (b ^^^ ((e * 0x9E3779B9) % 2 ^ 32))

/-- The integer square root by bits, from bit `i - 1` down. -/
def isqrtBits : Nat → Nat → Nat → Nat
  | 0, _, r => r
  | i + 1, n, r => if (r + 2 ^ i) * (r + 2 ^ i) ≤ n then isqrtBits i n (r + 2 ^ i) else isqrtBits i n r

/-- ⌊√n⌋. -/
def isqrt (n : Nat) : Nat := isqrtBits (n.log2 / 2 + 1) n 0

/-- The exact square root where it is rational at this precision, else a value between it and the next multiples of
2^-320: no rounding of any format tells that value from the root (R93, spec/09 R155). -/
def vsqrt : Val → Val
  | .nan => .nan
  | .inf n => if n then .nan else .inf false
  | .fin s n d =>
    if n = 0 then .fin s 0 1
    else if s then .nan
    else
      let r := isqrt (n * d * 2 ^ 640)
      if r * r = n * d * 2 ^ 640 then .fin false r (d * 2 ^ 320) else .fin false (2 * r + 1) (d * 2 ^ 321)

/-- The number whose 32-bit words are given, lowest first. -/
def wordsNum : List Nat → Nat
  | [] => 0
  | w :: ws => w % 2 ^ 32 + 2 ^ 32 * wordsNum ws

end Sys2Proof.Machine
end

