-- ==== Sys2Proof/Machine/Info.lean ====
section
/-! DEFINITION. What the words of an instruction say before it is performed: its fields expanded to one shape (spec/03
R58 to R69), and for each opcode the fields it reads (R116, R127, R153, R164, R256, R281, R311, R421). The checks of R70
and R71 that need only the words are made from these tables. -/

namespace Sys2Proof.Machine

/-- The fields of an instruction word, whichever form it has. `resBits` is set when a field that every form of the
opcode leaves at zero is not (word 1 [31:30], SRCB7 under LEN 10, bits of a compact control word). -/
structure Raw where
  op : Nat
  compact : Bool := false
  fn : Nat := 0
  d : Nat := 0
  ty : Nat := 0
  rnd : Nat := 0
  sat : Bool := false
  a : Nat := 0
  b : Nat := 0
  c : Nat := 0
  pred : Nat := 0
  pen : Bool := false
  pneg : Bool := false
  uni : Bool := false
  ra : Nat := 0
  rb : Nat := 0
  rc : Nat := 0
  scope : Nat := 0
  order : Nat := 0
  hint : Nat := 0
  lit : Option Nat := none
  off : Int := 0
  resBits : Bool := false
  len : Nat := 4
deriving DecidableEq, Repr

/-- A compact operand code: 0 to 95 name v0 to v95, 96 to 127 name s0 to s31 (R59). -/
def wideCode (c : Nat) : Nat := if c < 96 then c else c + 672

/-- The default type of a compact opcode (R68). -/
def compactType (op : Nat) : Nat := if op < 0x20 then 0 else if op < 0x40 then 4 else if op < 0x80 then 0 else 1

/-- One-source opcodes read source B and leave source A zero (R60). -/
def isOneSource (op : Nat) : Bool :=
  op == 0x07 || op == 0x08 || op == 0x0F || (0x16 ≤ op && op ≤ 0x19) || op == 0x1D ||
  (0x29 ≤ op && op ≤ 0x2B) || op == 0x2D || op == 0x2E

/-- Expands the compact forms of the opcodes that carry operands (R59, R68, R69); `lit` is the literal of LEN 10. -/
def rawCompact (op : Nat) (u b a d : Nat) (lit : Option Nat) : Raw :=
  let bb := match lit with
    | some _ => 1023
    | none => wideCode b
  let isSt := op == 0x81
  { op := op, compact := true, ty := compactType op, uni := u == 1
    d := if isSt then 0 else wideCode d
    a := wideCode a
    b := bb
    c := if isSt then wideCode d else 0
    lit := lit
    resBits := lit.isSome && b != 0
    len := if lit.isSome then 12 else 4 }

/-- Expands the compact forms of the control opcodes, whose bits [31:10] are an offset or zero (R61, R68). A compact CALL
links in v94:v95 and a compact RET reads that pair (R129). -/
def rawCtlCompact (op rest : Nat) (lit : Option Nat) : Raw :=
  let isBr := op == 0x61 || op == 0x63
  { op := op, compact := true
    d := if op == 0x63 then 94 else 0
    b := if op == 0x64 then 94 else 0
    lit := lit
    off := match lit with
      | some l => if isBr then toSigned 64 l else 0
      | none => if isBr then toSigned 22 rest else 0
    resBits := (!isBr || lit.isSome) && rest != 0
    len := if lit.isSome then 12 else 4 }

/-- Expands an extended form (R62). -/
def rawExt (op : Nat) (e : Ext) (lit : Option Nat) : Raw :=
  let low := e.a.toNat + 1024 * e.b.toNat
  { op := op, fn := e.fn.toNat, d := e.dst.toNat, ty := e.ty.toNat, rnd := e.rnd.toNat, sat := e.sat == 1
    a := e.a.toNat, b := e.b.toNat, c := e.c.toNat
    pred := e.pred.toNat, pen := e.pen == 1, pneg := e.pneg == 1, uni := e.uni == 1
    ra := e.ra.toNat, rb := e.rb.toNat, rc := e.rc.toNat
    scope := e.scope.toNat, order := e.order.toNat, hint := e.hint.toNat
    lit := lit
    off := match lit with
      | some l => toSigned 64 l
      | none => toSigned 20 low
    resBits := e.z != 0
    len := if lit.isSome then 20 else 12 }

/-- The fields of a row in its extended and literal forms. -/
def rawOf (op : Nat) (f : Form) : Raw :=
  let ctl := decide (0x60 ≤ op ∧ op < 0x80)
  match f with
  | .ext e => rawExt op e none
  | .extLit e l => rawExt op e (some l.toNat)
  | .cmp u b a d =>
    if ctl then rawCtlCompact op (d.toNat + 128 * a.toNat + 16384 * b.toNat + 2097152 * u.toNat) none
    else rawCompact op u.toNat b.toNat a.toNat d.toNat none
  | .cmpLit u b a d l =>
    if ctl then rawCtlCompact op (d.toNat + 128 * a.toNat + 16384 * b.toNat + 2097152 * u.toNat) (some l.toNat)
    else rawCompact op u.toNat b.toNat a.toNat d.toNat (some l.toNat)

/-- The type in which an operand stands (R49, R63, R87). -/
inductive OTy where
  | int (t : IType)
  | flt (f : FFmt)
  | b32
  | pairI
  | pairF (f : FFmt)
deriving DecidableEq, Repr

abbrev tyU32 : OTy := .int ⟨32, false⟩
abbrev tyS32 : OTy := .int ⟨32, true⟩
abbrev tyU64 : OTy := .int ⟨64, false⟩

/-- The registers an operand of the type takes: 64-bit types name a pair (R45). -/
def OTy.regs : OTy → Nat
  | .int t => if t.width = 64 then 2 else 1
  | _ => 1

/-- The format that a TYPE code names (R63); `pf` is the element format of PAIR. Code 15 is never accepted. -/
def tyOf (pf : OTy) : Nat → OTy
  | 0 => .int ⟨32, true⟩
  | 1 => .int ⟨32, false⟩
  | 2 => .int ⟨64, true⟩
  | 3 => .int ⟨64, false⟩
  | 4 => .flt .f32
  | 5 => .flt .bf16
  | 6 => .flt .f16
  | 7 => .flt .f8a
  | 8 => .flt .f8b
  | 9 => .int ⟨16, true⟩
  | 10 => .int ⟨16, false⟩
  | 11 => .int ⟨8, true⟩
  | 12 => .int ⟨8, false⟩
  | 13 => .b32
  | 14 => pf
  | _ => .b32

/-- The bytes that LD and ST move for a TYPE (R262). -/
def memBytes (ty : Nat) : Nat :=
  match tyOf .pairI ty with
  | .int t => t.width / 8
  | .flt f => f.width / 8
  | _ => 4

/-- What may stand in a destination or source field. -/
inductive Slot where
  | none                                    -- not used: the field and its route are zero
  | raw                                     -- a field of word 1 with a meaning of its own
  | lowRaw (n : Nat)                        -- the same, with only its low n bits free
  | val (t : OTy) (noRoute : Bool)          -- a value source
  | u                                       -- group-wide source (R127)
  | up                                      -- even uniform pair or LIT (R127)
  | upv (lit : Bool)                        -- vector pair, uniform pair, and LIT if `lit`
  | base (pad vec xreg lit : Bool)          -- memory base (R69, R257)
  | off                                     -- memory offset (R69)
  | padBase                                 -- must be `pad`
  | vgrp (n : Nat)                          -- vector group of n at a multiple of n
  | vsgrp (n : Nat)                         -- vector or uniform group of n at a multiple of n
  | srec (n al top : Nat)                   -- uniform record of n registers sk, k a multiple of al up to top
  | desc                                    -- block descriptor: s0 to s156 or LIT (R166)
  | target                                  -- vector or group-wide source (R311)
  | tile                                    -- a tile read
  | dval (t : OTy) (uniS lc : Bool)         -- destination; uniS: uniform with UNI clear; lc: loop counter too
  | dvgrp (n al : Nat)                      -- vector destination group
  | dmask (uniS : Bool)                     -- three registers (R172)
  | ds (opt : Bool)                         -- s0 to s156; with opt, 0 names none
  | dspair                                  -- even uniform pair s0 to s154
  | dlink                                   -- even vector pair
  | dlc                                     -- lc0 to lc2
  | dx                                      -- x0 to x7
  | dtile                                   -- a tile written
deriving DecidableEq, Repr

/-- The four operand fields of an opcode. -/
structure Slots where
  d : Slot := .none
  a : Slot := .none
  b : Slot := .none
  c : Slot := .none
deriving DecidableEq, Repr

/-- Which role an opcode asks for (R17). -/
inductive RoleReq where
  | free | vector | vectorUnlessUni | matrix | haul
deriving DecidableEq, Repr

/-- How an opcode uses SCOPE and ORDER (R65): not at all, or with the values it accepts. -/
inductive OrdUse where
  | unused
  | only (orders : List Nat) (anyScopeWhenOrdered : Bool)
  | onlyAt (fn : Nat) (there others : List Nat)   -- one set for that FN, another for the rest
  | bar                                     -- R141
  | xfence                                  -- any scope, relaxed
  | cinv                                    -- R280
deriving DecidableEq, Repr

/-- One row of the opcode map with what its entry says of its fields. -/
structure OpInfo where
  elig : Bool := false
  role : RoleReq
  fns : List Nat := [0]
  tys : Nat → List Nat := fun _ => [0]
  rnds : Nat → Nat → Nat := fun _ _ => 0
  sats : Nat → Nat → Bool := fun _ _ => false
  uni : Bool := false
  pen : Bool := true
  ord : OrdUse := .unused
  hint : Bool := false
  slots : Raw → Slots

def tyI : List Nat := [0, 1, 2, 3, 9, 10, 11, 12]
def tyIP : List Nat := [0, 1, 2, 3, 9, 10, 11, 12, 14]
def tyW : List Nat := [0, 1, 2, 3]
def tyL : List Nat := [0, 1, 13, 2, 3]
def tyAll : List Nat := List.range 15
def tyFT : List Nat := [4, 5, 6]
def tyFX : List Nat := [4, 5, 6, 7, 8]

/-- The integer type of a TYPE code (PAIR holds S16 elements, R115). -/
def iTy (r : Raw) : OTy := tyOf .pairI r.ty

/-- The type of a float opcode's operands. -/
def fTy (r : Raw) : OTy := tyOf (.pairF (if r.fn = 0 then .bf16 else .f16)) r.ty

/-- The type in which a constant stands as PRED: the instruction's TYPE, whose PAIR holds elements of the format the instruction
gives (R49, R57). -/
def predTy (r : Raw) : OTy :=
  if 0x20 ≤ r.op ∧ r.op < 0x40 then fTy r else tyOf (if 0x84 ≤ r.op ∧ r.op ≤ 0x87 then .pairF .bf16 else .pairI) r.ty

/-- Two sources of TYPE. -/
def intAB (tys : List Nat) (sat : Bool) : OpInfo :=
  { elig := true, role := .vectorUnlessUni, uni := true, tys := fun _ => tys, sats := fun _ _ => sat
    slots := fun r => { d := .dval (iTy r) false false, a := .val (iTy r) false, b := .val (iTy r) false } }

/-- One source of TYPE. -/
def intB (tys : List Nat) (sat : Bool) : OpInfo :=
  { elig := true, role := .vectorUnlessUni, uni := true, tys := fun _ => tys, sats := fun _ _ => sat
    slots := fun r => { d := .dval (iTy r) false false, b := .val (iTy r) false } }

/-- A shift: the count is U32 whatever TYPE says (R120). -/
def intShift : OpInfo :=
  { elig := true, role := .vectorUnlessUni, uni := true, tys := fun _ => tyL
    slots := fun r => { d := .dval (iTy r) false false, a := .val (iTy r) false, b := .val tyU32 false } }

/-- A count of bits writes 32 bits (R122). -/
def intCount : OpInfo :=
  { elig := true, role := .vectorUnlessUni, uni := true, tys := fun _ => tyL
    slots := fun r => { d := .dval tyU32 false false, b := .val (iTy r) false } }

/-- A float opcode with two sources. -/
def fltAB (rnd : Nat) (sat : Bool) : OpInfo :=
  { elig := true, role := .vector, uni := true, tys := fun _ => tyFT, rnds := fun _ _ => rnd, sats := fun _ _ => sat
    slots := fun r => { d := .dval (fTy r) false false, a := .val (fTy r) false, b := .val (fTy r) false } }

/-- A float opcode with one source. -/
def fltB (rnd : Nat) (sat : Bool) : OpInfo :=
  { elig := true, role := .vector, uni := true, tys := fun _ => tyFT, rnds := fun _ _ => rnd, sats := fun _ _ => sat
    slots := fun r => { d := .dval (fTy r) false false, b := .val (fTy r) false } }

/-- A pair opcode (R160). -/
def fltPair (three : Bool) : OpInfo :=
  { role := .vector, uni := true, fns := [0, 1], tys := fun _ => [14], rnds := fun _ _ => 6, sats := fun _ _ => true
    slots := fun r => { d := .dval (fTy r) false false, a := .val (fTy r) false, b := .val (fTy r) false
                        c := if three then .val (fTy r) false else .none } }

/-- The type lists of REDU and SCAN by operator (R174). -/
def redTys (o : Nat) : List Nat := if o ≤ 2 then tyI else if o ≤ 5 then tyL else tyFT

/-- A control opcode. -/
def ctl (pen : Bool) (s : Slots) : OpInfo := { role := .free, pen := pen, slots := fun _ => s }

/-- Haul operator types (R290). -/
def haulTys (fn : Nat) : List Nat :=
  if fn = 0 then [0] else if fn ≤ 3 then [0, 1, 2, 3] else if fn ≤ 6 then [1, 13, 3] else [4, 5]

/-- ATOM operation types (R267). -/
def atomTys (fn : Nat) : List Nat :=
  if fn ≤ 2 then tyW else if fn ≤ 5 then tyL else if fn ≤ 7 then [0, 1, 2, 3, 13, 4]
  else if fn ≤ 9 then [1] else [4, 14]

/-- ATOMP operation types (R273). -/
def atompTys (fn : Nat) : List Nat :=
  let o := fn % 8
  if o ≤ 2 then [0, 1] else if o ≤ 4 then [0, 1, 13] else if o ≤ 6 then [0, 1, 13, 4, 2, 3] else [4, 14]

/-- The operand of an atomic: a value, or the pair of groups of a compare and swap (R268). -/
def atomC (r : Raw) (isCas : Bool) : Slot :=
  let t := tyOf (.pairF .bf16) r.ty
  if isCas then .vsgrp (2 * t.regs) else .val t false

/-- An instruction of the memory class. -/
def mem (role : RoleReq) (ord : OrdUse) (hint : Bool) (fns : List Nat) (tys : Nat → List Nat) (slots : Raw → Slots) : OpInfo :=
  { role := role, ord := ord, hint := hint, fns := fns, tys := tys, slots := slots }

abbrev anyBase : Slot := .base true true true false
abbrev noPadBase : Slot := .base false true true false

def opInt (op : Nat) : Option OpInfo :=
  match op with
  | 0x00 | 0x01 => some (intAB tyIP true)
  | 0x02 => some (intAB tyI true)
  | 0x03 => some (intAB tyW false)
  | 0x04 => some { role := .vectorUnlessUni, uni := true, tys := fun _ => tyI, sats := fun _ _ => true
                   slots := fun r => { d := .dval (iTy r) false false, a := .val (iTy r) false, b := .val (iTy r) false
                                       c := .val (iTy r) false } }
  | 0x05 => some { role := .vectorUnlessUni, uni := true, tys := fun _ => [0, 1]
                   slots := fun r =>
                     let w : OTy := .int ⟨64, r.ty == 0⟩
                     { d := .dval w false false, a := .val (iTy r) false, b := .val (iTy r) false, c := .val w false } }
  | 0x06 => some { role := .vectorUnlessUni, uni := true, fns := [0, 1], tys := fun _ => [0, 1]
                   slots := fun r => { d := .dval tyU64 false false, a := .val (iTy r) false, b := .val (iTy r) false
                                       c := .val (iTy r) false } }
  | 0x07 | 0x08 => some (intB tyIP true)
  | 0x09 | 0x0A => some (intAB tyIP false)
  | 0x0B | 0x0C | 0x0D | 0x0E => some (intAB tyL false)
  | 0x0F => some (intB tyL false)
  | 0x10 | 0x11 | 0x12 | 0x13 => some intShift
  | 0x14 => some { intShift with elig := false, fns := [0, 1] }
  | 0x15 => some { intShift with
                   elig := false
                   slots := fun r => { d := .dval (iTy r) false false, a := .val (iTy r) false, b := .val tyU32 false
                                       c := .val (iTy r) false } }
  | 0x16 | 0x17 | 0x18 => some intCount
  | 0x19 => some (intB tyL false)
  | 0x1A => some { intAB tyI false with
                   fns := [0, 1, 2, 3, 4, 5], tys := fun fn => if fn ≤ 1 then 13 :: tyI else tyI
                   slots := fun r => { d := .dval tyU32 false false, a := .val (iTy r) false, b := .val (iTy r) false } }
  | 0x1B => some { intAB tyAll false with
                   elig := false
                   slots := fun r => { d := .dval (iTy r) false false, a := .val (iTy r) false, b := .val (iTy r) false
                                       c := .val (iTy r) false } }
  | 0x1C => some { intAB tyW false with
                   elig := false, fns := List.range 8
                   slots := fun r => { d := .dval tyU64 false false, a := .val tyU64 false, b := .val (iTy r) false } }
  | 0x1D => some { intB tyAll false with slots := fun r => { d := .dval (iTy r) false true, b := .val (iTy r) false } }
  | 0x1E => some { intAB [0, 1, 13] false with
                   elig := false
                   slots := fun r => { d := .dval (iTy r) false false, a := .val (iTy r) false, b := .val (iTy r) false
                                       c := .val (iTy r) false } }
  | _ => none

def opFlt (op : Nat) : Option OpInfo :=
  match op with
  | 0x20 | 0x21 | 0x22 => some (fltAB 6 true)
  | 0x23 => some { fltAB 6 true with
                   elig := false
                   slots := fun r => { d := .dval (fTy r) false false, a := .val (fTy r) false, b := .val (fTy r) false
                                       c := .val (fTy r) false } }
  | 0x24 | 0x25 => some (fltAB 0 false)
  | 0x26 | 0x27 => some { fltAB 0 false with elig := false }
  | 0x28 => some { fltAB 0 false with
                   fns := List.range 8
                   slots := fun r => { d := .dval tyU32 false false, a := .val (fTy r) false, b := .val (fTy r) false } }
  | 0x29 => some (fltB 6 true)
  | 0x2A => some (fltB 0 true)
  | 0x2B => some (fltB 6 false)
  | 0x2C => some { fltAB 6 true with elig := false }
  | 0x2D | 0x2E => some (fltB 0 true)
  | 0x2F | 0x30 => some { fltB 0 false with elig := false }
  | 0x31 => some { fltB 6 false with elig := false }
  | 0x32 => some { fltB 0 false with
                   elig := false, tys := fun _ => tyFX
                   slots := fun r => { d := .dval tyU32 false false, b := .val (fTy r) false } }
  | 0x33 => some { fltAB 6 true with
                   elig := false
                   slots := fun r => { d := .dval (fTy r) false false, a := .val (fTy r) false, b := .val tyS32 false } }
  | 0x34 => some { fltB 0 false with elig := false, fns := [0, 1] }
  | 0x35 | 0x36 => some (fltPair false)
  | 0x37 => some (fltPair true)
  | _ => none

def opLane (op : Nat) : Option OpInfo :=
  match op with
  | 0x40 => some { role := .vector, uni := true, fns := List.range 15
                   tys := fun fn => if fn ≤ 12 then List.range 13 else []
                   rnds := fun _ _ => 6, sats := fun _ _ => true
                   slots := fun r => { d := .dval (tyOf .pairI r.ty) false false, b := .val (tyOf .pairI r.fn) false } }
  | 0x41 => some { role := .vector, fns := [0, 1], tys := fun _ => tyFX, rnds := fun fn _ => if fn = 0 then 6 else 0
                   slots := fun r => { d := .dval tyS32 false false, a := .val (fTy r) false, b := .desc } }
  | 0x42 => some { role := .vector, uni := true, tys := fun _ => tyFX, rnds := fun _ _ => 6, sats := fun _ _ => true
                   -- A and C stand as U32: R168 reads A as an element's bits and C as a byte, and names no type (log 56)
                   slots := fun r => { d := .dval (fTy r) false false, a := .val tyU32 false, b := .desc
                                       c := .val tyU32 false } }
  | 0x43 => some { role := .vector, fns := [0, 1, 2, 3], tys := fun _ => [13, 3]
                   slots := fun r => { d := .dval (iTy r) false false, a := .val (iTy r) true, b := .val tyU32 false } }
  | 0x44 => some { role := .vector, fns := [0, 1], tys := fun _ => [13, 3]
                   slots := fun r => { d := if r.fn = 0 then .dmask false else .dval tyU32 false false
                                       b := .val (iTy r) false } }
  | 0x45 => some { role := .vector, slots := fun r => { d := .dmask true, b := .val (iTy r) false } }
  | 0x46 => some { role := .vector, fns := [0, 1, 2]
                   slots := fun r => { d := .dval tyU32 true false, b := .val (iTy r) false } }
  | 0x47 => some { role := .vector, fns := List.range 9, tys := redTys
                   rnds := fun fn _ => if fn = 6 then 6 else 0, sats := fun fn _ => fn == 0 || fn == 6
                   slots := fun r => { d := .dval (fTy r) true false, b := .val (fTy r) false } }
  | 0x48 => some { role := .vector, fns := [0, 1, 2, 3, 4, 5, 6, 8, 9, 10, 11, 12, 13, 14], tys := fun fn => redTys (fn % 8)
                   rnds := fun fn _ => if fn % 8 = 6 then 6 else 0, sats := fun fn _ => fn % 8 == 0 || fn % 8 == 6
                   slots := fun r => { d := .dval (fTy r) false false, b := .val (fTy r) false } }
  | _ => none

def opCtl (op : Nat) : Option OpInfo :=
  match op with
  | 0x60 => some { ctl false {} with elig := true }
  | 0x61 => some { ctl true {} with
                   elig := true
                   slots := fun r => if r.compact || r.lit.isSome then {} else { a := .raw, b := .raw } }
  | 0x62 => some (ctl true { b := .upv true })
  | 0x63 => some { ctl true {} with
                   elig := true
                   slots := fun r => if r.compact || r.lit.isSome then { d := .dlink } else { d := .dlink, a := .raw, b := .raw } }
  | 0x64 => some { ctl true { b := .upv false } with elig := true }
  | 0x65 => some (ctl false { d := .dlc, b := .u, c := .raw })
  | 0x66 => some (ctl false {})
  | 0x67 => some { ctl true {} with elig := true }
  | 0x68 => some { ctl false {} with elig := true }
  | 0x69 | 0x6A => some (ctl true { a := .raw, b := .raw })
  | 0x6B => some { ctl false { b := .u } with fns := List.range 8 }
  | 0x6C => some { ctl false { b := .u, c := .u } with ord := .bar }
  | 0x6D => some (ctl false { a := .padBase, b := .u, c := .u })
  | 0x6E => some { ctl true { d := .ds true, a := .padBase, b := .u } with fns := [0, 1] }
  | 0x6F => some (ctl false { a := .padBase, b := .u, c := .u })
  | 0x70 => some (ctl true { a := .padBase, b := .u, c := .u })
  | 0x71 => some { ctl false { a := .padBase, b := .u, c := .u } with fns := [0, 1] }
  | 0x72 => some { ctl true { a := .padBase, b := .u, c := .u } with fns := [0, 1, 2] }
  | 0x73 => some (ctl false { d := .ds false, b := .up })
  | 0x74 => some (ctl false {})
  | 0x75 | 0x76 => some (ctl false { b := .u })
  | 0x77 => some (ctl false { b := .up })
  | _ => none

/-- The memory instructions (spec/15). No entry gives LD.PAIR and ST.PAIR an element format for a constant that stands as the stored value or
the predicate: the elements are S16 (R49, log 76). -/
def opMem (op : Nat) : Option OpInfo :=
  let zero := fun (_ : Nat) => [0]
  let ra : OrdUse := .only [0, 1] true
  let rl : OrdUse := .only [0, 2] true
  let all : OrdUse := .only [0, 1, 2, 3] true
  let rlx : OrdUse := .only [0] true
  match op with
  | 0x80 => some { mem .vectorUnlessUni ra true [0] (fun _ => tyAll)
                     (fun r => { d := .dval (iTy r) false false, a := anyBase, b := .off }) with elig := true, uni := true }
  | 0x81 => some { mem .vectorUnlessUni rl true [0] (fun _ => tyAll)
                     (fun r => { a := anyBase, b := .off, c := .val (iTy r) false }) with elig := true, uni := true }
  | 0x82 => some (mem .vectorUnlessUni ra true [0, 1, 2, 3] zero
                    (fun r => { d := .dvgrp (2 ^ (r.fn + 1)) (2 ^ (r.fn + 1)), a := anyBase, b := .off }))
  | 0x83 => some (mem .vectorUnlessUni rl true [0, 1, 2, 3] zero
                    (fun r => { a := anyBase, b := .off, c := .vgrp (2 ^ (r.fn + 1)) }))
  | 0x84 => some (mem .vectorUnlessUni all true (List.range 13) atomTys
                    (fun r => { d := .dval (tyOf (.pairF .bf16) r.ty) false false, a := noPadBase, b := .off
                                c := atomC r (r.fn == 7) }))
  | 0x85 => some (mem .vectorUnlessUni rl true [0, 1, 2, 3, 4, 5, 6, 8, 9, 10, 11, 12] atomTys
                    (fun r => { a := noPadBase, b := .off, c := atomC r false }))
  | 0x86 => some { mem .vectorUnlessUni all true [0, 1, 2] zero
                     (fun r => { d := if r.fn = 2 then .none else .dvgrp 4 4, a := noPadBase, b := .off
                                 c := .vsgrp (if r.fn = 1 then 8 else 4) }) with ord := .onlyAt 2 [0, 2] [0, 1, 2, 3] }
  | 0x87 => some (mem .vectorUnlessUni all false [0, 1, 2, 3, 4, 5, 6, 7, 8, 9, 10, 11, 12, 13, 15] atompTys
                    (fun r => { d := if r.fn < 8 then .dval (tyOf (.pairF .bf16) r.ty) false false else .none
                                a := .padBase, b := .off, c := atomC r (r.fn == 6) }))
  | 0x88 => some (mem .free (.only [1, 2, 3] true) false [0, 1] zero
                    (fun r => { d := if r.fn = 1 then .ds false else .none }))
  | 0x89 => some { mem .free .xfence false (List.range 8) zero (fun _ => { a := .lowRaw 3 }) with pen := false }
  | 0x8A => some { mem .free rlx false [0] zero (fun _ => { d := .dx, b := .up }) with pen := false }
  | 0x8B => some (mem .vectorUnlessUni rlx true [0, 1, 2] zero (fun _ => { a := anyBase, b := .off }))
  | 0x8C => some (mem .vectorUnlessUni rlx false [0, 1] zero (fun _ => { a := .base false false true true, b := .off, c := .u }))
  | 0x8D => some (mem .vectorUnlessUni .cinv false [0] zero (fun _ => { a := .base false false true true, b := .off, c := .u }))
  | _ => none

def opHaul (op : Nat) : Option OpInfo :=
  let sd : Slot := .srec 12 4 144
  let rs := fun (_ ty : Nat) => if ty = 4 then 0 else 6
  let ss := fun (_ ty : Nat) => ty != 4
  match op with
  | 0xA0 => some { role := .haul, fns := List.range 10, tys := haulTys, slots := fun _ => { a := sd } }
  | 0xA1 => some { role := .haul, slots := fun _ => { a := sd, b := .up } }
  | 0xA2 => some { role := .haul, slots := fun _ => { a := sd, b := .u } }
  | 0xA3 => some { role := .haul, fns := [0, 1, 2], slots := fun r => { a := sd, b := if r.fn = 0 then .none else .up } }
  | 0xA4 => some { role := .haul, fns := [0, 1], ord := .only [0, 2] true, slots := fun _ => { a := .up, b := .up } }
  | 0xA5 => some { role := .haul, fns := List.range 10, tys := haulTys, slots := fun _ => { a := sd, b := .u, c := .u } }
  | 0xA6 => some { role := .haul, tys := fun _ => tyAll, slots := fun _ => { a := anyBase, b := .off, c := .u } }
  | 0xA7 => some { role := .haul, fns := List.range 10, tys := haulTys, slots := fun _ => { a := anyBase, b := .off, c := .u } }
  | 0xA8 => some { role := .matrix, slots := fun _ => { d := .dtile, a := .up, b := .up, c := .up } }
  | 0xA9 => some { role := .matrix, slots := fun _ => { d := .dtile } }
  | 0xAA => some { role := .matrix, fns := List.range 6, tys := fun _ => tyFT, rnds := rs, sats := ss
                   slots := fun r => { d := .dvgrp (2 ^ r.fn) (2 ^ r.fn), a := .tile, b := .u } }
  | 0xAB => some { role := .matrix, fns := List.range 6, tys := fun _ => tyFT
                   slots := fun r => { d := .dtile, a := .vgrp (2 ^ r.fn), b := .u } }
  | 0xAC => some { role := .matrix, tys := fun _ => [4, 5], slots := fun _ => { d := .dtile, a := .padBase, b := .u, c := .u } }
  | 0xAD => some { role := .matrix, tys := fun _ => [4, 5], rnds := rs, sats := ss
                   slots := fun _ => { d := .tile, a := .padBase, b := .u, c := .u } }
  | _ => none

def opNet (op : Nat) : Option OpInfo :=
  let rlx : OrdUse := .only [0] true
  match op with
  | 0xC0 => some { role := .vector, fns := [0, 1], ord := rlx, slots := fun _ => { d := .dvgrp 8 8, a := .vgrp 8, b := .up } }
  | 0xC1 => some { role := .vector, ord := rlx
                   slots := fun _ => { d := .dvgrp 4 4, a := .vgrp 1, b := .vgrp 1, c := .srec 8 8 148 } }
  | 0xC2 => some { role := .vector, ord := .only [0, 2] true
                   slots := fun _ => { d := .dvgrp 1 1, a := .vgrp 16, b := .target } }
  | 0xC3 => some { role := .vector, ord := .only [0, 1] true, slots := fun _ => { d := .dvgrp 16 16, b := .u } }
  | 0xC4 => some { role := .vector, fns := List.range 6, ord := rlx
                   slots := fun r => { d := .ds false, b := .u, c := if r.fn ≤ 1 then .u else .none } }
  | 0xC5 => some { role := .haul, fns := [7, 8, 9], tys := fun _ => [4], ord := rlx
                   slots := fun _ => { a := .tile, b := .srec 4 4 152, c := .u } }
  | 0xC6 => some { role := .haul, ord := rlx, slots := fun _ => { d := .ds false, b := .up } }
  | 0xC7 => some { role := .haul, fns := [0, 1], ord := rlx, slots := fun _ => { d := .ds false, b := .u } }
  | _ => none

def opSys (op : Nat) : Option OpInfo :=
  match op with
  | 0xE0 => some (ctl true { d := .dspair, b := .u })
  | 0xE1 => some { ctl true { b := .u, c := .up } with fns := [0, 1, 2] }
  | 0xE2 => some { ctl false {} with fns := [0, 1, 2, 3] }
  | 0xE3 => some { ctl true { d := .dspair } with fns := [0, 1] }
  | 0xE4 => some (ctl true { a := .raw, b := .raw })
  | _ => none

/-- The opcode map (R67): none for a reserved major opcode. -/
def opInfo (op : Nat) : Option OpInfo :=
  if op < 0x20 then opInt op
  else if op < 0x40 then opFlt op
  else if op < 0x60 then opLane op
  else if op < 0x80 then opCtl op
  else if op < 0xA0 then opMem op
  else if op < 0xC0 then opHaul op
  else if op < 0xE0 then opNet op
  else opSys op

end Sys2Proof.Machine
end

