-- ==== Sys2Proof/Machine/Check.lean ====
section
/-! DEFINITION. The checks of R70 that need only the words (spec/03), in R71's order, and the registers an instruction
names (R11, R21, R415). -/

namespace Sys2Proof.Machine

/-- The trap causes (spec/25 R412). -/
inductive Cause where
  | illegal | reserved | role | operandForm | registerBound | privilege | poison | padExtent | translation | fetch
  | pageKind | poolRegion | spawnDepth | sync | loop | software | breakpoint | addrBreak | dataCompare | haulFault | svc
deriving DecidableEq, Repr

/-- The cause's code (R412). -/
def causeCode : Cause → Nat
  | .illegal => 1 | .reserved => 2 | .role => 3 | .operandForm => 4 | .registerBound => 5 | .privilege => 6
  | .poison => 7 | .padExtent => 8 | .translation => 9 | .fetch => 10 | .pageKind => 11 | .poolRegion => 12
  | .spawnDepth => 13 | .sync => 14 | .loop => 15 | .software => 16 | .breakpoint => 17 | .addrBreak => 18
  | .dataCompare => 19 | .haulFault => 20 | .svc => 21

/-- A register an instruction names: the first code, how many follow, the route it is read through, and whether it is
written. -/
structure RegUse where
  code : Nat
  n : Nat
  route : Nat
  dst : Bool
deriving DecidableEq, Repr

def isV (c : Nat) : Bool := decide (c < 768)
def isS (c : Nat) : Bool := decide (768 ≤ c ∧ c < 928)
def isX (c : Nat) : Bool := decide (928 ≤ c ∧ c < 936)
def isT (c : Nat) : Bool := decide (936 ≤ c ∧ c < 944)
def isLc (c : Nat) : Bool := decide (944 ≤ c ∧ c < 947)
def isSpecial (c : Nat) : Bool := decide (947 ≤ c ∧ c < 980)
def isPerLane (c : Nat) : Bool := decide (947 ≤ c ∧ c < 950)
/-- s0 to s156, the writable uniform registers (R44). -/
def isSW (c : Nat) : Bool := decide (768 ≤ c ∧ c < 925)

/-- Is constant code `c` valid in the type (R49)? -/
def constOk (c : Nat) (t : OTy) : Bool :=
  if c ≤ 975 then true
  else match t with
    | .flt _ => true
    | .pairF _ => true
    | _ => false

/-- May the operand code stand as a value of the type (R44, R45, R49, R53, R54)? -/
def valOk (c : Nat) (t : OTy) (hasLit : Bool) : Bool :=
  if isV c || isS c then t.regs == 1 || c % 2 == 0
  else if isLc c then true
  else if isSpecial c then (if 973 ≤ c then constOk c t else true)
  else c == 1023 && hasLit

/-- A group-wide source (R127): uniform register, loop counter, group-wide special source, LIT. -/
def uOk (c : Nat) (hasLit : Bool) : Bool :=
  isS c || isLc c || (decide (950 ≤ c ∧ c ≤ 975)) || (c == 1023 && hasLit)

/-- An even uniform pair or LIT (R127). -/
def upOk (c : Nat) (hasLit : Bool) : Bool := (isS c && c % 2 == 0) || (c == 1023 && hasLit)

/-- Does the code fit its slot? -/
def slotOk (uni hasLit : Bool) (ty c : Nat) : Slot → Bool
  | .none | .raw | .lowRaw _ => true
  | .val t _ => valOk c t hasLit
  | .u => uOk c hasLit
  | .up => upOk c hasLit
  | .upv l => (isV c && c % 2 == 0) || (isS c && c % 2 == 0) || (l && c == 1023 && hasLit)
  | .base pad vec x l =>
    (isS c && c % 2 == 0) || (vec && isV c && c % 2 == 0) || (x && isX c) || (pad && c == 1022) || (l && c == 1023 && hasLit)
  | .off => isV c || isS c || c == 973 || (c == 1023 && hasLit)
  | .padBase => c == 1022
  | .vgrp n => isV c && c % n == 0
  | .vsgrp n => (isV c && c % n == 0 && decide (c + n ≤ 768)) || (isS c && (c - 768) % n == 0 && decide (c + n ≤ 928))
  | .srec _ al top => isS c && (c - 768) % al == 0 && decide (c - 768 ≤ top)
  | .desc => isSW c || (c == 1023 && hasLit)
  | .target => isV c || uOk c hasLit
  | .tile | .dtile => isT c
  | .dval t uniS lc =>
    let pairOk := t.regs == 1 || c % 2 == 0
    let sOk := isSW c && pairOk && isSW (c + t.regs - 1)
    let lcOk := lc && isLc c && decide (ty ≤ 1)
    if uni then sOk || lcOk else (isV c && pairOk) || (uniS && sOk) || lcOk
  | .dvgrp _ al => isV c && c % al == 0
  | .dmask uniS => isV c || (uniS && isSW (c + 2) && isSW c)
  | .ds opt => isSW c || (opt && c == 0)
  | .dspair => isSW c && c % 2 == 0 && isSW (c + 1)
  | .dlink => isV c && c % 2 == 0
  | .dlc => isLc c
  | .dx => isX c

/-- May the source field carry the route (R56, R170)? -/
def routeOk (c route : Nat) (s : Slot) : Bool :=
  route == 0 ||
  (match s with
   | .val _ noRoute => !noRoute && (isV c || isPerLane c)
   | .base _ _ _ _ | .off | .vgrp _ | .vsgrp _ | .upv _ | .target => isV c
   | _ => false)

/-- Is the field one the opcode does not use? -/
def unusedSlot : Slot → Bool
  | .none => true
  | _ => false

/-- Is a source field wide, so that LIT gives it 64 bits (R53)? -/
def slotWide : Slot → Bool
  | .val t _ => t.regs == 2
  | .up => true
  | .upv _ => true
  | .base _ _ _ _ => true
  | _ => false

/-- How many registers the field names. -/
def slotRegs (c : Nat) : Slot → Nat
  | .none | .raw | .lowRaw _ => 0
  | .val t _ => if isV c || isS c then t.regs else 1
  | .up | .upv _ => 2
  | .base _ _ _ _ => if isV c || isS c then 2 else 1
  | .vgrp n | .vsgrp n | .dvgrp n _ => n
  | .srec n _ _ => n
  | .dval t _ _ => t.regs
  | .dmask _ => 3
  | .dspair | .dlink => 2
  | _ => 1

/-- Does an unused or optional field name nothing? -/
def namesNothing (c : Nat) : Slot → Bool
  | .none | .raw | .lowRaw _ => true
  | .ds opt => opt && c == 0
  | _ => false

/-- Is the destination field of this kind read and not written (MSTT's tile)? -/
def dIsRead : Slot → Bool
  | .tile => true
  | _ => false

/-- The registers the instruction names, predicate included. -/
def regUses (r : Raw) (s : Slots) : List RegUse :=
  let one := fun (slot : Slot) (c route : Nat) (dst : Bool) =>
    if namesNothing c slot || decide (947 ≤ c) then [] else [RegUse.mk c (slotRegs c slot) route dst]
  one s.d r.d 0 (!dIsRead s.d) ++ one s.a r.a r.ra false ++ one s.b r.b r.rb false ++ one s.c r.c r.rc false ++
    (if r.pen && decide (r.pred < 947) then [RegUse.mk r.pred 1 0 false] else [])

/-- Illegal-instruction conditions of the words (R70). -/
def isIllegal (r : Raw) : Bool :=
  match opInfo r.op with
  | none => true
  | some i => (r.compact && !i.elig) || !(i.fns.contains r.fn)

/-- A literal whose upper word is neither zero nor copies of bit 31 (R53). -/
def litWideOnly (l : Nat) : Bool :=
  let hi := l >>> 32
  !(hi == 0 || (hi == 0xFFFFFFFF && bit l 31))

/-- A used source field that names the literal. -/
def namesLit (c : Nat) (s : Slot) : Bool := c == 1023 && !namesNothing c s

/-- The fields of an opcode that a value above its free low bits breaks. -/
def lowRawBad (c : Nat) : Slot → Bool
  | .lowRaw n => decide (2 ^ n ≤ c)
  | _ => false

/-- Does the opcode leave SCOPE and ORDER unused? -/
def ordUnused : OrdUse → Bool
  | .unused => true
  | _ => false

/-- Reserved-field conditions of the words (R70). -/
def isReserved (r : Raw) (i : OpInfo) : Bool :=
  let s := i.slots r
  let bad := fun (slot : Slot) (c route : Nat) =>
    (unusedSlot slot && (c != 0 || route != 0)) || lowRawBad c slot ||
    ((match slot with | .raw => true | .lowRaw _ => true | _ => false) && route != 0)
  r.resBits || (unusedSlot s.d && r.d != 0) || bad s.a r.a r.ra || bad s.b r.b r.rb || bad s.c r.c r.rc ||
  (!r.pen && (r.pred != 0 || r.pneg)) || (r.pen && !i.pen) ||
  (ordUnused i.ord && (r.scope != 0 || r.order != 0)) || (!i.hint && r.hint != 0) ||
  (match r.lit with
   | none => false
   | some l =>
     let br := r.op == 0x61 || r.op == 0x63
     let n := fun (slot : Slot) (c : Nat) => namesLit c slot
     (!br && !(n s.a r.a || n s.b r.b || n s.c r.c)) ||
     (litWideOnly l && ((n s.a r.a && !slotWide s.a) || (n s.b r.b && !slotWide s.b) || (n s.c r.c && !slotWide s.c))))

/-- SCOPE and ORDER accepted (R65, R141, R256, R280)? -/
def ordOk (o : OrdUse) (fn order scope : Nat) : Bool :=
  match o with
  | .unused => true
  | .only os any => os.contains order && (if order = 0 then scope == 0 else any || scope == 0)
  | .onlyAt n there others => (if fn = n then there else others).contains order && (order != 0 || scope == 0)
  | .bar => (order == 0 && scope == 0) || (order == 3 && decide (1 ≤ scope ∧ scope ≤ 4))
  | .xfence => order == 0
  | .cinv => order == 0 && (scope == 2 || scope == 4 || scope == 5)

/-- The predicate code is one R57 allows. -/
def predOk (r : Raw) : Bool :=
  !r.pen || isV r.pred || isS r.pred || (isSpecial r.pred && (decide (r.pred < 973) || constOk r.pred (predTy r)))

/-- The operand-form conditions of the words hold nowhere (R70). -/
def operandOk (r : Raw) (i : OpInfo) : Bool :=
  let s := i.slots r
  let hl := r.lit.isSome
  (i.tys r.fn).contains r.ty && decide (r.rnd ≤ i.rnds r.fn r.ty) && (!r.sat || i.sats r.fn r.ty) && (!r.uni || i.uni) &&
  ordOk i.ord r.fn r.order r.scope &&
  slotOk r.uni hl r.ty r.d s.d && slotOk r.uni hl r.ty r.a s.a && slotOk r.uni hl r.ty r.b s.b && slotOk r.uni hl r.ty r.c s.c &&
  routeOk r.a r.ra s.a && routeOk r.b r.rb s.b && routeOk r.c r.rc s.c && predOk r

/-- The role the instruction asks for, as a bit of the role mask (R16, R17); 0 when it is free of role. -/
def roleBit (r : Raw) (i : OpInfo) : Nat :=
  match i.role with
  | .free => 0
  | .vector => 1
  | .vectorUnlessUni => if r.uni then 0 else 1
  | .matrix => 2
  | .haul => 4

/-- Every vector register named lies below `32k`, and every tile below the block's count (R21, R51). -/
def boundOk (r : Raw) (i : OpInfo) (k tiles : Nat) : Bool :=
  (regUses r (i.slots r)).all (fun u =>
    if isV u.code then decide (u.code + u.n ≤ 32 * k)
    else if isT u.code then decide (u.code - 936 < tiles)
    else true)

/-- The first trap of R71 that the words and the group's mask and allocation give. -/
def staticTrap (r : Raw) (roleMask : Nat) (service : Bool) (k tiles : Nat) : Option Cause :=
  match opInfo r.op with
  | none => some .illegal
  | some i =>
    if isIllegal r then some .illegal
    else if isReserved r i then some .reserved
    else if !service && roleBit r i != 0 && (roleMask &&& roleBit r i) == 0 then some .role
    else if !operandOk r i then some .operandForm
    else if !boundOk r i k tiles then some .registerBound
    else none

end Sys2Proof.Machine
end

