-- ==== Sys2Proof/Syntax.lean ====
section
/-! DEFINITION. The instructions: one constructor for each row of spec/opcode_table.json. Rows of instruction words carry
the fields of the word; rows of events have none: what an event works on (an operation, a packet, a register's value)
stands in State.ev. -/

namespace Sys2Proof

/-- The instructions. Constructors of one opcode: the compact word by its mnemonic, the other forms by the mnemonic with
Ext. -/
inductive Instr where
  /-- IADD (R117): Compact integer add of sources A and B into the destination. -/
  | iadd (u : BitVec 1) (b a d : BitVec 7)
  /-- IADD_EXT (R117): Integer add in the extended or literal forms. -/
  | iaddExt (f : Form)
  /-- ISUB (R117): Compact integer subtract. -/
  | isub (u : BitVec 1) (b a d : BitVec 7)
  /-- ISUB_EXT (R117): Integer subtract in the extended or literal forms. -/
  | isubExt (f : Form)
  /-- IMUL (R117): Compact integer multiply. -/
  | imul (u : BitVec 1) (b a d : BitVec 7)
  /-- IMUL_EXT (R117): Integer multiply in the extended or literal forms. -/
  | imulExt (f : Form)
  /-- IMULH (R118): Compact high half of an integer product. -/
  | imulh (u : BitVec 1) (b a d : BitVec 7)
  /-- IMULH_EXT (R118): High half of an integer product in the extended or literal forms. -/
  | imulhExt (f : Form)
  /-- IMAD (R117): Integer multiply-add with one exact result. -/
  | imad (f : Form)
  /-- IMADW (R118): Widening 32-bit multiply-add into a 64-bit pair. -/
  | imadw (f : Form)
  /-- IADDC (R119): 32-bit add or subtract with carry into a word and carry pair. -/
  | iaddc (f : Form)
  /-- INEG (R117): Compact integer negate of source B. -/
  | ineg (u : BitVec 1) (b a d : BitVec 7)
  /-- INEG_EXT (R117): Integer negate in the extended or literal forms. -/
  | inegExt (f : Form)
  /-- IABS (R117): Compact integer absolute value of source B. -/
  | iabs (u : BitVec 1) (b a d : BitVec 7)
  /-- IABS_EXT (R117): Integer absolute value in the extended or literal forms. -/
  | iabsExt (f : Form)
  /-- IMIN (R117): Compact integer minimum. -/
  | imin (u : BitVec 1) (b a d : BitVec 7)
  /-- IMIN_EXT (R117): Integer minimum in the extended or literal forms. -/
  | iminExt (f : Form)
  /-- IMAX (R117): Compact integer maximum. -/
  | imax (u : BitVec 1) (b a d : BitVec 7)
  /-- IMAX_EXT (R117): Integer maximum in the extended or literal forms. -/
  | imaxExt (f : Form)
  /-- AND (R120): Compact bitwise AND. -/
  | iand (u : BitVec 1) (b a d : BitVec 7)
  /-- AND_EXT (R120): Bitwise AND in the extended or literal forms. -/
  | iandExt (f : Form)
  /-- OR (R120): Compact bitwise OR. -/
  | ior (u : BitVec 1) (b a d : BitVec 7)
  /-- OR_EXT (R120): Bitwise OR in the extended or literal forms. -/
  | iorExt (f : Form)
  /-- XOR (R120): Compact bitwise XOR. -/
  | ixor (u : BitVec 1) (b a d : BitVec 7)
  /-- XOR_EXT (R120): Bitwise XOR in the extended or literal forms. -/
  | ixorExt (f : Form)
  /-- ANDN (R120): Compact A AND NOT B. -/
  | andn (u : BitVec 1) (b a d : BitVec 7)
  /-- ANDN_EXT (R120): A AND NOT B in the extended or literal forms. -/
  | andnExt (f : Form)
  /-- NOT (R120): Compact bitwise NOT of source B. -/
  | inot (u : BitVec 1) (b a d : BitVec 7)
  /-- NOT_EXT (R120): Bitwise NOT in the extended or literal forms. -/
  | inotExt (f : Form)
  /-- SHL (R120): Compact shift left. -/
  | shl (u : BitVec 1) (b a d : BitVec 7)
  /-- SHL_EXT (R120): Shift left in the extended or literal forms. -/
  | shlExt (f : Form)
  /-- SHR (R120): Compact logical shift right. -/
  | shr (u : BitVec 1) (b a d : BitVec 7)
  /-- SHR_EXT (R120): Logical shift right in the extended or literal forms. -/
  | shrExt (f : Form)
  /-- SAR (R120): Compact arithmetic shift right. -/
  | sar (u : BitVec 1) (b a d : BitVec 7)
  /-- SAR_EXT (R120): Arithmetic shift right in the extended or literal forms. -/
  | sarExt (f : Form)
  /-- ROTL (R120): Compact rotate left. -/
  | rotl (u : BitVec 1) (b a d : BitVec 7)
  /-- ROTL_EXT (R120): Rotate left in the extended or literal forms. -/
  | rotlExt (f : Form)
  /-- BFX (R121): Bit-field extract, zero- or sign-extended. -/
  | bfx (f : Form)
  /-- BFI (R121): Bit-field insert of A into C. -/
  | bfi (f : Form)
  /-- POPC (R122): Compact population count of source B. -/
  | popc (u : BitVec 1) (b a d : BitVec 7)
  /-- POPC_EXT (R122): Population count in the extended or literal forms. -/
  | popcExt (f : Form)
  /-- CLZ (R122): Compact count of leading zeros. -/
  | clz (u : BitVec 1) (b a d : BitVec 7)
  /-- CLZ_EXT (R122): Count of leading zeros in the extended or literal forms. -/
  | clzExt (f : Form)
  /-- CTZ (R122): Compact count of trailing zeros. -/
  | ctz (u : BitVec 1) (b a d : BitVec 7)
  /-- CTZ_EXT (R122): Count of trailing zeros in the extended or literal forms. -/
  | ctzExt (f : Form)
  /-- BREV (R122): Compact bit reversal. -/
  | brev (u : BitVec 1) (b a d : BitVec 7)
  /-- BREV_EXT (R122): Bit reversal in the extended or literal forms. -/
  | brevExt (f : Form)
  /-- ICMP (R124): Compact integer compare for equality, writing 1 or 0. -/
  | icmp (u : BitVec 1) (b a d : BitVec 7)
  /-- ICMP_EXT (R124): Integer compare under any condition, in the extended or literal forms. -/
  | icmpExt (f : Form)
  /-- SEL (R125): Select A or B by bit 0 of C. -/
  | sel (f : Form)
  /-- LEA (R126): Form a 64-bit address from a base pair and a scaled index. -/
  | lea (f : Form)
  /-- MOV (R125): Compact move of source B. -/
  | mov (u : BitVec 1) (b a d : BitVec 7)
  /-- MOV_EXT (R125): Move in the extended or literal forms, including writes to loop counters. -/
  | movExt (f : Form)
  /-- BYSEL (R123): Build a word byte by byte from eight source bytes under selectors. -/
  | bysel (f : Form)
  /-- FADD (R154): Compact F32 add, rounded once. -/
  | fadd (u : BitVec 1) (b a d : BitVec 7)
  /-- FADD_EXT (R154): Floating add in the extended or literal forms. -/
  | faddExt (f : Form)
  /-- FSUB (R154): Compact F32 subtract. -/
  | fsub (u : BitVec 1) (b a d : BitVec 7)
  /-- FSUB_EXT (R154): Floating subtract in the extended or literal forms. -/
  | fsubExt (f : Form)
  /-- FMUL (R154): Compact F32 multiply. -/
  | fmul (u : BitVec 1) (b a d : BitVec 7)
  /-- FMUL_EXT (R154): Floating multiply in the extended or literal forms. -/
  | fmulExt (f : Form)
  /-- FFMA (R154): Fused floating multiply-add with one rounding. -/
  | ffma (f : Form)
  /-- FMIN (R161): Compact F32 minimumNumber. -/
  | fmin (u : BitVec 1) (b a d : BitVec 7)
  /-- FMIN_EXT (R161): Floating minimumNumber in the extended or literal forms. -/
  | fminExt (f : Form)
  /-- FMAX (R161): Compact F32 maximumNumber. -/
  | fmax (u : BitVec 1) (b a d : BitVec 7)
  /-- FMAX_EXT (R161): Floating maximumNumber in the extended or literal forms. -/
  | fmaxExt (f : Form)
  /-- FMINP (R161): Floating minimum that propagates NaN. -/
  | fminp (f : Form)
  /-- FMAXP (R161): Floating maximum that propagates NaN. -/
  | fmaxp (f : Form)
  /-- FCMP (R162): Compact F32 compare for equality. -/
  | fcmp (u : BitVec 1) (b a d : BitVec 7)
  /-- FCMP_EXT (R162): Floating compare under any condition, in the extended or literal forms. -/
  | fcmpExt (f : Form)
  /-- FRCP (R155): Compact F32 reciprocal, correctly rounded. -/
  | frcp (u : BitVec 1) (b a d : BitVec 7)
  /-- FRCP_EXT (R155): Floating reciprocal in the extended or literal forms. -/
  | frcpExt (f : Form)
  /-- FRSQ (R156): Compact F32 reciprocal square root. -/
  | frsq (u : BitVec 1) (b a d : BitVec 7)
  /-- FRSQ_EXT (R156): Reciprocal square root in the extended or literal forms. -/
  | frsqExt (f : Form)
  /-- FSQRT (R155): Compact F32 square root. -/
  | fsqrt (u : BitVec 1) (b a d : BitVec 7)
  /-- FSQRT_EXT (R155): Square root in the extended or literal forms. -/
  | fsqrtExt (f : Form)
  /-- FDIV (R154): Floating divide, rounded once. -/
  | fdiv (f : Form)
  /-- FEXP2 (R156): Compact F32 base-2 exponential. -/
  | fexp2 (u : BitVec 1) (b a d : BitVec 7)
  /-- FEXP2_EXT (R156): Base-2 exponential in the extended or literal forms. -/
  | fexp2Ext (f : Form)
  /-- FLOG2 (R156): Compact F32 base-2 logarithm. -/
  | flog2 (u : BitVec 1) (b a d : BitVec 7)
  /-- FLOG2_EXT (R156): Base-2 logarithm in the extended or literal forms. -/
  | flog2Ext (f : Form)
  /-- FSIN (R156): Sine of the exact input, rounded once. -/
  | fsin (f : Form)
  /-- FCOS (R156): Cosine of the exact input, rounded once. -/
  | fcos (f : Form)
  /-- FRND (R157): Round to an integral value in the same format. -/
  | frnd (f : Form)
  /-- FCLASS (R163): Classify a floating encoding into a one-hot mask. -/
  | fclass (f : Form)
  /-- FLDEXP (R158): Scale a floating value by a power of two. -/
  | fldexp (f : Form)
  /-- FFREXP (R159): Split a floating value into fraction or exponent. -/
  | ffrexp (f : Form)
  /-- PADD2 (R160): Elementwise add of two 16-bit floating pairs. -/
  | padd2 (f : Form)
  /-- PMUL2 (R160): Elementwise multiply of two 16-bit floating pairs. -/
  | pmul2 (f : Form)
  /-- PFMA2 (R160): Elementwise fused multiply-add of 16-bit floating pairs. -/
  | pfma2 (f : Form)
  /-- CVT (R165): Convert between any two numeric types. -/
  | cvt (f : Form)
  /-- QBLK (R167): Quantise blocks of lanes into block-format integers or scales. -/
  | qblk (f : Form)
  /-- DQBLK (R168): Turn a block element and scale back into a floating value. -/
  | dqblk (f : Form)
  /-- SHFL (R170): Read source A from a lane chosen by each lane. -/
  | shfl (f : Form)
  /-- MATCH (R173): Find the lanes whose source B matches bit for bit. -/
  | matchOp (f : Form)
  /-- BALLOT (R172): Write a 96-bit mask of participating lanes' bit 0. -/
  | ballot (f : Form)
  /-- VOTE (R172): Vote ALL, ANY or EQ over participating lanes. -/
  | vote (f : Form)
  /-- REDU (R174): Reduce source B over participating lanes. -/
  | redu (f : Form)
  /-- SCAN (R175): Inclusive or exclusive prefix over participating lanes. -/
  | scan (f : Form)
  /-- NOP (R136): Compact no-operation that only advances program counters. -/
  | nop (rest : BitVec 22)
  /-- NOP_EXT (R136): No-operation in the extended form. -/
  | nopExt (f : Form)
  /-- BRA (R129): Compact branch by a signed word offset. -/
  | bra (rest : BitVec 22)
  /-- BRA_EXT (R129): Branch in the extended, predicated or literal forms. -/
  | braExt (f : Form)
  /-- BRX (R129): Indirect branch to a per-lane or uniform address. -/
  | brx (f : Form)
  /-- CALL (R129): Compact call that writes the link pair v94:v95. -/
  | call (rest : BitVec 22)
  /-- CALL_EXT (R129): Call in the extended, predicated or literal forms. -/
  | callExt (f : Form)
  /-- RET (R129): Compact return through v94:v95. -/
  | ret (rest : BitVec 22)
  /-- RET_EXT (R129): Return through a named pair in the extended form. -/
  | retExt (f : Form)
  /-- LOOP (R130): Start a hardware loop with a counter and a body. -/
  | loopOp (f : Form)
  /-- LBINV (R134): Empty the group's loop buffer. -/
  | lbinv (f : Form)
  /-- EXIT (R136): Compact exit: enabled lanes stop being live. -/
  | exitOp (rest : BitVec 22)
  /-- EXIT_EXT (R136): Exit in the extended, predicated form. -/
  | exitOpExt (f : Form)
  /-- YIELD (R136): Compact yield: the group leaves the active set for 16 cycles. -/
  | yield (rest : BitVec 22)
  /-- YIELD_EXT (R136): Yield in the extended form. -/
  | yieldExt (f : Form)
  /-- TRAP (R137): Raise the software trap with a code. -/
  | trap (f : Form)
  /-- BRK (R137): Raise the breakpoint trap with a code. -/
  | brk (f : Form)
  /-- WAITC (R138): Wait until a path's in-flight counter is at or below a threshold. -/
  | waitc (f : Form)
  /-- BAR (R140): Arrive at a block barrier, optionally with release and acquire. -/
  | bar (f : Form)
  /-- ABINIT (R143): Initialise an asynchronous barrier object in pad. -/
  | abinit (f : Form)
  /-- ABARV (R143): Arrive at or leave an asynchronous barrier object, writing a ticket. -/
  | abarv (f : Form)
  /-- ABWAIT (R144): Wait until a barrier generation has completed. -/
  | abwait (f : Form)
  /-- ABEXP (R143): Add expected bytes to a barrier object's OWED. -/
  | abexp (f : Form)
  /-- STGW (R147): Wait on the full or empty phase of a stage-ring slot. -/
  | stgw (f : Form)
  /-- STGP (R147): Post full or empty on a stage ring, or initialise it. -/
  | stgp (f : Form)
  /-- SPAWN (R148): Launch a child grid from a launch record. -/
  | spawn (f : Form)
  /-- JOIN (R35): Suspend the block until its child grids retire. -/
  | joinOp (f : Form)
  /-- RALLOC (R22): Request growth of the group's register allocation. -/
  | ralloc (f : Form)
  /-- RFREE (R22): Shrink the group's register allocation. -/
  | rfree (f : Form)
  /-- TWAIT (R139): Wait until the PTP time reaches a value. -/
  | twait (f : Form)
  /-- LD (R262): Compact U32 load from a base and offset. -/
  | ld (u : BitVec 1) (b a d : BitVec 7)
  /-- LD_EXT (R262): Load of any type or order in the extended or literal forms. -/
  | ldExt (f : Form)
  /-- ST (R262): Compact U32 store of the value named by DST7. -/
  | st (u : BitVec 1) (b a d : BitVec 7)
  /-- ST_EXT (R262): Store of any type or order in the extended or literal forms. -/
  | stExt (f : Form)
  /-- LDP (R266): Load 2 to 16 words per lane into consecutive registers. -/
  | ldp (f : Form)
  /-- STP (R266): Store 2 to 16 words per lane from consecutive registers. -/
  | stp (f : Form)
  /-- ATOM (R268): Returning atomic read-modify-write. -/
  | atom (f : Form)
  /-- ATOMN (R270): Non-returning atomic on the ST path. -/
  | atomn (f : Form)
  /-- ATOMW (R272): 128-bit atomic add or compare-and-swap. -/
  | atomw (f : Form)
  /-- ATOMP (R273): Atomic on the block's pad at the bank. -/
  | atomp (f : Form)
  /-- FENCE (R274): Release, acquire or both at a scope, optionally with status. -/
  | fence (f : Form)
  /-- XFENCE (R276): Order a destination path after a source path at a scope. -/
  | xfence (f : Form)
  /-- XLT (R277): Walk the page table and fill a translation register. -/
  | xlt (f : Form)
  /-- PREF (R278): Prefetch lines into L1, L2 or the dray cache. -/
  | pref (f : Form)
  /-- CFLUSH (R279): Write back, and optionally invalidate, a byte range. -/
  | cflush (f : Form)
  /-- CINV (R280): Invalidate clean copies of a range at a scope. -/
  | cinv (f : Form)
  /-- HCOPY (R288): Start a haul copy or reducing copy from a descriptor. -/
  | hcopy (f : Form)
  /-- HXPOSE (R294): Start a haul transpose of an operand into pad bit planes. -/
  | hxpose (f : Form)
  /-- HFILL (R291): Start a haul fill with a 32-bit pattern. -/
  | hfill (f : Form)
  /-- HREM (R295): Start a remote put into a peer, optionally followed by a signal. -/
  | hrem (f : Form)
  /-- HSIG (R296): Send a 64-bit set or add signal. -/
  | hsig (f : Form)
  /-- HTRIG (R297): Queue a haul copy that fires on a trigger word. -/
  | htrig (f : Form)
  /-- GATH (R300): Gather one element per lane from memory into pad. -/
  | gath (f : Form)
  /-- SCAT (R300): Scatter or reduce one pad element per lane into memory. -/
  | scat (f : Form)
  /-- MLOOP (R302): Start a bit-plane matrix loop into a tile. -/
  | mloop (f : Form)
  /-- MZERO (R308): Set every element of a tile to +0. -/
  | mzero (f : Form)
  /-- MTRD (R309): Read tile columns into vector registers. -/
  | mtrd (f : Form)
  /-- MTWR (R309): Write vector registers into tile columns. -/
  | mtwr (f : Form)
  /-- MLDT (R308): Load a whole tile from pad. -/
  | mldt (f : Form)
  /-- MSTT (R308): Store a whole tile to pad. -/
  | mstt (f : Form)
  /-- RTRAV (R317): Traverse a BVH for one ray per lane. -/
  | rtrav (f : Form)
  /-- TEXF (R322): Sample a filtered texel per lane. -/
  | texf (f : Form)
  /-- WSEND (R327): Send wagons to a package channel against credits. -/
  | wsend (f : Form)
  /-- WRECV (R328): Take queued wagons from a channel. -/
  | wrecv (f : Form)
  /-- WBAY (R326): Open, grant, close, return, read credits or depth of wagon channels. -/
  | wbay (f : Form)
  /-- COLL (R341): Start a tree reduction of a tile across packages. -/
  | coll (f : Form)
  /-- CMPJ (R336): Submit a Landau compositor job. -/
  | cmpj (f : Form)
  /-- CMPQ (R340): Query or cancel a Landau job. -/
  | cmpq (f : Form)
  /-- CSRR (R421): Read a control register into a uniform pair. -/
  | csrr (f : Form)
  /-- CSRW (R421): Write, set or clear bits of a control register. -/
  | csrw (f : Form)
  /-- ERET (R419): Return from the service level to resume, replay, skip or close. -/
  | eret (f : Form)
  /-- TIME (R421): Read the 64-bit PTP time or cycle count. -/
  | time (f : Form)
  /-- SVC (R421): Trap to the service routine with a code. -/
  | svc (f : Form)
  /-- RESERVED_MAJOR_OPCODE (R70): Issue of a word whose major opcode is reserved raises the illegal-instruction trap. -/
  | reservedMajorOpcode (w : BitVec 160)
  /-- LOAD_DATA_RETURN (R14): Load data arrives and clears the pending flag; the lane rejoins. -/
  | loadDataReturn
  /-- GROUP_RETIRE (R7): A group with no live lane and no operation outstanding retires. -/
  | groupRetire
  /-- BLOCK_PLACE (R20): The distributor places a block on a core with room. -/
  | blockPlace
  /-- RALLOC_GRANT (R22): A waiting register-growth request is granted from the pool. -/
  | rallocGrant
  /-- RFREE_RETURN (R22): Freed register blocks return to the pool once nothing is pending. -/
  | rfreeReturn
  /-- GROWTH_DEADLOCK_SPILL (R24): After 16,384 cycles without a return, the youngest waiter's block is spilled. -/
  | growthDeadlockSpill
  /-- BLOCK_SAVE (R38): A whole block is saved to its context area after its paths drain. -/
  | blockSave
  /-- BLOCK_RESTORE (R42): A saved block is restored on a core with room. -/
  | blockRestore
  /-- ACTIVE_SET_ENTRY (R27): A ready group that has waited 32 cycles enters the active set. -/
  | activeSetEntry
  /-- YIELD_EXPIRE (R136): A yielding group becomes ready again after 16 slot cycles. -/
  | yieldExpire
  /-- TWAIT_RESUME (R139): The PTP time reaches T and the waiting group resumes. -/
  | twaitResume
  /-- HTRIG_FIRE (R298): The head trigger entry fires as an HCOPY. -/
  | htrigFire
  /-- HAUL_OP_COMPLETE (R286): A haul operation completes and performs its completion actions. -/
  | haulOpComplete
  /-- HAUL_OP_FAULT (R287): An HL, GA or NT operation ends faulted and records its cause. -/
  | haulOpFault
  /-- HREM_SIGNAL (R295): After the data acknowledgements, HREM performs its set or add signal. -/
  | hremSignal
  /-- NT_OP_COMPLETE (R388): A network operation completes, writing live or saved block state. -/
  | ntOpComplete
  /-- GATH_SCAT_COMPLETE (R299): Every lane's gather or scatter element is complete. -/
  | gathScatComplete
  /-- MLOOP_KSTEP (R303): The matrix engine completes one K-step into the tile. -/
  | mloopKstep
  /-- MLOOP_COMPLETE (R307): MLOOP adds its last accumulation and MX falls. -/
  | mloopComplete
  /-- TILE_OP_COMPLETE (R301): A whole-tile or tile-register operation completes. -/
  | tileOpComplete
  /-- RTRAV_COMPLETE (R320): Every lane of a traversal has its results and RY falls. -/
  | rtravComplete
  /-- TEXF_COMPLETE (R322): Every lane's filtered sample is written. -/
  | texfComplete
  /-- HOME_STORE_APPLY (R189): The home applies a store's words and sends updates to sharers. -/
  | homeStoreApply
  /-- SHARER_UPDATE (R189): A sharing core applies the update to its L1 copy and acknowledges. -/
  | sharerUpdate
  /-- STORE_COMPLETE (R189): All acknowledgements arrive and the home completes the store. -/
  | storeComplete
  /-- L1_FILL (R187): The home returns a requested span to L1. -/
  | l1Fill
  /-- OWNERSHIP_RECALL (R191): The home recalls exclusive ownership and the owner writes back. -/
  | ownershipRecall
  /-- FAR_ATOMIC (R192): The home performs an atomic in L2 and updates sharers. -/
  | farAtomic
  /-- DIRECTORY_REBUILD (R194): An uncorrectable directory entry is rebuilt by recalling the line. -/
  | directoryRebuild
  /-- HOST_READ (R195): A host CXL read of device memory. -/
  | hostRead
  /-- HOST_WRITE (R195): A host CXL write of one half of a line. -/
  | hostWrite
  /-- POOL_BACK_INVALIDATE (R213): A pool back-invalidation clears the granule from all caches. -/
  | poolBackInvalidate
  /-- TLB_INV (R423): A write to TLB_INV starts a partition TLB invalidation. -/
  | tlbInv
  /-- TLB_INV_COMPLETE (R423): The invalidation completes after entries drop and accesses complete. -/
  | tlbInvComplete
  /-- LS_BANK_SWITCH (R180): LS_BANKCTL GO with GATE clear requests a mode change or wake. -/
  | lsBankSwitch
  /-- LS_BANK_GATE (R180): LS_BANKCTL GO with GATE set requests power gating. -/
  | lsBankGate
  /-- LS_BANK_SWITCH_DONE (R181): The bank's write-back and eviction steps end. -/
  | lsBankSwitchDone
  /-- LS_BANK_WAKE_DONE (R181): The bank's zero fill ends and it becomes READY. -/
  | lsBankWakeDone
  /-- L2_WAY_GATE (R183): Clearing an ON bit removes a way and starts its write-back. -/
  | l2WayGate
  /-- L2_WAY_GATE_DONE (R183): The way's dirty lines are written and its power is removed. -/
  | l2WayGateDone
  /-- L2_WAY_WAKE (R183): Setting an ON bit starts the way's zero fill. -/
  | l2WayWake
  /-- L2_WAY_WAKE_DONE (R183): The way's fill ends and READY is set. -/
  | l2WayWakeDone
  /-- HOST_WINBASE (R196): A write to HOST_WINBASE, back-invalidating the window when EN clears. -/
  | hostWinbase
  /-- HOST_WINSIZE (R196): A write to HOST_WINSIZE, ignored while EN is set. -/
  | hostWinsize
  /-- DRAY_CFG (R210): A write to DRAY_CFG invalidates every frame. -/
  | drayCfg
  /-- FAB_MEMBERS (R346): A write to FAB_MEMBERS fences or admits packages. -/
  | fabMembers
  /-- PEER_UNREACHABLE (R346): A package no up port reaches for 1 ms is treated as fenced. -/
  | peerUnreachable
  /-- FAB_CLASS (R352): A write to FAB_CLASS, ignored when the reservations exceed 48. -/
  | fabClass
  /-- READ (R349): A fabric read packet arrives at the target home. -/
  | read
  /-- READ_DATA (R349): A fabric read-data response arrives at the source. -/
  | readData
  /-- WRITE (R349): A fabric write packet arrives at the target home. -/
  | write
  /-- ATOMIC (R349): A fabric atomic packet arrives at the target home. -/
  | atomicReq
  /-- ATOMIC_DATA (R349): A fabric atomic-data response arrives at the source. -/
  | atomicData
  /-- ACKNOWLEDGEMENT (R349): A fabric acknowledgement arrives at the source. -/
  | acknowledgement
  /-- RATE_INCREASE (R353): After 8 µs without an echoed mark the rate rises. -/
  | rateIncrease
  /-- SIGNAL (R349): A fabric signal packet arrives at the target. -/
  | signal
  /-- WAGON (R349): A wagon packet arrives at the receiving package. -/
  | wagon
  /-- CREDIT (R349): A credit packet for a grant or return arrives. -/
  | credit
  /-- MULTICAST_WRITE (R355): A multicast write copy arrives, is written and forwarded. -/
  | multicastWrite
  /-- MULTICAST_COPY_DROP (R356): A multicast copy that waited 50 µs is dropped with a NACK. -/
  | multicastCopyDrop
  /-- BRANCH_NACK (R357): A branch NACK arrives and covers its subtree. -/
  | branchNack
  /-- POOL_LINK_LOST (R363): An error or viral signal loses a pool link and faults its regions. -/
  | poolLinkLost
  /-- POOL_LINK_DOWN_TIMEOUT (R363): A pool link inactive for 10 ms is lost. -/
  | poolLinkDownTimeout
  /-- POOL_REQUEST_TIMEOUT (R363): A pool request waiting 2 ms loses its link. -/
  | poolRequestTimeout
  /-- POOL_RSYNC (R362): A write to POOL_RSYNC applies a region table entry. -/
  | poolRsync
  /-- LANDAU_JOB_START (R336): A queued Landau job starts running. -/
  | landauJobStart
  /-- UET_MESSAGE (R370): A UET message of a Landau job arrives. -/
  | uetMessage
  /-- LANDAU_TIMEOUT (R338): A round waiting 250 ms for a peer fails the job. -/
  | landauTimeout
  /-- COLL_CHILD_ARRIVE (R343): A child's half arrives in staging and is combined. -/
  | collChildArrive
  /-- COLL_COMPLETE (R344): The reduced tile is written and the barrier arrival is made. -/
  | collComplete
  /-- PTP_EVENT_MESSAGE (R373): A PTP event message is timestamped and steers the clock. -/
  | ptpEventMessage
  /-- PTP_SYNC_LOSS (R376): Three missed Sync intervals clear LOCKED. -/
  | ptpSyncLoss
  /-- PTP_CFG (R375): A write to PTP_CFG reconfigures the clock and clears LOCKED. -/
  | ptpCfg
  /-- QUEUE_TAIL (R395): A doorbell write to QUEUE_TAIL adds records. -/
  | queueTail
  /-- QUEUE_CFG (R394): A write to QUEUE_CFG configures a queue and its owner. -/
  | queueCfg
  /-- RECORD_START (R398): The distributor starts the head record of a selected queue. -/
  | recordStart
  /-- TOK_SIGNAL (R400): A write to TOK_SIGNAL signals a token. -/
  | tokSignal
  /-- TOKEN_RECORD_FIRE (R402): A token record signals when the PTP time reaches PARAMS. -/
  | tokenRecordFire
  /-- GRAPH_REPLAY_START (R404): A graph replay takes a free generation and fills it. -/
  | graphReplayStart
  /-- GRAPH_NODE_START (R405): A graph node starts when its predecessors have retired. -/
  | graphNodeStart
  /-- GO (R385): PART_RESIZE GO starts a resize after its checks. -/
  | goResize
  /-- CANCEL (R386): PART_RESIZE CANCEL abandons a resize still in PLAN. -/
  | cancel
  /-- EVDONE (R390): PART_RESIZE EVDONE ends forwarding and starts SCRUB. -/
  | evdone
  /-- PLAN_DONE (R386): PLAN ends and the resize moves to its next state. -/
  | planDone
  /-- ADMIT (R386): Joining resources become the partition's. -/
  | admitEvent
  /-- SHUNT_MOVE (R388): A block on a leaving core is moved to a remaining core. -/
  | shuntMove
  /-- REHASH_SWEEP (R389): A line's directory entry, data and predictor move to the new home. -/
  | rehashSweep
  /-- REHASH_DONE (R389): The sweep ends and the new slice list alone is used. -/
  | rehashDone
  /-- EVAC_FRAME_COPY (R390): A listed frame is copied and forwarding begins. -/
  | evacFrameCopy
  /-- SCRUB_DONE (R391): A leaving resource is scrubbed and enters the free pool. -/
  | scrubDone
  /-- PART_WCHAN (R381): A write to PART_WCHAN changes wagon channel ownership. -/
  | partWchan
  /-- LANDAU_PID (R371): A write to LANDAU_PID, deferred while a job is queued or running. -/
  | landauPid
  /-- MGMT_REGISTER_WRITE (R424): A write to a management register without a row of its own. -/
  | mgmtRegisterWrite
  /-- MGO (R426): DBG_CTL MGO lets halted MLOOPs run a step or complete. -/
  | mgo
  /-- RESET (R427): Reset starts the boot order. -/
  | resetEvent
  /-- IMG_CHUNK (R429): Mailbox command copying image data into staging. -/
  | imgChunk
  /-- IMG_RUN (R429): Mailbox command checking and running the staged image. -/
  | imgRun
  /-- IMG_FLASH (R429): Mailbox command writing the staged image to flash. -/
  | imgFlash
  /-- CFG_WRITE (R429): Mailbox command checking and writing a configuration record. -/
  | cfgWrite
  /-- TEST_ENTER (R429): Mailbox command entering test mode. -/
  | testEnter
  /-- PWR_LIMIT (R429): Mailbox command setting the power limit. -/
  | pwrLimit
  /-- DUMP_RELEASE (R429): Mailbox command clearing DUMPVALID. -/
  | dumpRelease
  /-- IDENTITY (R429): Mailbox command returning the identity key and serial. -/
  | identity
  /-- KEY_SET (R431): Mailbox command installing a key and extending AR. -/
  | keySet
  /-- KEY_CLEAR (R431): Mailbox command emptying a key slot and extending AR. -/
  | keyClear
  /-- LOAD_POLICY (R431): Mailbox command setting the load policy and extending AR. -/
  | loadPolicy
  /-- LOAD (R430): Mailbox command running the loader on a container. -/
  | loadContainer
  /-- QUOTE (R429): Mailbox command returning a signed attestation quote. -/
  | quote
  /-- MBX_UNKNOWN_COMMAND (R429): A mailbox command with an unknown code gives RESULT 1. -/
  | mbxUnknownCommand
  /-- THERMAL_TRIP (R432): A 105 °C junction trip removes power. -/
  | thermalTrip
  /-- FEED_FAULT (R432): The 48 V feed outside 40 to 60 V removes power. -/
  | feedFault
  /-- PACKAGE_FATAL_ERROR (R432): A firmware-state error or HBM stack loss stops the package and dumps. -/
  | packageFatalError
  /-- POWER_LIMIT_CONTROL (R435): Power averaged over 1 ms steers the clock and HBM cap. -/
  | powerLimitControl
  /-- SV_OPERATION_COMPLETE (R277): An XLT walk, CFLUSH or CINV finishes, writes its translation register or reaches its memory, and the SV
  counter falls. -/
  | svOperationComplete
  /-- NGAUB_PORT_DOWN (R348): An Ngaub port goes down and carries nothing, removing it from packet routing. -/
  | ngaubPortDown
  /-- NGAUB_PORT_UP (R346): An Ngaub port comes up again, so a package treated as fenced becomes reachable once more. -/
  | ngaubPortUp
  /-- POOL_LINK_TRAINED (R361): A pool link trains, setting UP, or is held down when it trains only at CXL 2.0 or without back-invalidation. -/
  | poolLinkTrained
  /-- UET_LINK_ERROR (R338): A link error that the Ultra Ethernet transport cannot recover fails the running Landau job with TRANSPORT. -/
  | uetLinkError
deriving DecidableEq, Repr

end Sys2Proof
end

