-- ==== Sys2Proof/Machine/Fields.lean ====
section
/-! DEFINITION. The fields of each instruction (spec/03 R58 to R62), by the opcode map of R67. -/

namespace Sys2Proof.Machine

/-- The fields of a word of a reserved major opcode (R70). -/
def rawReserved (w : Nat) : Raw :=
  { op := w / 4 % 256, compact := w % 2 == 0
    len := match w % 4 with
      | 0 => 4
      | 3 => 20
      | _ => 12 }

/-- The fields of an instruction word; none for an event. -/
def rawInstr (i : Instr) : Option Raw :=
  match i with
  | .iadd u b a d => some (rawCompact 0x00 u.toNat b.toNat a.toNat d.toNat none)
  | .iaddExt f => some (rawOf 0x00 f)
  | .isub u b a d => some (rawCompact 0x01 u.toNat b.toNat a.toNat d.toNat none)
  | .isubExt f => some (rawOf 0x01 f)
  | .imul u b a d => some (rawCompact 0x02 u.toNat b.toNat a.toNat d.toNat none)
  | .imulExt f => some (rawOf 0x02 f)
  | .imulh u b a d => some (rawCompact 0x03 u.toNat b.toNat a.toNat d.toNat none)
  | .imulhExt f => some (rawOf 0x03 f)
  | .imad f => some (rawOf 0x04 f)
  | .imadw f => some (rawOf 0x05 f)
  | .iaddc f => some (rawOf 0x06 f)
  | .ineg u b a d => some (rawCompact 0x07 u.toNat b.toNat a.toNat d.toNat none)
  | .inegExt f => some (rawOf 0x07 f)
  | .iabs u b a d => some (rawCompact 0x08 u.toNat b.toNat a.toNat d.toNat none)
  | .iabsExt f => some (rawOf 0x08 f)
  | .imin u b a d => some (rawCompact 0x09 u.toNat b.toNat a.toNat d.toNat none)
  | .iminExt f => some (rawOf 0x09 f)
  | .imax u b a d => some (rawCompact 0x0A u.toNat b.toNat a.toNat d.toNat none)
  | .imaxExt f => some (rawOf 0x0A f)
  | .iand u b a d => some (rawCompact 0x0B u.toNat b.toNat a.toNat d.toNat none)
  | .iandExt f => some (rawOf 0x0B f)
  | .ior u b a d => some (rawCompact 0x0C u.toNat b.toNat a.toNat d.toNat none)
  | .iorExt f => some (rawOf 0x0C f)
  | .ixor u b a d => some (rawCompact 0x0D u.toNat b.toNat a.toNat d.toNat none)
  | .ixorExt f => some (rawOf 0x0D f)
  | .andn u b a d => some (rawCompact 0x0E u.toNat b.toNat a.toNat d.toNat none)
  | .andnExt f => some (rawOf 0x0E f)
  | .inot u b a d => some (rawCompact 0x0F u.toNat b.toNat a.toNat d.toNat none)
  | .inotExt f => some (rawOf 0x0F f)
  | .shl u b a d => some (rawCompact 0x10 u.toNat b.toNat a.toNat d.toNat none)
  | .shlExt f => some (rawOf 0x10 f)
  | .shr u b a d => some (rawCompact 0x11 u.toNat b.toNat a.toNat d.toNat none)
  | .shrExt f => some (rawOf 0x11 f)
  | .sar u b a d => some (rawCompact 0x12 u.toNat b.toNat a.toNat d.toNat none)
  | .sarExt f => some (rawOf 0x12 f)
  | .rotl u b a d => some (rawCompact 0x13 u.toNat b.toNat a.toNat d.toNat none)
  | .rotlExt f => some (rawOf 0x13 f)
  | .bfx f => some (rawOf 0x14 f)
  | .bfi f => some (rawOf 0x15 f)
  | .popc u b a d => some (rawCompact 0x16 u.toNat b.toNat a.toNat d.toNat none)
  | .popcExt f => some (rawOf 0x16 f)
  | .clz u b a d => some (rawCompact 0x17 u.toNat b.toNat a.toNat d.toNat none)
  | .clzExt f => some (rawOf 0x17 f)
  | .ctz u b a d => some (rawCompact 0x18 u.toNat b.toNat a.toNat d.toNat none)
  | .ctzExt f => some (rawOf 0x18 f)
  | .brev u b a d => some (rawCompact 0x19 u.toNat b.toNat a.toNat d.toNat none)
  | .brevExt f => some (rawOf 0x19 f)
  | .icmp u b a d => some (rawCompact 0x1A u.toNat b.toNat a.toNat d.toNat none)
  | .icmpExt f => some (rawOf 0x1A f)
  | .sel f => some (rawOf 0x1B f)
  | .lea f => some (rawOf 0x1C f)
  | .mov u b a d => some (rawCompact 0x1D u.toNat b.toNat a.toNat d.toNat none)
  | .movExt f => some (rawOf 0x1D f)
  | .bysel f => some (rawOf 0x1E f)
  | .fadd u b a d => some (rawCompact 0x20 u.toNat b.toNat a.toNat d.toNat none)
  | .faddExt f => some (rawOf 0x20 f)
  | .fsub u b a d => some (rawCompact 0x21 u.toNat b.toNat a.toNat d.toNat none)
  | .fsubExt f => some (rawOf 0x21 f)
  | .fmul u b a d => some (rawCompact 0x22 u.toNat b.toNat a.toNat d.toNat none)
  | .fmulExt f => some (rawOf 0x22 f)
  | .ffma f => some (rawOf 0x23 f)
  | .fmin u b a d => some (rawCompact 0x24 u.toNat b.toNat a.toNat d.toNat none)
  | .fminExt f => some (rawOf 0x24 f)
  | .fmax u b a d => some (rawCompact 0x25 u.toNat b.toNat a.toNat d.toNat none)
  | .fmaxExt f => some (rawOf 0x25 f)
  | .fminp f => some (rawOf 0x26 f)
  | .fmaxp f => some (rawOf 0x27 f)
  | .fcmp u b a d => some (rawCompact 0x28 u.toNat b.toNat a.toNat d.toNat none)
  | .fcmpExt f => some (rawOf 0x28 f)
  | .frcp u b a d => some (rawCompact 0x29 u.toNat b.toNat a.toNat d.toNat none)
  | .frcpExt f => some (rawOf 0x29 f)
  | .frsq u b a d => some (rawCompact 0x2A u.toNat b.toNat a.toNat d.toNat none)
  | .frsqExt f => some (rawOf 0x2A f)
  | .fsqrt u b a d => some (rawCompact 0x2B u.toNat b.toNat a.toNat d.toNat none)
  | .fsqrtExt f => some (rawOf 0x2B f)
  | .fdiv f => some (rawOf 0x2C f)
  | .fexp2 u b a d => some (rawCompact 0x2D u.toNat b.toNat a.toNat d.toNat none)
  | .fexp2Ext f => some (rawOf 0x2D f)
  | .flog2 u b a d => some (rawCompact 0x2E u.toNat b.toNat a.toNat d.toNat none)
  | .flog2Ext f => some (rawOf 0x2E f)
  | .fsin f => some (rawOf 0x2F f)
  | .fcos f => some (rawOf 0x30 f)
  | .frnd f => some (rawOf 0x31 f)
  | .fclass f => some (rawOf 0x32 f)
  | .fldexp f => some (rawOf 0x33 f)
  | .ffrexp f => some (rawOf 0x34 f)
  | .padd2 f => some (rawOf 0x35 f)
  | .pmul2 f => some (rawOf 0x36 f)
  | .pfma2 f => some (rawOf 0x37 f)
  | .cvt f => some (rawOf 0x40 f)
  | .qblk f => some (rawOf 0x41 f)
  | .dqblk f => some (rawOf 0x42 f)
  | .shfl f => some (rawOf 0x43 f)
  | .matchOp f => some (rawOf 0x44 f)
  | .ballot f => some (rawOf 0x45 f)
  | .vote f => some (rawOf 0x46 f)
  | .redu f => some (rawOf 0x47 f)
  | .scan f => some (rawOf 0x48 f)
  | .nop rest => some (rawCtlCompact 0x60 rest.toNat none)
  | .nopExt f => some (rawOf 0x60 f)
  | .bra rest => some (rawCtlCompact 0x61 rest.toNat none)
  | .braExt f => some (rawOf 0x61 f)
  | .brx f => some (rawOf 0x62 f)
  | .call rest => some (rawCtlCompact 0x63 rest.toNat none)
  | .callExt f => some (rawOf 0x63 f)
  | .ret rest => some (rawCtlCompact 0x64 rest.toNat none)
  | .retExt f => some (rawOf 0x64 f)
  | .loopOp f => some (rawOf 0x65 f)
  | .lbinv f => some (rawOf 0x66 f)
  | .exitOp rest => some (rawCtlCompact 0x67 rest.toNat none)
  | .exitOpExt f => some (rawOf 0x67 f)
  | .yield rest => some (rawCtlCompact 0x68 rest.toNat none)
  | .yieldExt f => some (rawOf 0x68 f)
  | .trap f => some (rawOf 0x69 f)
  | .brk f => some (rawOf 0x6A f)
  | .waitc f => some (rawOf 0x6B f)
  | .bar f => some (rawOf 0x6C f)
  | .abinit f => some (rawOf 0x6D f)
  | .abarv f => some (rawOf 0x6E f)
  | .abwait f => some (rawOf 0x6F f)
  | .abexp f => some (rawOf 0x70 f)
  | .stgw f => some (rawOf 0x71 f)
  | .stgp f => some (rawOf 0x72 f)
  | .spawn f => some (rawOf 0x73 f)
  | .joinOp f => some (rawOf 0x74 f)
  | .ralloc f => some (rawOf 0x75 f)
  | .rfree f => some (rawOf 0x76 f)
  | .twait f => some (rawOf 0x77 f)
  | .ld u b a d => some (rawCompact 0x80 u.toNat b.toNat a.toNat d.toNat none)
  | .ldExt f => some (rawOf 0x80 f)
  | .st u b a d => some (rawCompact 0x81 u.toNat b.toNat a.toNat d.toNat none)
  | .stExt f => some (rawOf 0x81 f)
  | .ldp f => some (rawOf 0x82 f)
  | .stp f => some (rawOf 0x83 f)
  | .atom f => some (rawOf 0x84 f)
  | .atomn f => some (rawOf 0x85 f)
  | .atomw f => some (rawOf 0x86 f)
  | .atomp f => some (rawOf 0x87 f)
  | .fence f => some (rawOf 0x88 f)
  | .xfence f => some (rawOf 0x89 f)
  | .xlt f => some (rawOf 0x8A f)
  | .pref f => some (rawOf 0x8B f)
  | .cflush f => some (rawOf 0x8C f)
  | .cinv f => some (rawOf 0x8D f)
  | .hcopy f => some (rawOf 0xA0 f)
  | .hxpose f => some (rawOf 0xA1 f)
  | .hfill f => some (rawOf 0xA2 f)
  | .hrem f => some (rawOf 0xA3 f)
  | .hsig f => some (rawOf 0xA4 f)
  | .htrig f => some (rawOf 0xA5 f)
  | .gath f => some (rawOf 0xA6 f)
  | .scat f => some (rawOf 0xA7 f)
  | .mloop f => some (rawOf 0xA8 f)
  | .mzero f => some (rawOf 0xA9 f)
  | .mtrd f => some (rawOf 0xAA f)
  | .mtwr f => some (rawOf 0xAB f)
  | .mldt f => some (rawOf 0xAC f)
  | .mstt f => some (rawOf 0xAD f)
  | .rtrav f => some (rawOf 0xC0 f)
  | .texf f => some (rawOf 0xC1 f)
  | .wsend f => some (rawOf 0xC2 f)
  | .wrecv f => some (rawOf 0xC3 f)
  | .wbay f => some (rawOf 0xC4 f)
  | .coll f => some (rawOf 0xC5 f)
  | .cmpj f => some (rawOf 0xC6 f)
  | .cmpq f => some (rawOf 0xC7 f)
  | .csrr f => some (rawOf 0xE0 f)
  | .csrw f => some (rawOf 0xE1 f)
  | .eret f => some (rawOf 0xE2 f)
  | .time f => some (rawOf 0xE3 f)
  | .svc f => some (rawOf 0xE4 f)
  | .reservedMajorOpcode w => some (rawReserved w.toNat)
  | .loadDataReturn => none
  | .groupRetire => none
  | .blockPlace => none
  | .rallocGrant => none
  | .rfreeReturn => none
  | .growthDeadlockSpill => none
  | .blockSave => none
  | .blockRestore => none
  | .activeSetEntry => none
  | .yieldExpire => none
  | .twaitResume => none
  | .htrigFire => none
  | .haulOpComplete => none
  | .haulOpFault => none
  | .hremSignal => none
  | .ntOpComplete => none
  | .gathScatComplete => none
  | .mloopKstep => none
  | .mloopComplete => none
  | .tileOpComplete => none
  | .rtravComplete => none
  | .texfComplete => none
  | .homeStoreApply => none
  | .sharerUpdate => none
  | .storeComplete => none
  | .l1Fill => none
  | .ownershipRecall => none
  | .farAtomic => none
  | .directoryRebuild => none
  | .hostRead => none
  | .hostWrite => none
  | .poolBackInvalidate => none
  | .tlbInv => none
  | .tlbInvComplete => none
  | .lsBankSwitch => none
  | .lsBankGate => none
  | .lsBankSwitchDone => none
  | .lsBankWakeDone => none
  | .l2WayGate => none
  | .l2WayGateDone => none
  | .l2WayWake => none
  | .l2WayWakeDone => none
  | .hostWinbase => none
  | .hostWinsize => none
  | .drayCfg => none
  | .fabMembers => none
  | .peerUnreachable => none
  | .fabClass => none
  | .read => none
  | .readData => none
  | .write => none
  | .atomicReq => none
  | .atomicData => none
  | .acknowledgement => none
  | .rateIncrease => none
  | .signal => none
  | .wagon => none
  | .credit => none
  | .multicastWrite => none
  | .multicastCopyDrop => none
  | .branchNack => none
  | .poolLinkLost => none
  | .poolLinkDownTimeout => none
  | .poolRequestTimeout => none
  | .poolRsync => none
  | .landauJobStart => none
  | .uetMessage => none
  | .landauTimeout => none
  | .collChildArrive => none
  | .collComplete => none
  | .ptpEventMessage => none
  | .ptpSyncLoss => none
  | .ptpCfg => none
  | .queueTail => none
  | .queueCfg => none
  | .recordStart => none
  | .tokSignal => none
  | .tokenRecordFire => none
  | .graphReplayStart => none
  | .graphNodeStart => none
  | .goResize => none
  | .cancel => none
  | .evdone => none
  | .planDone => none
  | .admitEvent => none
  | .shuntMove => none
  | .rehashSweep => none
  | .rehashDone => none
  | .evacFrameCopy => none
  | .scrubDone => none
  | .partWchan => none
  | .landauPid => none
  | .mgmtRegisterWrite => none
  | .mgo => none
  | .resetEvent => none
  | .imgChunk => none
  | .imgRun => none
  | .imgFlash => none
  | .cfgWrite => none
  | .testEnter => none
  | .pwrLimit => none
  | .dumpRelease => none
  | .identity => none
  | .keySet => none
  | .keyClear => none
  | .loadPolicy => none
  | .loadContainer => none
  | .quote => none
  | .mbxUnknownCommand => none
  | .thermalTrip => none
  | .feedFault => none
  | .packageFatalError => none
  | .powerLimitControl => none
  | .svOperationComplete => none
  | .ngaubPortDown => none
  | .ngaubPortUp => none
  | .poolLinkTrained => none
  | .uetLinkError => none

end Sys2Proof.Machine
end

