-- ==== Sys2Proof/Decode.lean ====
section
/-! DEFINITION. Decoding instruction words and writing them (spec/03 R58 to R62, R67, R72). -/

namespace Sys2Proof

/-- Bits [lo + n - 1 : lo] of a word. -/
def fld (w lo n : Nat) : Nat := w / 2 ^ lo % 2 ^ n

/-- Why bytes are no instruction: fewer bytes than LEN asks for (R58). Every other word decodes; what is wrong with it is
said when it issues (R70). -/
inductive DecodeError where
  | truncated
deriving DecidableEq, Repr

/-- Bytes of an instruction by LEN (R58). -/
def lenBytes (w0 : Nat) : Nat :=
  match w0 % 4 with
  | 0 => 4
  | 3 => 20
  | _ => 12

/-- The extended form's fields (R62). -/
def extOf (w0 w1 w2 : Nat) : Ext :=
  { fn := .ofNat 4 (fld w0 10 4), dst := .ofNat 10 (fld w0 14 10), ty := .ofNat 4 (fld w0 24 4), rnd := .ofNat 3 (fld w0 28 3)
    sat := .ofNat 1 (fld w0 31 1), a := .ofNat 10 (fld w1 0 10), b := .ofNat 10 (fld w1 10 10), c := .ofNat 10 (fld w1 20 10)
    z := .ofNat 2 (fld w1 30 2), pred := .ofNat 10 (fld w2 0 10), pen := .ofNat 1 (fld w2 10 1), pneg := .ofNat 1 (fld w2 11 1)
    uni := .ofNat 1 (fld w2 12 1), ra := .ofNat 4 (fld w2 13 4), rb := .ofNat 4 (fld w2 17 4), rc := .ofNat 4 (fld w2 21 4)
    scope := .ofNat 3 (fld w2 25 3), order := .ofNat 2 (fld w2 28 2), hint := .ofNat 2 (fld w2 30 2) }

/-- The form of the words of an instruction, by LEN (R58); `w` is the whole instruction, first word lowest. -/
def formOf (w : Nat) : Form :=
  let u : BitVec 1 := .ofNat 1 (fld w 31 1)
  let b : BitVec 7 := .ofNat 7 (fld w 24 7)
  let a : BitVec 7 := .ofNat 7 (fld w 17 7)
  let d : BitVec 7 := .ofNat 7 (fld w 10 7)
  match w % 4 with
  | 0 => .cmp u b a d
  | 2 => .cmpLit u b a d (.ofNat 64 (fld w 32 64))
  | 1 => .ext (extOf (fld w 0 32) (fld w 32 32) (fld w 64 32))
  | _ => .extLit (extOf (fld w 0 32) (fld w 32 32) (fld w 64 32)) (.ofNat 64 (fld w 96 64))

/-- The compact words of the compact-eligible opcodes (R67, R68). -/
def ofCompact (op w : Nat) : Option Instr :=
  let u : BitVec 1 := .ofNat 1 (fld w 31 1)
  let b : BitVec 7 := .ofNat 7 (fld w 24 7)
  let a : BitVec 7 := .ofNat 7 (fld w 17 7)
  let d : BitVec 7 := .ofNat 7 (fld w 10 7)
  let rest : BitVec 22 := .ofNat 22 (fld w 10 22)
  match op with
  | 0x00 => some (.iadd u b a d)
  | 0x01 => some (.isub u b a d)
  | 0x02 => some (.imul u b a d)
  | 0x03 => some (.imulh u b a d)
  | 0x07 => some (.ineg u b a d)
  | 0x08 => some (.iabs u b a d)
  | 0x09 => some (.imin u b a d)
  | 0x0A => some (.imax u b a d)
  | 0x0B => some (.iand u b a d)
  | 0x0C => some (.ior u b a d)
  | 0x0D => some (.ixor u b a d)
  | 0x0E => some (.andn u b a d)
  | 0x0F => some (.inot u b a d)
  | 0x10 => some (.shl u b a d)
  | 0x11 => some (.shr u b a d)
  | 0x12 => some (.sar u b a d)
  | 0x13 => some (.rotl u b a d)
  | 0x16 => some (.popc u b a d)
  | 0x17 => some (.clz u b a d)
  | 0x18 => some (.ctz u b a d)
  | 0x19 => some (.brev u b a d)
  | 0x1A => some (.icmp u b a d)
  | 0x1D => some (.mov u b a d)
  | 0x20 => some (.fadd u b a d)
  | 0x21 => some (.fsub u b a d)
  | 0x22 => some (.fmul u b a d)
  | 0x24 => some (.fmin u b a d)
  | 0x25 => some (.fmax u b a d)
  | 0x28 => some (.fcmp u b a d)
  | 0x29 => some (.frcp u b a d)
  | 0x2A => some (.frsq u b a d)
  | 0x2B => some (.fsqrt u b a d)
  | 0x2D => some (.fexp2 u b a d)
  | 0x2E => some (.flog2 u b a d)
  | 0x60 => some (.nop rest)
  | 0x61 => some (.bra rest)
  | 0x63 => some (.call rest)
  | 0x64 => some (.ret rest)
  | 0x67 => some (.exitOp rest)
  | 0x68 => some (.yield rest)
  | 0x80 => some (.ld u b a d)
  | 0x81 => some (.st u b a d)
  | _ => none

/-- The other forms of an opcode (R67). -/
def ofForm (op : Nat) (f : Form) : Option Instr :=
  match op with
  | 0x00 => some (.iaddExt f)
  | 0x01 => some (.isubExt f)
  | 0x02 => some (.imulExt f)
  | 0x03 => some (.imulhExt f)
  | 0x04 => some (.imad f)
  | 0x05 => some (.imadw f)
  | 0x06 => some (.iaddc f)
  | 0x07 => some (.inegExt f)
  | 0x08 => some (.iabsExt f)
  | 0x09 => some (.iminExt f)
  | 0x0A => some (.imaxExt f)
  | 0x0B => some (.iandExt f)
  | 0x0C => some (.iorExt f)
  | 0x0D => some (.ixorExt f)
  | 0x0E => some (.andnExt f)
  | 0x0F => some (.inotExt f)
  | 0x10 => some (.shlExt f)
  | 0x11 => some (.shrExt f)
  | 0x12 => some (.sarExt f)
  | 0x13 => some (.rotlExt f)
  | 0x14 => some (.bfx f)
  | 0x15 => some (.bfi f)
  | 0x16 => some (.popcExt f)
  | 0x17 => some (.clzExt f)
  | 0x18 => some (.ctzExt f)
  | 0x19 => some (.brevExt f)
  | 0x1A => some (.icmpExt f)
  | 0x1B => some (.sel f)
  | 0x1C => some (.lea f)
  | 0x1D => some (.movExt f)
  | 0x1E => some (.bysel f)
  | 0x20 => some (.faddExt f)
  | 0x21 => some (.fsubExt f)
  | 0x22 => some (.fmulExt f)
  | 0x23 => some (.ffma f)
  | 0x24 => some (.fminExt f)
  | 0x25 => some (.fmaxExt f)
  | 0x26 => some (.fminp f)
  | 0x27 => some (.fmaxp f)
  | 0x28 => some (.fcmpExt f)
  | 0x29 => some (.frcpExt f)
  | 0x2A => some (.frsqExt f)
  | 0x2B => some (.fsqrtExt f)
  | 0x2C => some (.fdiv f)
  | 0x2D => some (.fexp2Ext f)
  | 0x2E => some (.flog2Ext f)
  | 0x2F => some (.fsin f)
  | 0x30 => some (.fcos f)
  | 0x31 => some (.frnd f)
  | 0x32 => some (.fclass f)
  | 0x33 => some (.fldexp f)
  | 0x34 => some (.ffrexp f)
  | 0x35 => some (.padd2 f)
  | 0x36 => some (.pmul2 f)
  | 0x37 => some (.pfma2 f)
  | 0x40 => some (.cvt f)
  | 0x41 => some (.qblk f)
  | 0x42 => some (.dqblk f)
  | 0x43 => some (.shfl f)
  | 0x44 => some (.matchOp f)
  | 0x45 => some (.ballot f)
  | 0x46 => some (.vote f)
  | 0x47 => some (.redu f)
  | 0x48 => some (.scan f)
  | 0x60 => some (.nopExt f)
  | 0x61 => some (.braExt f)
  | 0x62 => some (.brx f)
  | 0x63 => some (.callExt f)
  | 0x64 => some (.retExt f)
  | 0x65 => some (.loopOp f)
  | 0x66 => some (.lbinv f)
  | 0x67 => some (.exitOpExt f)
  | 0x68 => some (.yieldExt f)
  | 0x69 => some (.trap f)
  | 0x6A => some (.brk f)
  | 0x6B => some (.waitc f)
  | 0x6C => some (.bar f)
  | 0x6D => some (.abinit f)
  | 0x6E => some (.abarv f)
  | 0x6F => some (.abwait f)
  | 0x70 => some (.abexp f)
  | 0x71 => some (.stgw f)
  | 0x72 => some (.stgp f)
  | 0x73 => some (.spawn f)
  | 0x74 => some (.joinOp f)
  | 0x75 => some (.ralloc f)
  | 0x76 => some (.rfree f)
  | 0x77 => some (.twait f)
  | 0x80 => some (.ldExt f)
  | 0x81 => some (.stExt f)
  | 0x82 => some (.ldp f)
  | 0x83 => some (.stp f)
  | 0x84 => some (.atom f)
  | 0x85 => some (.atomn f)
  | 0x86 => some (.atomw f)
  | 0x87 => some (.atomp f)
  | 0x88 => some (.fence f)
  | 0x89 => some (.xfence f)
  | 0x8A => some (.xlt f)
  | 0x8B => some (.pref f)
  | 0x8C => some (.cflush f)
  | 0x8D => some (.cinv f)
  | 0xA0 => some (.hcopy f)
  | 0xA1 => some (.hxpose f)
  | 0xA2 => some (.hfill f)
  | 0xA3 => some (.hrem f)
  | 0xA4 => some (.hsig f)
  | 0xA5 => some (.htrig f)
  | 0xA6 => some (.gath f)
  | 0xA7 => some (.scat f)
  | 0xA8 => some (.mloop f)
  | 0xA9 => some (.mzero f)
  | 0xAA => some (.mtrd f)
  | 0xAB => some (.mtwr f)
  | 0xAC => some (.mldt f)
  | 0xAD => some (.mstt f)
  | 0xC0 => some (.rtrav f)
  | 0xC1 => some (.texf f)
  | 0xC2 => some (.wsend f)
  | 0xC3 => some (.wrecv f)
  | 0xC4 => some (.wbay f)
  | 0xC5 => some (.coll f)
  | 0xC6 => some (.cmpj f)
  | 0xC7 => some (.cmpq f)
  | 0xE0 => some (.csrr f)
  | 0xE1 => some (.csrw f)
  | 0xE2 => some (.eret f)
  | 0xE3 => some (.time f)
  | 0xE4 => some (.svc f)
  | _ => none

/-- The instruction whose words are `w`, a number of `lenBytes w` bytes. -/
def decodeNum (w : Nat) : Instr :=
  let op := fld w 2 8
  let c := if w % 4 = 0 then ofCompact op w else none
  match c with
  | some i => i
  | none =>
    match ofForm op (formOf w) with
    | some i => i
    | none => .reservedMajorOpcode (.ofNat 160 w)

/-- The number whose bytes, lowest first, are the first `n` of the list; none when the list is shorter. -/
def takeBytes : Nat → List Byte → Option Nat
  | 0, _ => some 0
  | _ + 1, [] => none
  | n + 1, b :: bs =>
    match takeBytes n bs with
    | some r => some (b.toNat + 256 * r)
    | none => none

/-- Reads one instruction and its length in bytes from memory order bytes (R58). -/
def decode (bs : List Byte) : Except DecodeError (Instr × Nat) :=
  match takeBytes 4 bs with
  | none => .error .truncated
  | some w0 =>
    match takeBytes (lenBytes w0) bs with
    | none => .error .truncated
    | some w => .ok (decodeNum w, lenBytes w0)

/-- The instruction of a table word: its bits number the words from the first, least significant first (R58: words are
little-endian), and every bit above `nbits` is zero. -/
def decodeTableWord (_nbits w : Nat) : Option Instr := some (decodeNum (w % 2 ^ (8 * lenBytes w)))

/-- The first word of a compact form (R59). -/
def compactWord (op len u b a d : Nat) : Nat := len + 4 * op + 2 ^ 10 * d + 2 ^ 17 * a + 2 ^ 24 * b + 2 ^ 31 * u

/-- The three words of an extended form (R62). -/
def extWords (op len : Nat) (e : Ext) : Nat :=
  (len + 4 * op + 2 ^ 10 * e.fn.toNat + 2 ^ 14 * e.dst.toNat + 2 ^ 24 * e.ty.toNat + 2 ^ 28 * e.rnd.toNat + 2 ^ 31 * e.sat.toNat) +
  2 ^ 32 * (e.a.toNat + 2 ^ 10 * e.b.toNat + 2 ^ 20 * e.c.toNat + 2 ^ 30 * e.z.toNat) +
  2 ^ 64 * (e.pred.toNat + 2 ^ 10 * e.pen.toNat + 2 ^ 11 * e.pneg.toNat + 2 ^ 12 * e.uni.toNat + 2 ^ 13 * e.ra.toNat +
    2 ^ 17 * e.rb.toNat + 2 ^ 21 * e.rc.toNat + 2 ^ 25 * e.scope.toNat + 2 ^ 28 * e.order.toNat + 2 ^ 30 * e.hint.toNat)

/-- The words of a form as one number, first word lowest. -/
def formNum (op : Nat) (f : Form) : Nat :=
  match f with
  | .cmp u b a d => compactWord op 0 u.toNat b.toNat a.toNat d.toNat
  | .cmpLit u b a d l => compactWord op 2 u.toNat b.toNat a.toNat d.toNat + 2 ^ 32 * l.toNat
  | .ext e => extWords op 1 e
  | .extLit e l => extWords op 3 e + 2 ^ 96 * l.toNat

/-- The words of an instruction as one number, first word lowest; 0 for an event, which has no words. -/
def encodeNum (i : Instr) : Nat :=
  match i with
  | .iadd u b a d => compactWord 0x00 0 u.toNat b.toNat a.toNat d.toNat
  | .iaddExt f => formNum 0x00 f
  | .isub u b a d => compactWord 0x01 0 u.toNat b.toNat a.toNat d.toNat
  | .isubExt f => formNum 0x01 f
  | .imul u b a d => compactWord 0x02 0 u.toNat b.toNat a.toNat d.toNat
  | .imulExt f => formNum 0x02 f
  | .imulh u b a d => compactWord 0x03 0 u.toNat b.toNat a.toNat d.toNat
  | .imulhExt f => formNum 0x03 f
  | .imad f => formNum 0x04 f
  | .imadw f => formNum 0x05 f
  | .iaddc f => formNum 0x06 f
  | .ineg u b a d => compactWord 0x07 0 u.toNat b.toNat a.toNat d.toNat
  | .inegExt f => formNum 0x07 f
  | .iabs u b a d => compactWord 0x08 0 u.toNat b.toNat a.toNat d.toNat
  | .iabsExt f => formNum 0x08 f
  | .imin u b a d => compactWord 0x09 0 u.toNat b.toNat a.toNat d.toNat
  | .iminExt f => formNum 0x09 f
  | .imax u b a d => compactWord 0x0A 0 u.toNat b.toNat a.toNat d.toNat
  | .imaxExt f => formNum 0x0A f
  | .iand u b a d => compactWord 0x0B 0 u.toNat b.toNat a.toNat d.toNat
  | .iandExt f => formNum 0x0B f
  | .ior u b a d => compactWord 0x0C 0 u.toNat b.toNat a.toNat d.toNat
  | .iorExt f => formNum 0x0C f
  | .ixor u b a d => compactWord 0x0D 0 u.toNat b.toNat a.toNat d.toNat
  | .ixorExt f => formNum 0x0D f
  | .andn u b a d => compactWord 0x0E 0 u.toNat b.toNat a.toNat d.toNat
  | .andnExt f => formNum 0x0E f
  | .inot u b a d => compactWord 0x0F 0 u.toNat b.toNat a.toNat d.toNat
  | .inotExt f => formNum 0x0F f
  | .shl u b a d => compactWord 0x10 0 u.toNat b.toNat a.toNat d.toNat
  | .shlExt f => formNum 0x10 f
  | .shr u b a d => compactWord 0x11 0 u.toNat b.toNat a.toNat d.toNat
  | .shrExt f => formNum 0x11 f
  | .sar u b a d => compactWord 0x12 0 u.toNat b.toNat a.toNat d.toNat
  | .sarExt f => formNum 0x12 f
  | .rotl u b a d => compactWord 0x13 0 u.toNat b.toNat a.toNat d.toNat
  | .rotlExt f => formNum 0x13 f
  | .bfx f => formNum 0x14 f
  | .bfi f => formNum 0x15 f
  | .popc u b a d => compactWord 0x16 0 u.toNat b.toNat a.toNat d.toNat
  | .popcExt f => formNum 0x16 f
  | .clz u b a d => compactWord 0x17 0 u.toNat b.toNat a.toNat d.toNat
  | .clzExt f => formNum 0x17 f
  | .ctz u b a d => compactWord 0x18 0 u.toNat b.toNat a.toNat d.toNat
  | .ctzExt f => formNum 0x18 f
  | .brev u b a d => compactWord 0x19 0 u.toNat b.toNat a.toNat d.toNat
  | .brevExt f => formNum 0x19 f
  | .icmp u b a d => compactWord 0x1A 0 u.toNat b.toNat a.toNat d.toNat
  | .icmpExt f => formNum 0x1A f
  | .sel f => formNum 0x1B f
  | .lea f => formNum 0x1C f
  | .mov u b a d => compactWord 0x1D 0 u.toNat b.toNat a.toNat d.toNat
  | .movExt f => formNum 0x1D f
  | .bysel f => formNum 0x1E f
  | .fadd u b a d => compactWord 0x20 0 u.toNat b.toNat a.toNat d.toNat
  | .faddExt f => formNum 0x20 f
  | .fsub u b a d => compactWord 0x21 0 u.toNat b.toNat a.toNat d.toNat
  | .fsubExt f => formNum 0x21 f
  | .fmul u b a d => compactWord 0x22 0 u.toNat b.toNat a.toNat d.toNat
  | .fmulExt f => formNum 0x22 f
  | .ffma f => formNum 0x23 f
  | .fmin u b a d => compactWord 0x24 0 u.toNat b.toNat a.toNat d.toNat
  | .fminExt f => formNum 0x24 f
  | .fmax u b a d => compactWord 0x25 0 u.toNat b.toNat a.toNat d.toNat
  | .fmaxExt f => formNum 0x25 f
  | .fminp f => formNum 0x26 f
  | .fmaxp f => formNum 0x27 f
  | .fcmp u b a d => compactWord 0x28 0 u.toNat b.toNat a.toNat d.toNat
  | .fcmpExt f => formNum 0x28 f
  | .frcp u b a d => compactWord 0x29 0 u.toNat b.toNat a.toNat d.toNat
  | .frcpExt f => formNum 0x29 f
  | .frsq u b a d => compactWord 0x2A 0 u.toNat b.toNat a.toNat d.toNat
  | .frsqExt f => formNum 0x2A f
  | .fsqrt u b a d => compactWord 0x2B 0 u.toNat b.toNat a.toNat d.toNat
  | .fsqrtExt f => formNum 0x2B f
  | .fdiv f => formNum 0x2C f
  | .fexp2 u b a d => compactWord 0x2D 0 u.toNat b.toNat a.toNat d.toNat
  | .fexp2Ext f => formNum 0x2D f
  | .flog2 u b a d => compactWord 0x2E 0 u.toNat b.toNat a.toNat d.toNat
  | .flog2Ext f => formNum 0x2E f
  | .fsin f => formNum 0x2F f
  | .fcos f => formNum 0x30 f
  | .frnd f => formNum 0x31 f
  | .fclass f => formNum 0x32 f
  | .fldexp f => formNum 0x33 f
  | .ffrexp f => formNum 0x34 f
  | .padd2 f => formNum 0x35 f
  | .pmul2 f => formNum 0x36 f
  | .pfma2 f => formNum 0x37 f
  | .cvt f => formNum 0x40 f
  | .qblk f => formNum 0x41 f
  | .dqblk f => formNum 0x42 f
  | .shfl f => formNum 0x43 f
  | .matchOp f => formNum 0x44 f
  | .ballot f => formNum 0x45 f
  | .vote f => formNum 0x46 f
  | .redu f => formNum 0x47 f
  | .scan f => formNum 0x48 f
  | .nop rest => 4 * 0x60 + 2 ^ 10 * rest.toNat
  | .nopExt f => formNum 0x60 f
  | .bra rest => 4 * 0x61 + 2 ^ 10 * rest.toNat
  | .braExt f => formNum 0x61 f
  | .brx f => formNum 0x62 f
  | .call rest => 4 * 0x63 + 2 ^ 10 * rest.toNat
  | .callExt f => formNum 0x63 f
  | .ret rest => 4 * 0x64 + 2 ^ 10 * rest.toNat
  | .retExt f => formNum 0x64 f
  | .loopOp f => formNum 0x65 f
  | .lbinv f => formNum 0x66 f
  | .exitOp rest => 4 * 0x67 + 2 ^ 10 * rest.toNat
  | .exitOpExt f => formNum 0x67 f
  | .yield rest => 4 * 0x68 + 2 ^ 10 * rest.toNat
  | .yieldExt f => formNum 0x68 f
  | .trap f => formNum 0x69 f
  | .brk f => formNum 0x6A f
  | .waitc f => formNum 0x6B f
  | .bar f => formNum 0x6C f
  | .abinit f => formNum 0x6D f
  | .abarv f => formNum 0x6E f
  | .abwait f => formNum 0x6F f
  | .abexp f => formNum 0x70 f
  | .stgw f => formNum 0x71 f
  | .stgp f => formNum 0x72 f
  | .spawn f => formNum 0x73 f
  | .joinOp f => formNum 0x74 f
  | .ralloc f => formNum 0x75 f
  | .rfree f => formNum 0x76 f
  | .twait f => formNum 0x77 f
  | .ld u b a d => compactWord 0x80 0 u.toNat b.toNat a.toNat d.toNat
  | .ldExt f => formNum 0x80 f
  | .st u b a d => compactWord 0x81 0 u.toNat b.toNat a.toNat d.toNat
  | .stExt f => formNum 0x81 f
  | .ldp f => formNum 0x82 f
  | .stp f => formNum 0x83 f
  | .atom f => formNum 0x84 f
  | .atomn f => formNum 0x85 f
  | .atomw f => formNum 0x86 f
  | .atomp f => formNum 0x87 f
  | .fence f => formNum 0x88 f
  | .xfence f => formNum 0x89 f
  | .xlt f => formNum 0x8A f
  | .pref f => formNum 0x8B f
  | .cflush f => formNum 0x8C f
  | .cinv f => formNum 0x8D f
  | .hcopy f => formNum 0xA0 f
  | .hxpose f => formNum 0xA1 f
  | .hfill f => formNum 0xA2 f
  | .hrem f => formNum 0xA3 f
  | .hsig f => formNum 0xA4 f
  | .htrig f => formNum 0xA5 f
  | .gath f => formNum 0xA6 f
  | .scat f => formNum 0xA7 f
  | .mloop f => formNum 0xA8 f
  | .mzero f => formNum 0xA9 f
  | .mtrd f => formNum 0xAA f
  | .mtwr f => formNum 0xAB f
  | .mldt f => formNum 0xAC f
  | .mstt f => formNum 0xAD f
  | .rtrav f => formNum 0xC0 f
  | .texf f => formNum 0xC1 f
  | .wsend f => formNum 0xC2 f
  | .wrecv f => formNum 0xC3 f
  | .wbay f => formNum 0xC4 f
  | .coll f => formNum 0xC5 f
  | .cmpj f => formNum 0xC6 f
  | .cmpq f => formNum 0xC7 f
  | .csrr f => formNum 0xE0 f
  | .csrw f => formNum 0xE1 f
  | .eret f => formNum 0xE2 f
  | .time f => formNum 0xE3 f
  | .svc f => formNum 0xE4 f
  | .reservedMajorOpcode w => w.toNat
  | .loadDataReturn => 0
  | .groupRetire => 0
  | .blockPlace => 0
  | .rallocGrant => 0
  | .rfreeReturn => 0
  | .growthDeadlockSpill => 0
  | .blockSave => 0
  | .blockRestore => 0
  | .activeSetEntry => 0
  | .yieldExpire => 0
  | .twaitResume => 0
  | .htrigFire => 0
  | .haulOpComplete => 0
  | .haulOpFault => 0
  | .hremSignal => 0
  | .ntOpComplete => 0
  | .gathScatComplete => 0
  | .mloopKstep => 0
  | .mloopComplete => 0
  | .tileOpComplete => 0
  | .rtravComplete => 0
  | .texfComplete => 0
  | .homeStoreApply => 0
  | .sharerUpdate => 0
  | .storeComplete => 0
  | .l1Fill => 0
  | .ownershipRecall => 0
  | .farAtomic => 0
  | .directoryRebuild => 0
  | .hostRead => 0
  | .hostWrite => 0
  | .poolBackInvalidate => 0
  | .tlbInv => 0
  | .tlbInvComplete => 0
  | .lsBankSwitch => 0
  | .lsBankGate => 0
  | .lsBankSwitchDone => 0
  | .lsBankWakeDone => 0
  | .l2WayGate => 0
  | .l2WayGateDone => 0
  | .l2WayWake => 0
  | .l2WayWakeDone => 0
  | .hostWinbase => 0
  | .hostWinsize => 0
  | .drayCfg => 0
  | .fabMembers => 0
  | .peerUnreachable => 0
  | .fabClass => 0
  | .read => 0
  | .readData => 0
  | .write => 0
  | .atomicReq => 0
  | .atomicData => 0
  | .acknowledgement => 0
  | .rateIncrease => 0
  | .signal => 0
  | .wagon => 0
  | .credit => 0
  | .multicastWrite => 0
  | .multicastCopyDrop => 0
  | .branchNack => 0
  | .poolLinkLost => 0
  | .poolLinkDownTimeout => 0
  | .poolRequestTimeout => 0
  | .poolRsync => 0
  | .landauJobStart => 0
  | .uetMessage => 0
  | .landauTimeout => 0
  | .collChildArrive => 0
  | .collComplete => 0
  | .ptpEventMessage => 0
  | .ptpSyncLoss => 0
  | .ptpCfg => 0
  | .queueTail => 0
  | .queueCfg => 0
  | .recordStart => 0
  | .tokSignal => 0
  | .tokenRecordFire => 0
  | .graphReplayStart => 0
  | .graphNodeStart => 0
  | .goResize => 0
  | .cancel => 0
  | .evdone => 0
  | .planDone => 0
  | .admitEvent => 0
  | .shuntMove => 0
  | .rehashSweep => 0
  | .rehashDone => 0
  | .evacFrameCopy => 0
  | .scrubDone => 0
  | .partWchan => 0
  | .landauPid => 0
  | .mgmtRegisterWrite => 0
  | .mgo => 0
  | .resetEvent => 0
  | .imgChunk => 0
  | .imgRun => 0
  | .imgFlash => 0
  | .cfgWrite => 0
  | .testEnter => 0
  | .pwrLimit => 0
  | .dumpRelease => 0
  | .identity => 0
  | .keySet => 0
  | .keyClear => 0
  | .loadPolicy => 0
  | .loadContainer => 0
  | .quote => 0
  | .mbxUnknownCommand => 0
  | .thermalTrip => 0
  | .feedFault => 0
  | .packageFatalError => 0
  | .powerLimitControl => 0
  | .svOperationComplete => 0
  | .ngaubPortDown => 0
  | .ngaubPortUp => 0
  | .poolLinkTrained => 0
  | .uetLinkError => 0

/-- The words of an instruction in memory order. -/
def encode (i : Instr) : List Word :=
  let n := encodeNum i
  (List.range (lenBytes n / 4)).map (fun k => BitVec.ofNat 32 (fld n (32 * k) 32))

/-- The bytes of words in memory order: words are little-endian (R58). -/
def wordsBytes (ws : List Word) : List Byte :=
  ws.flatMap (fun w => (List.range 4).map (fun k => BitVec.ofNat 8 (fld w.toNat (8 * k) 8)))

end Sys2Proof
end

