-- ==== Sys2Proof/Config.lean ====
section
/-! DEFINITION. What the spec leaves to the implementation or leaves open: free values, constants without a body, so that
no proof can see what they are. Draw number n is `State.fresh` (log 10). -/

namespace Sys2Proof.Config

/-- A free choice among finitely many: the one of two lanes whose store a byte keeps (spec/13 R222), the hit an ANY ray
reports (spec/19 R319). -/
opaque freeChoice : Nat → Nat

/-- The rate of adjustment, in parts per million, that the PTP servo chooses (spec/21 R376), by `Servo.draws`. -/
opaque freeSlew : Nat → Nat

/-- A free byte of memory: what a failed or overlapping engine operation leaves (spec/17 R285, R287), the in-flight writes of
a lost region (spec/21 R346, R364). -/
opaque freeByte : Nat → Byte

/-- A free 32-bit word. -/
opaque freeWord : Nat → Word

/-- How a read that the package itself makes of a peer's memory ends (spec/21 R346, R347), by draw and address: 0 with the bytes that the
other one gives, 1 refused, 2 a data error, 3 fenced (log 29). -/
opaque peerEnd : Nat → Nat → Nat
opaque peerBytes : Nat → Nat → Nat

/-- The host link that serves a host address (spec/21 R367), where only one of the two runs CXL. -/
opaque hostLink : Nat → Nat

/-- The package's serial number (spec/25 R429 IDENTITY): each package has its own. -/
opaque serial : BitVec 128

/-- The 32-byte seed of the package's identity key (spec/25 R429). -/
opaque identitySeed : BitVec 256

/-- Does a firmware image of these bytes pass the check of boot step 1 (spec/25 R427)? The image's form is not given. -/
opaque imageOk : List Nat → Bool

/-- The version of the firmware in an image (spec/25 R427 FWVER). -/
opaque imageVersion : List Nat → BitVec 32

/-- Does a configuration record of these bytes pass the check of boot step 2 (spec/25 R427)? Its form is not given. -/
opaque recordOk : List Nat → Bool

/-- Does a configuration record name the part's own serial (spec/25 R427)? -/
opaque recordOwn : List Nat → Bool

end Sys2Proof.Config
end

