-- ==== Sys2Proof/Machine/Blocks.lean ====
section
/-! DEFINITION. Block formats, containers and plane words (spec/05 R99 to R112). -/

namespace Sys2Proof.Machine

/-- The element width n of a block format code (R99, R103). -/
def fmtBits (code : Nat) : Nat := if code < 8 then code + 1 else code - 7

/-- Is the block format signed (BIn)? -/
def fmtSigned (code : Nat) : Bool := decide (8 ≤ code)

/-- The slot width of a block format (R103). -/
def slotBits (code : Nat) : Nat := if fmtBits code = 7 then 8 else fmtBits code

/-- Elements per container. -/
def perContainer (code : Nat) : Nat := 120 / slotBits code

/-- The block length of a BLK field (R106, R166). -/
def blkLen (blk : Nat) : Nat := 15 * 2 ^ blk

/-- The scale a byte holds (R100). -/
def scaleOf (b : Nat) : Int := toSigned 8 b

/-- The largest ⌊log2 |x|⌋ of the values that are not zero. -/
def emaxOf (xs : List Val) : Option Int :=
  xs.foldl (fun m x => match x with
    | .fin _ n d => if n = 0 then m else
        let e := log2Ratio n d
        (match m with | some k => some (max k e) | none => some e)
    | _ => m) none

/-- `quantBlock` (R101): the integers and the scale byte. -/
def quantBlock (xs : List Val) (code : Nat) (rnd : Rnd) (bk : List Nat) : List Int × Nat :=
  if xs.any Val.notFinite then (xs.map (fun _ => 0), 0x80)
  else match emaxOf xs with
    | none => (xs.map (fun _ => 0), 0)
    | some emax =>
      let n := fmtBits code
      let s := max (emax - n + (if fmtSigned code then 2 else 1)) (-127)
      let t : IType := ⟨n, fmtSigned code⟩
      ((xs.zip bk).map (fun e => clampTo t (roundInt (vscale e.1 (-s)) rnd e.2)), wrap 8 s)

/-- `alignBlock` (R109). -/
def alignBlock (xs : List Val) (p : Nat) : List Int × Nat :=
  if xs.any Val.notFinite then (xs.map (fun _ => 0), 0x80)
  else match emaxOf xs with
    | none => (xs.map (fun _ => 0), 0)
    | some emax =>
      let s := max (emax - p + 2) (-127)
      (xs.map (fun x =>
        let q := roundInt (vscale x (-s)) .rne 0
        if q = ((2 ^ (p - 1) : Nat) : Int) then q - 1 else q), wrap 8 s)

/-- `dqVal` (R100). -/
def dqVal (q : Int) (s : Int) : Val := vscale (.ofInt q) s

/-- The XOR of the bits of `w` below `n` whose index is j modulo m. -/
def parityOf (n m j w : Nat) : Bool := (List.range n).foldl (fun a i => if i % m == j then a != bit w i else a) false

/-- The container of the elements of one format (R102, R103). -/
def packContainer (code : Nat) (qs : List Nat) : Nat :=
  let w := slotBits code
  let pay := ((List.range (perContainer code)).zip qs).foldl (fun a e => a + (e.2 % 2 ^ w) <<< (e.1 * w)) 0
  let par := (List.range 4).foldl (fun a j => if parityOf 120 4 j pay then a + 2 ^ j else a) 0
  pay + par * 2 ^ 120 + code * 2 ^ 124

/-- An element's slot: BI7 repeats bit 6 in bit 7 (R103). -/
def slotOf (code : Nat) (q : Int) : Nat := wrap (if fmtSigned code then slotBits code else fmtBits code) q

/-- Is a container read under a format a data error (R105)? -/
def containerBad (code v : Nat) : Bool :=
  code == 8 || bits v 124 4 != code ||
  (List.range 4).any (fun j => parityOf 120 4 j v != bit v (120 + j)) ||
  (fmtBits code == 7 && (List.range 15).any (fun e => bit v (8 * e + 7) != (fmtSigned code && bit v (8 * e + 6))))

/-- The integer of a container's slot. -/
def containerElem (code v e : Nat) : Int :=
  let q := bits v (e * slotBits code) (fmtBits code)
  if fmtSigned code then toSigned (fmtBits code) q else (q : Int)

/-- A plane word's parity (R110). -/
def planeWord (bits120 : Nat) : Nat :=
  bits120 + ((List.range 8).foldl (fun a j => if parityOf 120 8 j bits120 then a + 2 ^ j else a) 0) * 2 ^ 120

/-- Does a plane word's parity fail (R110)? -/
def planeBad (v : Nat) : Bool := (List.range 8).any (fun j => parityOf 120 8 j v != bit v (120 + j))

/-- The weight of plane u (R111). -/
def planeWt (u p : Nat) (signed : Bool) : Int := if signed && u + 1 == p then -((2 ^ (p - 1) : Nat) : Int) else ((2 ^ u : Nat) : Int)

/-- `blockDot` (R111) of block j, of length L, from the plane words of the two rows. -/
def blockDot (as bs : List Nat) (sa sb : Bool) (L j : Nat) : Int :=
  ((List.range as.length).zip as).foldl (fun d ua =>
    ((List.range bs.length).zip bs).foldl (fun d vb =>
      d + planeWt ua.1 as.length sa * planeWt vb.1 bs.length sb * (popCount L (bits (ua.2 &&& vb.2) (j * L) L) : Int)) d) 0

/-- The new accumulator of R112 from a block's dot product and the two scale bytes. -/
def accumulate (acc : Nat) (d : Int) (sa sb : Nat) : Nat :=
  let v := if sa = 0x80 ∨ sb = 0x80 then FFmt.f32.defNaN
           else roundTo (vscale (.ofInt d) (scaleOf sa + scaleOf sb)) .f32 .rne false 0
  roundTo (vadd .rne (fval .f32 acc) (fval .f32 v)) .f32 .rne false 0

/-- The planes of a list of integers: plane u's bits, element k in bit k (R110). -/
def planesOf (p : Nat) (qs : List Int) : List Nat :=
  (List.range p).map (fun u => ((List.range qs.length).zip qs).foldl (fun a e => if bit (wrap p e.2) u then a + 2 ^ e.1 else a) 0)

end Sys2Proof.Machine
end

