-- ==== Sys2Proof/Machine/Objects.lean ====
section
/-! DEFINITION. Asynchronous barrier objects and stage rings as words in pad (spec/07 R142 to R147). -/

namespace Sys2Proof.Machine

/-- An asynchronous barrier object (R142). -/
structure AbObj where
  quota : Nat
  arrived : Nat
  gen : Nat
  owed : Int
  mbz : Nat
deriving DecidableEq, Repr

def abOf (w : Nat) : AbObj :=
  { quota := bits w 0 16, arrived := bits w 16 16, gen := bits w 32 32, owed := toSigned 32 (bits w 64 32), mbz := bits w 96 32 }

def abWord (o : AbObj) : Nat :=
  o.quota % 2 ^ 16 + 2 ^ 16 * (o.arrived % 2 ^ 16) + 2 ^ 32 * (o.gen % 2 ^ 32) + 2 ^ 64 * wrap 32 o.owed + 2 ^ 96 * o.mbz

/-- Is the object one that raises the sync trap (R142)? -/
def abBad (o : AbObj) : Bool := o.quota == 0 || decide (o.quota < o.arrived) || o.mbz != 0

/-- `settle` (R143). -/
def settle (o : AbObj) : AbObj :=
  if o.arrived = o.quota ∧ o.owed = 0 then { o with gen := (o.gen + 1) % 2 ^ 32, arrived := 0 } else o

/-- ABINIT; none is the sync trap. -/
def abInit (n : Nat) : Option AbObj := if n = 0 ∨ 65535 < n then none else some { quota := n, arrived := 0, gen := 0, owed := 0, mbz := 0 }

/-- ABARV (FN 0 arrives, 1 leaves); none is the sync trap. -/
def abArrive (fn : Nat) (o : AbObj) : Option AbObj :=
  if fn = 0 then (if o.arrived = o.quota then none else some (settle { o with arrived := o.arrived + 1 }))
  else if o.quota = 1 ∨ o.arrived = o.quota then none
  else some (settle { o with quota := o.quota - 1 })

/-- ABEXP; none is the sync trap. -/
def abExpect (n : Nat) (o : AbObj) : Option AbObj :=
  if n = 0 ∨ o.owed + n > 2147483647 then none else some (settle { o with owed := o.owed + n })

/-- An engine delivers bytes: OWED falls modulo 2^32, read as S32 (R143). -/
def abDeliver (n : Nat) (o : AbObj) : AbObj := settle { o with owed := toSigned 32 (wrap 32 (o.owed - n)) }

/-- Has generation `t` completed (R144)? -/
def abPassed (t : Nat) (o : AbObj) : Bool := decide (0 < toSigned 32 (wrap 32 ((o.gen : Int) - t)))

/-- Is a stage ring's word one that raises the sync trap (R146)? -/
def stgBad (w : Nat) : Bool := decide (4 < bits w 32 3) || bits w 35 29 != 0

/-- The slot and lap parity of a stage index (R146). -/
def stgSlot (w n : Nat) : Nat := n % 2 ^ bits w 32 3
def stgLap (w n : Nat) : Nat := n / 2 ^ bits w 32 3 % 2

/-- Does STGW pass (R147)? -/
def stgPasses (full : Bool) (w n : Nat) : Bool :=
  let s := stgSlot w n
  let h := stgLap w n
  if full then (bits w s 1 == 1 - h) else (bits w (16 + s) 1 == h)

/-- STGP.FULL and STGP.EMPTY (R147); none is the sync trap. -/
def stgPost (full : Bool) (w n : Nat) : Option Nat :=
  let i := if full then stgSlot w n else 16 + stgSlot w n
  let h := stgLap w n
  if bits w i 1 ≠ h then none else some (if h = 0 then w + 2 ^ i else w - 2 ^ i)

/-- STGP.INIT (R147). -/
def stgInit (n : Nat) : Option Nat :=
  if n = 1 ∨ n = 2 ∨ n = 4 ∨ n = 8 ∨ n = 16 then some (2 ^ 32 * n.log2) else none

end Sys2Proof.Machine
end

