-- ==== Sys2Proof/Machine/Flags.lean ====
section
/-! DEFINITION. Conditions and carries. The machine has no flag register: a carry, a borrow or a condition is a value in a
general register (spec/07 R119, R124; spec/09 R162, R163), and a predicate is bit 0 of one (spec/03 R57). -/

namespace Sys2Proof.Machine

/-- The condition of an integer compare (R124): EQ, NE, LT, LE, GT, GE. -/
def intCond (fn : Nat) (a b : Int) : Bool :=
  match fn with
  | 0 => decide (a = b)
  | 1 => decide (a ≠ b)
  | 2 => decide (a < b)
  | 3 => decide (a ≤ b)
  | 4 => decide (b < a)
  | _ => decide (b ≤ a)

/-- Word and carry of an addition with carry, or word and borrow of a subtraction (R119), the carry in the upper half. -/
def carryPair (fn a b c : Nat) : Nat :=
  let y : Int := if fn = 0 then (a : Int) + b + (c % 2 : Nat) else (a : Int) - b - (c % 2 : Nat)
  let hi : Nat := if fn = 0 then y.toNat / 2 ^ 32 else if y < 0 then 1 else 0
  wrap 32 y + 2 ^ 32 * hi

/-- The condition of a floating compare (R162). -/
def fltCond (fn : Nat) (a b : Val) : Bool :=
  let un := a == .nan || b == .nan
  match fn with
  | 0 => !un && veq a b
  | 1 => un || !(veq a b)
  | 2 => !un && vlt a b
  | 3 => !un && (vlt a b || veq a b)
  | 4 => !un && vlt b a
  | 5 => !un && (vlt b a || veq a b)
  | 6 => un
  | _ => !un

/-- The class bit of an encoding (R163). -/
def classBit (f : FFmt) (w : Nat) : Nat :=
  let neg := fsign f w
  if fIsNaN f w then 8
  else if fIsInf f w then (if neg then 0 else 7)
  else if fmag f w = 0 then (if neg then 3 else 4)
  else if fmag f w < 2 ^ f.m then (if neg then 2 else 5)
  else if neg then 1 else 6

/-- A condition as a register holds it. -/
def condWord (b : Bool) : Nat := if b then 1 else 0

end Sys2Proof.Machine
end

