-- ==== Sys2Proof/Machine/State.lean ====
section
/-! DEFINITION. The state of the Vetrum V9 package: everything spec/ gives the machine, as plain data, and the machine
right after reset. INVENTORY.md lists every piece with its rule. -/

namespace Sys2Proof.Machine

/-- The machine stops. Safe: no path of step raises it. -/
inductive Fault where
  /-- Raised by exec of an instruction word when no group is issuing it (State.isu names no group that exists); an
  instruction of this hardware is always a group's. Safe: step sets State.isu before it calls exec. -/
  | noIssuer
deriving DecidableEq, Repr

/-- No meaning. -/
inductive Refusal where
  /-- Raised by Dispatch for an instruction the model does not give a meaning yet. Safe. -/
  | notModelled (mnemonic : String)
deriving DecidableEq, Repr

/-- Page kinds (spec/13 R219). -/
inductive PageKind where
  | rc | so | un
deriving DecidableEq, Repr

/-- Access paths (spec/13 R238), in the order of their codes (spec/07 R138). -/
inductive Path where
  | ld | st | hl | ga | mx | ry | nt | sv
deriving DecidableEq, Repr

/-- A hardware loop entry (spec/07 R130). -/
structure LoopEntry where
  start : Nat
  stop : Nat
  ctr : Nat
  members : LaneMask
deriving DecidableEq, Repr

/-- The loop buffer's capture (R133): the body's first address and its bytes; `stale` when LBINV or a restore asks for a
new capture at the start of the next iteration (R134). -/
structure LoopBuf where
  base : Nat
  bytes : List Nat
  stale : Bool
deriving DecidableEq, Repr

/-- A translation register (spec/03 R50). -/
structure XReg where
  vbase : Nat := 0
  vhi : Nat := 0
  frame : Nat := 0
  valid : Bool := false
  perm : Nat := 0
  ord : Nat := 0
  cmp : Bool := false
  borrow : Bool := false
  pool : Bool := false
  limit : Nat := 0
deriving DecidableEq, Repr

/-- What a group stood at before one of its issues (spec/25 R414): program counters, srctr, loop counters and entries. -/
structure Snap where
  seq : Nat
  pc : Nat
  lpc : List (Nat × Nat)
  srctr : Nat
  lcs : List Nat
  loops : List LoopEntry
  parkWide : LaneMask := 0
  parkLoop : LaneMask := 0
deriving DecidableEq, Repr

/-- The poison window (spec/25 R414). `shutSeq` is the issue number at which it last closed (R415);
`keep` the register cells whose poison replay does not recompute (R416). -/
structure Win where
  opened : Bool := false
  orig : Option Snap := none
  gcnt : Nat := 0
  cnt : List (Nat × Nat) := []
  marked : BitVec 925 := 0
  fkind : Nat := 0
  faddr : Nat := 0
  noRepl : Bool := false
  keep : List (Nat × Bool) := []
  shutSeq : Nat := 0
deriving DecidableEq, Repr

/-- One user-level issue, remembered until no window can count it (R415): the model's own. `bad` holds the lanes whose result it
poisoned (R420). -/
structure Hist where
  seq : Nat
  lanes : LaneMask
  named : BitVec 925
  marked : Bool
  bad : LaneMask := 0
deriving DecidableEq, Repr

/-- A replay in progress (spec/25 R420): how many issues each lane is to
replay and has replayed, and where the group stood at the trap. -/
structure Replay where
  target : List (Nat × Nat)
  prog : List (Nat × Nat)
  done : LaneMask
  back : Snap
deriving DecidableEq, Repr

/-- Why a group takes no part in issue (spec/01 R26). -/
inductive Wait where
  | none
  | ralloc (target : Nat)
  | rfree (target : Nat)
  | bar (n : Nat)
  | waitc (path thr : Nat)
  | twait (t : Nat)
  | abwait (off ticket : Nat)
  | stgw (full : Bool) (off n : Nat)
  | join
  | yield (since : Nat)
deriving DecidableEq, Repr

/-- The trap record (spec/25 R413). -/
structure TrapRec where
  cause : Nat := 0
  pc : Nat := 0
  lane0 : Nat := 0
  lane1 : Nat := 0
  origin : Nat := 0
  srctr : Nat := 0
  addr : Nat := 0
  aux : Nat := 0
deriving DecidableEq, Repr

/-- A haul fault recorded for a group (spec/17 R287). -/
structure HFault where
  fkind : Nat
  addr : Nat
  pc : Nat
  path : Path
deriving DecidableEq, Repr

/-- Where an agent stands, as scopes tell agents apart (spec/13 R226): its core, its block and its group. -/
structure Seat where
  core : Nat := 0
  bid : Nat := 0
  gid : Nat := 0
deriving DecidableEq, Repr

/-- A release as its readers know it (spec/13 R231, R233, log 14): who performed it, its place in that group's program order, and its
scope. An engine's completion and a grid's retirement stand under a number of their own. -/
structure Tok where
  seat : Seat := {}
  scope : Nat := 4
  seq : Nat := 0
deriving DecidableEq, Repr

/-- An entry of the trigger queue (spec/17 R297): the HTRIG's place in program order and its operation; `met`
says that the test of the head entry has held since it came to the head, `toks` the releases that the word it then saw carries (R298),
`bad` that an uncorrectable error of the word has been reported; `fenced` are the XFENCEs before the HTRIG (R241). -/
structure Trig where
  seq : Nat
  pc : Nat
  desc : List Nat
  fn : Nat
  ty : Nat
  off : Nat
  thr : Nat
  service : Bool
  met : Bool := false
  bad : Bool := false
  toks : List Tok := []
  fenced : List (Nat × Nat) := []
deriving DecidableEq, Repr

/-- An XFENCE of a group (spec/13 R240) by its place in program order. -/
structure XFenceRec where
  seq : Nat
  p : Nat
  q : Nat
  scope : Nat
deriving DecidableEq, Repr

/-- A group of 96 lanes (spec/01 R6, spec/25 R410). Registers are cells keyed code * 96 + lane for v0 to v767, and
code * 96 for s0 to s156 and the loop counters; poison and pending flags use the same keys. `poolBad` says that an LD or ST
access has met a FAULTED pool region (spec/13 R249); `fenced` tells when each pair of paths was last fenced (R241), keyed
source * 8 + destination, and at which place in program order (64 more); `relNow` are its FENCEs with release, which its later writes
carry, and `relSeen` the releases that its reads have met (spec/13 R235). -/
structure Group where
  gid : Nat
  bid : Nat
  num : Nat
  upc : List (Nat × Nat)
  spc : List (Nat × Nat) := []
  live : LaneMask
  parkWide : LaneMask := 0
  parkLoop : LaneMask := 0
  regs : List (Nat × Word) := []
  poison : List (Nat × Bool) := []
  pend : List (Nat × Bool) := []
  xregs : List (Nat × XReg) := []
  loops : List LoopEntry := []
  lbuf : Option LoopBuf := none
  srctr : Nat := 0
  cnts : List (Nat × Nat) := []
  win : Win := {}
  hist : List Hist := []
  replay : Option Replay := none
  service : Bool := false
  role : Nat := 5
  k : Nat := 1
  wait : Wait := .none
  hfault : Option HFault := none
  trigq : List Trig := []
  xfences : List XFenceRec := []
  tr : TrapRec := {}
  scratch : List (Nat × Nat) := []
  noBp : Bool := false
  seq : Nat := 0
  slot : Nat := 0
  gslot : Nat := 0
  active : Bool := true
  lastIssue : Nat := 0
  retired : Bool := false
  poolBad : Bool := false
  fenced : List (Nat × Nat) := []
  relNow : List Tok := []
  relSeen : List Tok := []
deriving DecidableEq, Repr

/-- A block barrier (spec/07 R140): its count, the groups that have arrived, and of those that arrived in acquire-release order the
scope (R141) and the release. -/
structure Bar where
  count : Nat
  arrived : List Nat
  acq : List (Nat × Nat) := []
  toks : List Tok := []
deriving DecidableEq, Repr

/-- Why a block is saved, or is to be saved (spec/01 R37). -/
inductive SaveWhy where
  | join | spill | shunt
deriving DecidableEq, Repr

/-- Where a block stands (spec/01 R20, R37). -/
inductive Place where
  | resident
  | draining (why : SaveWhy)
  | saved (why : SaveWhy)
deriving DecidableEq, Repr

/-- A block (spec/01 R9, R40): its pad bytes are cells at their offsets, its tiles cells at t * 9216 + i * 96 + j; `toks` are the
releases of its child grids' retirements (spec/13 R244). -/
structure Block where
  bid : Nat
  grid : Nat
  lin : Nat
  core : Nat
  groups : List Nat
  place : Place := .resident
  bars : List (Nat × Bar) := []
  padSize : Nat := 0
  pad : List (Nat × Byte) := []
  padErr : List (Nat × Bool) := []
  padPages : List Nat := []
  ntiles : Nat := 0
  tiles : List (Nat × Word) := []
  kids : Nat := 0
  joined : List Nat := []
  toks : List Tok := []
  ctx : Nat := 0
deriving DecidableEq, Repr

/-- A deadline launch (spec/23 R406 to R408): its record's address, the variant that runs, the time by which it is to retire,
and when its first block was placed. -/
structure Deadline where
  recAddr : Nat
  variant : Nat
  due : Nat
  placed : Option Nat := none
deriving DecidableEq, Repr

/-- A grid (spec/01 R9, R32 to R34; spec/23 R396). `parent` is the block that spawned it and that block's grid, `node` the
replay and the node it runs, `order` its place among the grids of its queue, `next` the first block not yet placed, `gone` the
groups of its retired blocks that may have left dirty pool lines, `acq` the releases that the start of its blocks acquires (R33, R245),
`toks` those of its retired child grids. -/
structure Grid where
  gid : Nat
  part : Nat
  gx : Nat
  gy : Nat
  gz : Nat
  lanes : Nat
  entry : Nat
  params : List Nat
  regs : Nat
  regsMax : Nat
  uregs : Nat
  ntiles : Nat
  padB : Nat
  roles : Nat
  seed : Nat
  cls : Nat
  coop : Bool
  depth : Nat
  parent : Option (Nat × Nat) := none
  queue : Nat := 0
  order : Nat := 0
  status : Option Nat := none
  sigTok : Option Nat := none
  node : Option (Nat × Nat) := none
  dl : Option Deadline := none
  next : Nat := 0
  resident : Nat := 0
  kids : Nat := 0
  gone : List Nat := []
  acq : List Tok := []
  toks : List Tok := []
deriving DecidableEq, Repr

/-- A replay of a graph (spec/23 R403 to R405): its nodes as 512-bit records, the masks of their predecessors, and the
nodes started and retired. `failed` says that it has failed and starts no further node, `acq` the releases of the token that its record
awaited, `toks` those of its retired nodes, by number (spec/13 R245). -/
structure GraphRun where
  rid : Nat
  part : Nat
  queue : Nat
  order : Nat
  cls : Option Nat
  obj : Nat
  gen : Nat
  genAddr : Nat
  nodes : List Nat
  preds : List Nat
  started : List Nat := []
  retired : List Nat := []
  failed : Bool := false
  status : Nat
  sigTok : Option Nat
  dl : Option Deadline
  gone : List Nat := []
  acq : List Tok := []
  toks : List (Nat × List Tok) := []
deriving DecidableEq, Repr

/-- A local-store bank (spec/11 R177, R179). -/
structure Bank where
  mode : Nat
  state : Nat := 0
  hold : Bool := false
  result : Nat := 0
  target : Nat := 0
  intake : Option Nat := none
deriving DecidableEq, Repr

/-- A core. Banks are listed where they differ from the reset state of R177; `waiters` are the groups that wait in RALLOC with
their targets, in the order of their requests, `lastReturn` the cycle at which a register block last returned (R22, R24). -/
structure Core where
  banks : List (Nat × Bank) := []
  bankctl : Nat := 0
  dbgCmp : List (Nat × Nat) := []
  dbgCtl : Nat := 0
  waiters : List (Nat × Nat) := []
  lastReturn : Nat := 0
deriving DecidableEq, Repr

/-- An open wagon channel of a partition (spec/19 R324): queued wagons, oldest first, as 64-byte numbers with their senders;
2^16 is added to the sender of a wagon that has an uncorrectable error. `toks` are the releases that each of them carries (R329). -/
structure Chan where
  core : Nat
  bank : Nat
  total : Nat := 0
  wagons : List (Nat × Nat) := []
  toks : List (List Tok) := []
deriving DecidableEq, Repr

/-- A Landau job (spec/19 R335 to R340): its record, how far it has come (phase 0 queued, 1 reading BUF, 2 exchanging, 3
writing, 4 done, 5 failed), the exchange step it stands at and since when, the messages that have come, and its lines as
they now are, each with the rank that each pixel comes from; `forms` gives their tags, with 8 where the page has CMP set, `first` what
they held when the job read them, and `watch` the lines of memory that are its BUF. `err` is not 0 while it runs where it fails once its
writes are acknowledged. -/
structure Job where
  handle : Nat
  gid : Nat
  oid : Nat
  pc : Nat
  record : Nat
  phase : Nat := 0
  err : Nat := 0
  step : Nat := 0
  since : Nat := 0
  cancel : Bool := false
  begun : Bool := false
  got : List UetMsg := []
  buf : List (Nat × (Nat × List Nat)) := []
  forms : List (Nat × Nat) := []
  first : List (Nat × Nat) := []
  watch : List Nat := []
deriving DecidableEq, Repr

/-- A partition (spec/23 R378 to R400, spec/25 R424, R431). `nquads` and its fellows are the targets a running resize has
latched, `growing` its direction, `oldSlices` and `moved` REHASH's old slices and the lines moved; `restores` are the saved
blocks that wait for room, oldest first, `pre` the queues that are pre-empted, each with the queue it yields to, `rr` the
queue at which each priority's turn stands. -/
structure Part where
  quads : Nat := 0
  slices : Nat := 0
  chgrps : Nat := 0
  tquads : Nat := 0
  tslices : Nat := 0
  tchgrps : Nat := 0
  present : Bool := false
  grow : Bool := false
  nquads : Nat := 0
  nslices : Nat := 0
  nchgrps : Nat := 0
  growing : Bool := false
  oldSlices : Nat := 0
  moved : List (Nat × Bool) := []
  state : Nat := 0
  result : Nat := 0
  shunted : Nat := 0
  evacPending : List (Nat × Nat) := []
  forward : List (Nat × Nat) := []
  evac : Nat := 0
  ctxpool : Nat := 0
  ctxUsed : Nat := 0
  wchan : Nat := 0
  tokbase : Nat := 0
  fdom : Nat := 0
  pid : Nat := 0
  pidNext : Option Nat := none
  svcEntry : Nat := 0
  transRoot : Nat := 0
  shadowOff : Nat := 0
  drayCfg : Nat := 0
  tlbInvReg : Nat := 0
  tlbInv : List (Nat × Option Nat) := []
  istat : Nat := 0
  qcfg : List (Nat × Nat) := []
  qtail : List (Nat × Nat) := []
  qhead : List (Nat × Nat) := []
  rr : List (Nat × Nat) := []
  pre : List (Nat × Nat) := []
  restores : List Nat := []
  chans : List (Nat × Chan) := []
  credits : List (Nat × Nat) := []
  jobs : List Job := []
  nextHandle : Nat := 0
  nextOrder : Nat := 0
  ar : List Nat := []
  keys : List (Nat × List Nat) := []
  policy : Bool := false
  fatal : Bool := false
deriving DecidableEq, Repr

/-- A translated piece of an access: `n` bytes from physical address `pa`, standing `off` bytes into the access. -/
structure Piece where
  pa : Nat
  n : Nat
  off : Nat
  kind : PageKind
  cmp : Bool := false
  borrow : Bool := false
  pool : Bool := false
deriving DecidableEq, Repr

/-- How far an access has come. `sent` waits for a peer's answer; `got` is a load's part whose bytes have come from a peer. -/
inductive AccSt where
  | todo | sent | got | done
deriving DecidableEq, Repr

/-- One lane's access (spec/13 R216). A pad access has no pieces: its bytes lie at offset `va`. An access of an engine's
operation says in `act` what it does: 1 reads, 2 writes, 3 changes an element, 4 is a SCAT element not yet read from pad. -/
structure Access where
  act : Nat := 0
  lane : Nat
  va : Nat
  n : Nat
  pad : Bool := false
  pieces : List Piece := []
  st : List AccSt := []
  data : Nat := 0
  cmpv : Nat := 0
  old : Nat := 0
  fkind : Nat := 0
  away : List Nat := []
deriving DecidableEq, Repr

/-- What an outstanding operation does. `bare` is a release or acquire whose lanes are all disabled (R254). -/
inductive OpKind where
  | load (d n ty : Nat) (uni : Bool)
  | store
  | atomic (fn ty : Nat) (ret : Option (Nat × Nat)) (wide : Bool)
  | pref (fn : Nat)
  | fence (status : Option Nat)
  | xlt (d base : Nat)
  | cache (fn : Nat) (ranges : List (Nat × Nat)) (inv : Bool)
  | haul (kind : Nat) (desc : List Nat) (fn ty pat : Nat)
  | hrem (desc : List Nat) (fn val : Nat)
  | hsig (fn val : Nat)
  | gather (ty p : Nat)
  | scatter (fn ty p : Nat)
  | mloop (t a b c step : Nat) (halted : Bool)
  | tileOp (kind t a b fn ty rnd : Nat) (sat : Bool) (vals : List (Nat × Nat))
  | rtrav (fn d root : Nat) (rays : List (Nat × List Nat))
  | texf (d : Nat) (surf : List Nat) (uv : List (Nat × Nat × Nat))
  | wsend
  | wrecv (d : Nat) (taken : List (Nat × Nat)) (bad : List Nat)
  | coll (t fn obj : Nat) (rec : List Nat) (ranks : List Nat) (got up : List (Nat × List Nat))
  | job (part handle : Nat)
  | service (what bank : Nat)
  | bare
  | done
deriving DecidableEq, Repr

/-- An operation outstanding on an access path (spec/13 R217, R238). `seq` is its place in the group's program order, `hint` its
HINT (R261), `handed` the widest scope at which its group has since performed a release, plus 1 (R231), `noFill` says that a CINV
or a back-invalidation has come since it was sent (R213, R280), `fenced` holds the XFENCEs before it, by path (R241), `view`
the older bytes it reads, `first` gives, in replay, the issue of each lane's first attempt (R416), `born` the count of writes at its
issue (R231), and `toks` the releases that the firing of an HTRIG acquired for it (R298). -/
structure Op where
  oid : Nat
  gid : Nat
  bid : Nat
  part : Nat
  seq : Nat
  path : Path
  pc : Nat
  kind : OpKind
  accs : List Access := []
  order : Nat := 0
  scope : Nat := 0
  service : Bool := false
  replay : Bool := false
  counted : Bool := true
  snap : Option Snap := none
  named : BitVec 925 := 0
  ctr : Nat := 0
  issue : LaneMask := 0
  poisoned : Bool := false
  hint : Nat := 0
  handed : Nat := 0
  noFill : Bool := false
  fenced : List (Nat × Nat) := []
  view : List (Nat × Nat) := []
  first : List (Nat × Nat) := []
  born : Nat := 0
  toks : List Tok := []
deriving DecidableEq, Repr

/-- Words of a stored part on their way to one core's L1 copy (spec/11 R189). -/
structure Upd where
  oid : Nat
  core : Nat
  pa : Nat
  bytes : List Nat
deriving DecidableEq, Repr

/-- A line in a core's L1 (spec/11 R187): the mask of its 32 words that are valid, the bytes held, the CACHE bank that is its
way, whether the copy has an uncorrectable error (R214), and whether its core, which owns it, has written it there (R191). -/
structure L1Line where
  mask : Nat
  bytes : Nat
  way : Nat := 0
  bad : Bool := false
  dirty : Bool := false
deriving DecidableEq, Repr

/-- A directory entry (spec/11 R188, R192). `prev` is the core from which ownership was recalled for another core's atomic. -/
structure DirEnt where
  owner : Option Nat := none
  pred : Nat := 0
  lastMove : Option Nat := none
  ownAtoms : Nat := 0
  prev : Option Nat := none
deriving DecidableEq, Repr

/-- A frame of a partition's dray cache (spec/11 R210): the 64 KiB page it holds and the valid bits of its 512 sectors. The
sectors' bytes stand in HBM. -/
structure DrayFrame where
  page : Nat
  valid : Nat
deriving DecidableEq, Repr

/-- A write to a byte that a reader may still miss (spec/13 R222, R241, log 14): what the byte held before, which operation
wrote it on which path and lane, whether through a UN page, when, the first release of each releaser that covers it, the groups to
which it has become visible and when, and the engines that have read it. -/
structure Past where
  byte : Nat
  gid : Nat
  seq : Nat
  path : Path
  lane : Nat
  un : Bool
  at_ : Nat
  rels : List Tok := []
  vis : List (Nat × Nat) := []
  seen : List Nat := []
deriving DecidableEq, Repr

/-- A TLB entry (spec/11 R205, R209): the page's size as a power of two, its leaf, and where the leaf stands. -/
structure TlbEnt where
  core : Nat
  part : Nat
  vpage : Nat
  log : Nat
  leaf : Nat
  pte : Nat
  hits : Nat := 0
deriving DecidableEq, Repr

/-- A half line the host owns (spec/11 R195), with the host's own bytes when it has modified them. -/
structure HalfLine where
  pa : Nat
  dirty : Option Nat
deriving DecidableEq, Repr

/-- A turn of the machine: an issue of a group, or an event (the model's own, log 1). -/
inductive Turn where
  | issue (gid : Nat)
  | event (i : Instr) (args : EvArgs)
deriving DecidableEq, Repr

/-- The issue in progress: the group, the address, the lanes (spec/01 R12) and the cause of a fetch fault. The model's
own: step sets it before it performs an instruction word. -/
structure Isu where
  gid : Nat := 0
  pc : Nat := 0
  mask : LaneMask := 0
deriving DecidableEq, Repr

/-- A dump (spec/25 R434): what its header holds, and its sections: the groups with their registers and poison bits, the blocks with their
pads and tiles, the dirty lines that L2 is known to hold, the directory, the RAS ring. -/
structure Dump where
  cause : Nat
  time : Nat
  parts : Nat
  groups : List (Nat × Group) := []
  blocks : List (Nat × Block) := []
  dirty : List (Nat × Nat) := []
  dir : List (Nat × DirEnt) := []
  ring : List Host.Cell := []
deriving DecidableEq, Repr

/-- The firmware and boot state (spec/25 R427 to R435): registers, the mailbox, the staging area, the flash, and whether HBM
bandwidth is capped and power removed. `dump` is the dump that the dump region holds (R434). -/
structure Boot where
  devstat : Nat := 0
  mbxCmd : Nat := 0
  mbxStat : Nat := 0
  mbxArg : List Nat := [0, 0, 0, 0]
  mbxRsp : List Nat := [0, 0, 0, 0]
  mbxData : List (Nat × Byte) := []
  staging : List (Nat × Byte) := []
  flash : List Nat := []
  cfgRec : List Nat := []
  pwrStat : Nat := 5000 * 65536 + 2100 * 4294967296
  hbmCap : Bool := false
  powerOff : Bool := false
  dump : Option Dump := none
deriving DecidableEq, Repr

/-- The fabric side of the package (spec/21). `ports` and `unreach` are sets of ports and packages, bit by number; `tags`
maps an outstanding request to its operation, packet key and line; `portAt` tells when a port went down, `cut` when the switch of
a plane lost a package, keyed port * 512 + package (R346), `told` the unreachable packages of which the fabric manager has been
notified; `mcWait` a multicast line to its tree's
entries, bit 15 set in those that have answered. `inQueue` holds the bytes in each port's queue, keyed port * 8 + class, as they stood
when a packet last chose among the ports (R351). -/
structure Fabric where
  members : List (Nat × Nat) := []
  class_ : Nat := 0
  mctab : Nat := 0
  nacklog : Nat := 0
  errlog : Nat := 0
  ports : Nat := 0
  portAt : List (Nat × Nat) := []
  cut : List (Nat × Nat) := []
  unreach : Nat := 0
  told : List Nat := []
  outbox : List Packet := []
  inQueue : List (Nat × Nat) := []
  rates : List (Nat × Nat) := []
  marks : List (Nat × Nat) := []
  nextTag : Nat := 0
  tags : List (Nat × (Nat × Nat × Nat)) := []
  mcWait : List (Nat × List Nat) := []
  uetOut : List UetMsg := []
  ethUp : Nat := 0
  ethAddr : List (Nat × Nat) := []
  collOut : List (Nat × Nat × Nat × List Nat) := []
deriving DecidableEq, Repr

/-- The pooled tier (spec/21 R361 to R366): the region entries taken from the table, and the pool lines that may be dirty in
L2, each with the groups that wrote it since it was last clean (log 25). -/
structure Pool where
  rtab : Nat := 0
  fstat : Nat := 0
  entries : List (Nat × Nat) := []
  dirty : List (Nat × List Nat) := []
deriving DecidableEq, Repr

/-- How the frequency is adjusted (spec/21 R376): the nanoseconds `slew` still to be added, `rate` the adjustment in parts per
million, `held` when three Sync intervals were missed, `room` what has been earned of the next nanosecond in 10^-6 ns, and `draws` the
number of the next free rate (log 6). -/
structure Servo where
  slew : Int := 0
  rate : Int := 0
  held : Bool := false
  room : Int := 0
  draws : Nat := 0
deriving DecidableEq, Repr

/-- The exchange with the master in progress (spec/21 R373): the times of the last event message in and out of each port, keyed
port * 2 and port * 2 + 1; when the last Sync came, with its correction, and when it was sent; when a delay request left; when a
Pdelay_Resp came, with the time it names; and the peer delay. -/
structure PtpExch where
  stamps : List (Nat × Nat) := []
  syncAt : Option (Nat × Int) := none
  origin : Option Int := none
  reqAt : Option Nat := none
  respAt : Option (Nat × Int) := none
  delay : Int := 0
deriving DecidableEq, Repr

/-- The PTP clock (spec/21 R373 to R376): the time in nanoseconds, the fraction of one in units of a clock period over 1000, the
Sync intervals in a row within 20 ns, and the messages that left. -/
structure Ptp where
  cfg : Nat := 0
  stat : Nat := 0
  ns : Nat := 0
  frac : Nat := 0
  good : Nat := 0
  servo : Servo := {}
  exch : PtpExch := {}
  out : List PtpMsg := []
deriving DecidableEq, Repr

/-- The package. `agenda`, `isu`, `ev` and `fresh` are the model's own: the turns that come next (log 1), the issue and the
operands of the event in progress, and the counter of free values (log 10); so is `nextOp`. `il` holds the instruction-fetch lines of
each core (spec/03 R73, spec/15 R280), keyed core * 2^45 + line. `slotClk` counts the cycles that each issue slot has spent on
issues, keyed core * 4 + slot, and `idle` those in which none issued: together they are the cycles of a slot (spec/01 R26, log 5).
`dray` is keyed partition * 2^16 + frame. `past` holds the writes that a reader may still miss, by the place of the byte, newest
first, and `stamp` counts them; `relAt` gives the releases that the value of a place carries (spec/13 R233); `bufHit` the bytes of
Landau jobs' BUFs that cores have written since CMPJ (spec/19 R338). `l2Err` holds the lines whose clean copy in L2 has an uncorrectable
error (spec/11 R214). -/
structure State where
  agenda : List Turn := []
  isu : Isu := {}
  ev : EvArgs := {}
  fresh : Nat := 0
  groups : List (Nat × Group) := []
  blocks : List (Nat × Block) := []
  grids : List (Nat × Grid) := []
  runs : List (Nat × GraphRun) := []
  cores : List (Nat × Core) := []
  parts : List (Nat × Part) := []
  vfs : List (Nat × Nat) := []
  vfIstat : List (Nat × Nat) := []
  ops : List Op := []
  nextOp : Nat := 0
  mem : List Host.Cell := []
  tags : List (Nat × Nat) := []
  lineErr : List (Nat × Bool) := []
  l2Err : List (Nat × Bool) := []
  l1 : List (Nat × L1Line) := []
  il : List (Nat × Nat) := []
  dir : List (Nat × DirEnt) := []
  updates : List Upd := []
  hostHalf : List (Nat × HalfLine) := []
  tlb : List TlbEnt := []
  dray : List (Nat × DrayFrame) := []
  past : List (Nat × List Past) := []
  stamp : Nat := 0
  relAt : List (Nat × List Tok) := []
  bufHit : List Nat := []
  ways : List (Nat × Nat) := []
  pkg : Nat := 0
  hostWinBase : Nat := 0
  hostWinSize : Nat := 0
  hostLinks : List (Nat × Nat) := []
  boot : Boot := {}
  fab : Fabric := {}
  pool : Pool := {}
  ptp : Ptp := {}
  cycle : Nat := 0
  idle : Nat := 0
  slotClk : List (Nat × Nat) := []
  compTurn : Nat := 0
  irqs : List (Nat × Nat) := []
deriving DecidableEq, Repr

/-- The machine right after reset (spec/25 R427: no partition exists; logs 3 and 4 name the values the spec leaves open). -/
def State.reset : State := {}

end Sys2Proof.Machine
end

