-- ==== Sys2Proof/Machine/Ops.lean ====
section
/-! DEFINITION. Operations every instruction shares: lanes and registers of a group, the poison window, taking a trap and
what an issue does after its instruction (spec/01, spec/03, spec/07 R131 to R133, spec/25 R409 to R420). -/

namespace Sys2Proof.Machine

/-- The lanes of a mask, ascending. -/
def lanesOf (m : LaneMask) : List Nat := (List.range 96).filter (fun l => bit m.toNat l)

/-- The mask of a list of lanes. -/
def maskOf (ls : List Nat) : LaneMask := BitVec.ofNat 96 (ls.foldl (fun a l => a ||| (1 <<< l)) 0)

/-- Is lane `l` in the mask? -/
def hasLane (m : LaneMask) (l : Nat) : Bool := bit m.toNat l

/-- The lowest-numbered lane of a mask; 96 when it is empty. -/
def lowLane (m : LaneMask) : Nat := ((lanesOf m).head?).getD 96

/-- The beats an issue takes: those with a lane in it (R5). -/
def beatsOf (m : LaneMask) : Nat :=
  (if m.toNat % 2 ^ 32 = 0 then 0 else 1) + (if (m.toNat >>> 32) % 2 ^ 32 = 0 then 0 else 1) + (if m.toNat >>> 64 = 0 then 0 else 1)

/-- The cell of a register: per lane for vector registers, one for the group otherwise. -/
def regKey (code lane : Nat) : Nat := code * 96 + (if isV code then lane else 0)

def getReg (g : Group) (code lane : Nat) : Nat := (cget 0 (regKey code lane) g.regs).toNat

def putReg (g : Group) (code lane w : Nat) : Group := { g with regs := cset 0 (regKey code lane) (BitVec.ofNat 32 w) g.regs }

def getPoison (g : Group) (code lane : Nat) : Bool := cget false (regKey code lane) g.poison

def putPoison (g : Group) (code lane : Nat) (p : Bool) : Group := { g with poison := cset false (regKey code lane) p g.poison }

def getPend (g : Group) (code lane : Nat) : Bool := cget false (regKey code lane) g.pend

def putPend (g : Group) (code lane : Nat) (p : Bool) : Group := { g with pend := cset false (regKey code lane) p g.pend }

/-- The program counter of a lane at the group's level (R410). -/
def getPc (g : Group) (l : Nat) : Nat := if g.service then cget 0 l g.spc else cget 0 l g.upc

def putPc (g : Group) (l pc : Nat) : Group :=
  if g.service then { g with spc := cset 0 l pc g.spc } else { g with upc := cset 0 l pc g.upc }

/-- The number of a path (R138). -/
def pathNo : Path → Nat
  | .ld => 0 | .st => 1 | .hl => 2 | .ga => 3 | .mx => 4 | .ry => 5 | .nt => 6 | .sv => 7

/-- The path of a number. -/
def pathOf (n : Nat) : Path :=
  match n with
  | 0 => .ld | 1 => .st | 2 => .hl | 3 => .ga | 4 => .mx | 5 => .ry | 6 => .nt | _ => .sv

def getCnt (g : Group) (p : Path) : Nat := cget 0 (pathNo p) g.cnts

def putCnt (g : Group) (p : Path) (n : Nat) : Group := { g with cnts := cset 0 (pathNo p) n g.cnts }

def setGroup (g : Group) (s : State) : State := { s with groups := minsert g.gid g s.groups }
def setBlock (b : Block) (s : State) : State := { s with blocks := minsert b.bid b s.blocks }
def setGrid (g : Grid) (s : State) : State := { s with grids := minsert g.gid g s.grids }
def setPart (p : Nat) (v : Part) (s : State) : State := { s with parts := minsert p v s.parts }
def setCore (c : Nat) (v : Core) (s : State) : State := { s with cores := minsert c v s.cores }

def getPart (s : State) (p : Nat) : Part := (mfind p s.parts).getD {}
def getCore (s : State) (c : Nat) : Core := (mfind c s.cores).getD {}

def modGroup (gid : Nat) (f : Group → Group) (s : State) : State := { s with groups := mmodify gid f s.groups }
def modBlock (bid : Nat) (f : Block → Block) (s : State) : State := { s with blocks := mmodify bid f s.blocks }
def modGrid (gid : Nat) (f : Grid → Grid) (s : State) : State := { s with grids := mmodify gid f s.grids }
def modPart (p : Nat) (f : Part → Part) (s : State) : State := setPart p (f (getPart s p)) s
def modCore (c : Nat) (f : Core → Core) (s : State) : State := setCore c (f (getCore s c)) s

/-- The bank a core holds at `b`: at reset banks 0 to 3 are CACHE and the others PAD (R177). -/
def getBank (c : Core) (b : Nat) : Bank := (mfind b c.banks).getD { mode := if b < 4 then 0 else 1 }

/-- The lane a source route reads, none when it reads zero (R55). -/
def routeLane (route l bc : Nat) : Option Nat :=
  let b := l / 32
  let n := l % 32
  match route with
  | 0 => some l
  | 1 => some (32 * b + (n ^^^ 1))
  | 2 => some (32 * b + (n ^^^ 2))
  | 3 => some (32 * b + (n ^^^ 4))
  | 4 => some (32 * b + (n ^^^ 8))
  | 5 => some (32 * b + (n ^^^ 16))
  | 6 => some ((l + 32) % 96)
  | 7 => some ((l + 64) % 96)
  | 8 => some (8 * (l / 8) + (l + 1) % 8)
  | 9 => some (95 - l)
  | 10 => some (32 * b + 31 - n)
  | 11 => if l = 0 then none else some (l - 1)
  | 12 => if l = 95 then none else some (l + 1)
  | 13 => some ((l + 95) % 96)
  | 14 => some ((l + 1) % 96)
  | _ => if bc % 128 < 96 then some (bc % 128) else none

/-- The registers that can be marked: v0 to v767 and s0 to s156 (R414), by operand code. -/
def markBits (us : List RegUse) : BitVec 925 :=
  BitVec.ofNat 925 (us.foldl (fun a u =>
    (List.range u.n).foldl (fun a k => if u.code + k < 925 then a ||| (1 <<< (u.code + k)) else a) a) 0)

/-- The lanes a group may issue (R12): live, not parked, and in a replay not yet at their count (R420). Holding is decided
with the instruction (R11). -/
def candidates (g : Group) : LaneMask :=
  if g.service then g.live
  else g.live &&& ~~~g.parkWide &&& ~~~g.parkLoop &&& ~~~((g.replay.map (fun r => r.done)).getD 0)

/-- A group's standing, to be returned to (R414). -/
def snapOf (g : Group) (pc : Nat) : Snap :=
  { seq := g.seq, pc := pc, lpc := g.upc, srctr := g.srctr
    lcs := [getReg g 944 0, getReg g 945 0, getReg g 946 0]
    loops := g.loops, parkWide := g.parkWide, parkLoop := g.parkLoop }

/-- Puts srctr, loop counters and loop entries back to a recorded standing. What the loop buffer then holds the spec does not
say: the capture stays as it stood at the trap (log 54). -/
def loadSnap (g : Group) (n : Snap) : Group :=
  let g1 := { g with upc := n.lpc, srctr := n.srctr, loops := n.loops, parkWide := n.parkWide &&& g.live, parkLoop := n.parkLoop &&& g.live }
  putReg (putReg (putReg g1 944 0 (n.lcs.getD 0 0)) 945 0 (n.lcs.getD 1 0)) 946 0 (n.lcs.getD 2 0)

/-- What a trap records (R413). -/
structure TrapInfo where
  cause : Cause
  lanes : LaneMask
  addr : Nat := 0
  aux : Nat := 0
  code : Nat := 0
  close : Nat := 0
  fkind : Nat := 0
deriving DecidableEq, Repr

/-- Raises an interrupt vector of the host function `fn` (0 the physical function, v the virtual function v). -/
def raiseIrq (fn vec : Nat) (s : State) : State := { s with irqs := s.irqs ++ [(fn, vec)] }

/-- Sets interrupt cause bits of a partition and of its virtual functions, and raises their vectors (R424, R425). -/
def partIrq (p bitNo : Nat) (s : State) : State :=
  let s1 := modPart p (fun q => { q with istat := q.istat ||| (1 <<< bitNo) }) s
  let vs := (s.vfs.filter (fun e => e.2 == p)).map (fun e => e.1)
  let s2 := vs.foldl (fun t v => raiseIrq v 0 { t with vfIstat := cset 0 v (cget 0 v t.vfIstat ||| (1 <<< bitNo)) t.vfIstat }) s1
  raiseIrq 0 (p + 1) s2

/-- The place of a byte: a pool address stands for the one that its region's entry presents on its link (spec/21 R362). -/
def memKey (s : State) (pa : Nat) : Nat :=
  if pa < 2 ^ 49 ∨ 2 ^ 50 ≤ pa then pa
  else match mfind ((pa - 2 ^ 49) / 2 ^ 30) s.pool.entries with
    | some e => 2 ^ 60 + bits e 0 2 * 2 ^ 52 + bits e 30 22 * 2 ^ 30 + pa % 2 ^ 30
    | none => pa

/-- One byte of physical memory (spec/21 R345); a half line that the host holds modified reads as the host has it (spec/11
R195). Memory that nothing has written reads as zero (log 4). -/
def memByte (s : State) (pa : Nat) : Nat :=
  match (mfind (pa / 64) s.hostHalf).bind (fun h => h.dirty) with
  | some v => bits v (8 * (pa % 64)) 8
  | none => (cget 0 (memKey s pa) s.mem).toNat

def memPut (s : State) (pa v : Nat) : State := { s with mem := cset 0 (memKey s pa) (BitVec.ofNat 8 v) s.mem }

/-- `n` bytes of memory, little-endian. -/
def memGet (s : State) (pa n : Nat) : Nat := ofBytes ((List.range n).map (fun i => memByte s (pa + i)))

/-- Writes `n` bytes of memory, little-endian. -/
def memSet (s : State) (pa n v : Nat) : State := (List.range n).foldl (fun t i => memPut t (pa + i) (bits v (8 * i) 8)) s

/-- The first byte of the RAS ring (R433). -/
abbrev rasBase : Nat := 0x3FFFF000000

/-- Appends an entry to the RAS ring (R432, R433), and interrupts the owner of an uncorrectable one. -/
def rasLog (kind sev : Nat) (part : Option Nat) (unit addr : Nat) (s : State) : State :=
  let k := memGet s rasBase 8
  let at_ := rasBase + 4096 + 32 * (k % 524160)
  let s1 := memSet s at_ 32 (kind + sev * 2 ^ 8 + (part.getD 0xFF) * 2 ^ 16 + unit * 2 ^ 32 + addr * 2 ^ 64 + (s.ptp.ns % 2 ^ 64) * 2 ^ 128)
  let s2 := memSet (memSet s1 (rasBase + 8) 4 524160) rasBase 8 (k + 1)
  match part with
  | some p => if sev = 1 then partIrq p 0 s2 else s2
  | none => s2

/-- Reports an uncorrectable soft error (R432). -/
def softError (s : State) (kind : Nat) (part : Option Nat) (unit addr : Nat) : State := rasLog kind 1 part unit addr s

/-- The unit field of a RAS entry for a core. -/
def coreUnit (core : Nat) : Nat := core / 96 + core % 96 * 16

/-- The base of the dump region (R434). -/
abbrev dumpBase : Nat := 0x3FE00000000

/-- Replaces the bytes of memory from `base` on by those given. -/
def memFill (base : Nat) (bs : List Byte) (s : State) : State :=
  let cells := ((List.range bs.length).zip bs).filterMap (fun e => if e.2 = 0 then none else some (base + e.1, e.2))
  { s with mem := s.mem.filter (fun e => decide (e.1 < base)) ++ cells ++ s.mem.filter (fun e => decide (base + bs.length ≤ e.1)) }

/-- The partition of a block, through its grid. -/
def blockPart (s : State) (b : Block) : Nat := ((mfind b.grid s.grids).map (fun r => r.part)).getD 0

/-- The partition of a group, through its block and grid. -/
def partOf (s : State) (g : Group) : Nat := ((mfind g.bid s.blocks).map (blockPart s)).getD 0

/-- The core of a group, through its block. -/
def coreOf (s : State) (g : Group) : Nat := ((mfind g.bid s.blocks).map (fun b => b.core)).getD 0

/-- What a dump of some partitions holds (R434). A pool line belongs to the partitions of the groups that wrote it. -/
def dumpOf (s : State) (cause partMask : Nat) : Dump :=
  let mine := fun (gid : Nat) => match mfind gid s.groups with | some g => bit partMask (partOf s g) | none => true
  { cause := cause, time := s.ptp.ns % 2 ^ 64, parts := partMask
    groups := s.groups.filter (fun e => mine e.1)
    blocks := s.blocks.filter (fun e => bit partMask (blockPart s e.2))
    dirty := (s.pool.dirty.filter (fun e => e.2.any mine)).map (fun e => (e.1, memGet s (e.1 * 128) 128))
    dir := s.dir.filter (fun e => decide (2 ^ 42 ≤ e.1 * 128) || s.parts.any (fun p => bit partMask p.1 && bit p.2.chgrps (e.1 * 128 / 2 ^ 35)))
    ring := s.mem.filter (fun e => decide (rasBase ≤ e.1 ∧ e.1 < 2 ^ 42)) }

/-- Writes the dump of some partitions unless one is held (R434). After the magic, where the header's fields and the sections stand is not
given: those bytes of the header are free, and State keeps what the dump holds (log 36). -/
def writeDump (cause : Nat) (partMask : Nat) (s : State) : State :=
  if bit s.boot.devstat 8 then s
  else
    let s1 := memFill dumpBase ((bytesOf 4 0x504D5544).map (BitVec.ofNat 8) ++ (List.range 4092).map (fun i => Config.freeByte (s.fresh + i))) s
    { s1 with fresh := s.fresh + 4092
              boot := { s1.boot with devstat := s1.boot.devstat ||| 256, dump := some (dumpOf s cause partMask) } }

/-- A fatal error of a partition in a unit (R432): its blocks stop, its part of the dump is written, its driver is interrupted. -/
def fatalOf (kind p unit addr : Nat) (s : State) : State :=
  let s1 := rasLog kind 2 (some p) unit addr s
  let s2 := writeDump 1 (1 <<< p) s1
  partIrq p 2 (modPart p (fun q => { q with fatal := true }) s2)

/-- A double trap of a core is fatal to the partition (R411, R432); R432 gives its entry no KIND (log 36). -/
def partFatal (p core : Nat) (s : State) : State := fatalOf (Config.freeByte s.fresh).toNat p (coreUnit core) 0 { s with fresh := s.fresh + 1 }

/-- The trap record of a trap in the group's window (R413). For POISON, the fault is the window's first unless the
instruction brings its own. -/
def trapRec (g : Group) (pc : Nat) (t : TrapInfo) : TrapRec :=
  let own := t.fkind != 0 || !(t.cause == .poison)
  let fk := if own then t.fkind else g.win.fkind
  let ad := if own then t.addr else g.win.faddr
  let ov := g.win.opened
  { cause := causeCode t.cause + (if ov then 256 else 0) + t.close * 512 + fk * 2048 + (if g.win.noRepl && ov then 32768 else 0) + t.code * 65536
    pc := pc
    lane0 := t.lanes.toNat % 2 ^ 64
    lane1 := t.lanes.toNat / 2 ^ 64
    origin := ((g.win.orig).map (fun o => o.pc)).getD 0
    srctr := ((g.win.orig).map (fun o => o.srctr)).getD 0 + g.srctr * 2 ^ 32
    addr := ad % 2 ^ 64
    aux := t.aux }

/-- The cycles that have passed for a group's issue slot (R26): those of the slot's own issues, and those in which nothing
issued (log 5). -/
def slotTime (s : State) (g : Group) : Nat := s.idle + cget 0 (coreOf s g * 4 + g.slot) s.slotClk

/-- The cells of registers below v(32k) and of the other registers. -/
def keepCells {α : Type} (k : Nat) (m : List (Nat × α)) : List (Nat × α) := m.filter (fun e => decide (e.1 < 32 * k * 96 ∨ 768 * 96 ≤ e.1))

/-- A group's allocation becomes `k` blocks; registers that come read zero, those that go are lost (R22). -/
def setAlloc (k : Nat) (g : Group) : Group :=
  let low := min k g.k
  { g with k := k, regs := keepCells low g.regs, poison := keepCells low g.poison, pend := keepCells low g.pend }

/-- Taking a trap (R410, R411): the record is written, the level becomes service, and every live lane's service program
counter is SVC_ENTRY. At service level it is a double trap, fatal to the partition. -/
def takeTrap (s : State) (g : Group) (pc : Nat) (t : TrapInfo) : State :=
  let p := partOf s g
  if g.service then partFatal p (coreOf s g) s
  else
    let entry := (getPart s p).svcEntry
    let g1 := { g with
      tr := trapRec g pc t
      service := true
      spc := (lanesOf g.live).foldl (fun m l => cset 0 l entry m) []
      lastIssue := slotTime s g
      noBp := t.cause == .addrBreak
      hfault := if t.cause == .haulFault then none else g.hfault }
    setGroup g1 s

/-- Does the open window's origin stand at or before issue number `seq`? -/
def originBefore (w : Win) (seq : Nat) : Bool := w.opened && (match w.orig with | some o => decide (o.seq ≤ seq) | none => false)

/-- The window keeps the first fault that is recorded in it (R413, R414), in replay too. -/
def Win.noteFault (w : Win) (fkind addr : Nat) : Win := if w.fkind = 0 then { w with fkind := fkind, faddr := addr } else w

/-- An issue is found to have poisoned its result in some lanes (R420). -/
def noteBad (seq : Nat) (lanes : LaneMask) (g : Group) : Group :=
  { g with hist := g.hist.map (fun h => if h.seq = seq then { h with bad := h.bad ||| lanes } else h) }

/-- The result that replay gave a lane of an atomic stands: its first performance is over (R416). -/
def clearBad (seq : Nat) (lane : Nat) (g : Group) : Group :=
  { g with hist := g.hist.map (fun h => if h.seq = seq then { h with bad := h.bad &&& ~~~(maskOf [lane]) } else h) }

/-- The issue of the first attempt that lane `l`'s next replay issue repeats (R420): its issues since the origin, in turn. A lane
that passes a group-wide instruction once more repeats no issue there. -/
def firstIssue (g : Group) (l : Nat) : Option Hist :=
  match g.replay, g.win.orig with
  | some r, some o =>
    let extra := cget 0 l r.target - cget 0 l g.win.cnt
    let at_ := cget 0 l r.prog
    if at_ < extra then none else (g.hist.filter (fun h => decide (o.seq ≤ h.seq) && hasLane h.lanes l))[at_ - extra]?
  | _, _ => none

/-- Did the first attempt poison lane `l`'s result of the instruction that the lane replays next? -/
def firstBad (g : Group) (l : Nat) : Bool := ((firstIssue g l).map (fun h => hasLane h.bad l)).getD false

/-- The window opens, moves its origin back or marks more registers, when poison of an operation's own is found (R415). For a
new origin the history, which holds every issue from the operation's on, is counted again. -/
def windowPoison (g : Group) (n : Snap) (named : BitVec 925) (fkind addr : Nat) (noRepl : Bool) : Group :=
  if n.seq < g.win.shutSeq then g
  else
    let hist := g.hist.map (fun h => if h.seq = n.seq then { h with marked := true } else h)
    if originBefore g.win n.seq then
      { g with hist := hist, win := { g.win with marked := g.win.marked ||| named, noRepl := noRepl || g.win.noRepl }.noteFault fkind addr }
    else
      let since := hist.filter (fun h => decide (n.seq ≤ h.seq))
      let cnt := since.foldl (fun m h => (lanesOf h.lanes).foldl (fun m l => cset 0 l (cget 0 l m + 1) m) m) []
      let marks := since.foldl (fun m h => if h.marked then m ||| h.named else m) 0
      let fresh := !g.win.opened
      { g with
        hist := hist
        win := { g.win with
          opened := true, orig := some n, gcnt := since.length, cnt := cnt
          marked := (if fresh then 0 else g.win.marked) ||| marks ||| named
          noRepl := noRepl || (!fresh && g.win.noRepl) }.noteFault fkind addr }

/-- The window closes; poison found later of earlier issues opens none (R415, R419). -/
def windowClose (g : Group) : Group := { g with win := { shutSeq := g.seq } }

/-- Does any register of the group hold poison? -/
def anyPoison (g : Group) : Bool := !g.poison.isEmpty

/-- The loop entries a lane belongs to end with its innermost. -/
def innermost (loops : List LoopEntry) (l : Nat) : Option LoopEntry := (loops.filter (fun e => hasLane e.members l)).getLast?

/-- Takes lane `l` out of the entry that begins at `start` and of every entry nested after it (R132). -/
def leaveFrom (loops : List LoopEntry) (start l : Nat) : List LoopEntry :=
  let out := maskOf [l]
  (loops.foldl (fun (acc : Bool × List LoopEntry) e =>
    let hit := acc.1 || e.start == start
    (hit, acc.2 ++ [if hit then { e with members := e.members &&& ~~~out } else e])) (false, [])).2

/-- A branch at `pc` to `target` ends the lane's membership of every entry whose body it leaves other than at its END. -/
def leaveByBranch (loops : List LoopEntry) (l pc target : Nat) : List LoopEntry :=
  match loops.find? (fun e => hasLane e.members l && decide (e.start ≤ pc ∧ pc < e.stop) &&
      !(decide (e.start ≤ target ∧ target ≤ e.stop))) with
  | some e => leaveFrom loops e.start l
  | none => loops

/-- Entries with no member pop (R132). -/
def popEmpty (loops : List LoopEntry) : List LoopEntry := loops.filter (fun e => e.members.toNat != 0)

/-- One loop that can close closes (R131): every member is parked at its END and it is the innermost entry of each. -/
def closeOne (g : Group) : Option (Group × Bool) :=
  match g.loops.reverse.find? (fun e => e.members.toNat != 0 && (lanesOf e.members).all (fun l =>
      hasLane g.parkLoop l && (innermost g.loops l).map (fun x => x.start) == some e.start)) with
  | none => none
  | some e =>
    let n := getReg g (944 + e.ctr) 0
    if n ≤ 1 then
      let rest := g.loops.filter (fun x => x.start != e.start)
      let stay := (lanesOf e.members).filter (fun l => (innermost rest l).map (fun x => x.stop) == some e.stop)
      let g1 := putReg { g with loops := rest, parkLoop := (g.parkLoop &&& ~~~e.members) ||| maskOf stay } (944 + e.ctr) 0 0
      some (g1, false)
    else
      let g1 := (lanesOf e.members).foldl (fun x l => { x with upc := cset 0 l e.start x.upc }) { g with parkLoop := g.parkLoop &&& ~~~e.members }
      let outer := (g.loops.head?.map (fun x => x.start)) == some e.start
      some (putReg g1 (944 + e.ctr) 0 (n - 1), outer)

/-- Closes every loop that can; the flag says that the outermost loop began a new iteration. -/
def closeLoops : Nat → Group → Bool → Group × Bool
  | 0, g, again => (g, again)
  | fuel + 1, g, again =>
    match closeOne g with
    | none => (g, again)
    | some (g1, o) => closeLoops fuel g1 (again || o)

/-- The capture belongs to the outermost entry and is released with it (R133). -/
def dropCapture (before : List LoopEntry) (g : Group) : Group :=
  if before.isEmpty || (before.head?.map (fun x => x.start)) == (g.loops.head?.map (fun x => x.start)) then g else { g with lbuf := none }

/-- The replay that every live lane has finished ends (R420): the group stands where it stood at the trap, and the window
closes unless a register still holds poison. Reissued loads have their data by then, and at service level the replay
waits for ERET (R410). -/
def endReplay (g : Group) : Group :=
  match g.replay with
  | none => g
  | some r =>
    if (g.live &&& ~~~r.done).toNat == 0 && g.pend.isEmpty && !g.service then
      let g1 := { loadSnap g r.back with replay := none }
      if anyPoison g1 then g1 else windowClose g1
    else g

/-- Replay begins (R420): the lanes stand at LPC, srctr and the loops at their values at the origin, and each lane is to
replay as many issues as it made. A lane that was parked at a group-wide instruction at the origin and has since passed it
passes it once more. -/
def beginReplay (g : Group) : Group :=
  match g.win.orig with
  | none => g
  | some o =>
    let passed := o.parkWide &&& ~~~g.parkWide
    let target := (lanesOf g.live).foldl (fun m l => cset 0 l (cget 0 l g.win.cnt + (if hasLane passed l then 1 else 0)) m) []
    let done := maskOf ((lanesOf g.live).filter (fun l => cget 0 l target == 0))
    let back := snapOf g o.pc
    let g1 := loadSnap g { o with parkWide := o.parkWide &&& ~~~passed }
    endReplay { g1 with replay := some { target := target, prog := [], done := done, back := back } }

/-- Counts one replayed issue of each lane, and parks those that reach their count (R420). -/
def stepReplay (g : Group) (lanes : LaneMask) : Group :=
  match g.replay with
  | none => g
  | some r =>
    let prog := (lanesOf lanes).foldl (fun m l => cset 0 l (cget 0 l m + 1) m) r.prog
    let done := r.done ||| maskOf ((lanesOf lanes).filter (fun l => decide (cget 0 l r.target ≤ cget 0 l prog)))
    endReplay { g with replay := some { r with prog := prog, done := done } }

/-- Keeps the history back to the open window's origin and to the oldest issue that could still open a window: those of
outstanding operations. -/
def trimHist (s : State) (g : Group) : List Hist :=
  let from_ := if g.win.opened then (g.win.orig.map (fun o => o.seq)).getD g.seq else g.seq
  let low := (s.ops.filter (fun o => o.gid == g.gid && o.snap.isSome)).foldl (fun m o => min m o.seq) from_
  g.hist.filter (fun h => decide (low ≤ h.seq))

end Sys2Proof.Machine
end

