-- ==== Sys2Proof/Machine/Line.lean ====
section
/-! DEFINITION. Physical addresses (spec/21 R345 to R347, R362, spec/23 R378, R390), the line at its home with its tag, data errors, host
halves and exclusive owner (spec/11 R188, R191, R195 to R201), and the ports to peers (spec/21 R348, R351). -/

namespace Sys2Proof.Machine

/-- What a physical address names (R345, R346). -/
inductive PaKind where
  | hbm (pa : Nat)
  | host
  | pooled (region : Nat)
  | mcast (group off : Nat)
  | peer (pkg off : Nat)
  | bad
deriving DecidableEq, Repr

/-- The package's own window of the peer range is its local HBM (R346). -/
def paKind (s : State) (pa : Nat) : PaKind :=
  let top := pa >>> 48
  if pa < 2 ^ 42 then .hbm pa
  else if top = 1 then .host
  else if top = 2 ∨ top = 3 then .pooled ((pa - 2 ^ 49) / 2 ^ 30)
  else if top = 4 then .mcast (bits pa 36 12) (bits pa 0 36)
  else if 8 ≤ top ∧ top < 16 then
    if bits pa 42 9 = s.pkg then .hbm (bits pa 0 42) else .peer (bits pa 42 9) (bits pa 0 42)
  else .bad

/-- Is the address in a peer's HBM? -/
def isPeer (s : State) (pa : Nat) : Bool :=
  match paKind s pa with
  | .peer _ _ => true
  | _ => false

/-- Is the byte in the reserved area (R434)? -/
def inReserved (pa : Nat) : Bool := decide (0x3FE00000000 ≤ pa ∧ pa < 0x40000000000)

/-- Does the partition own the channel group of a local address (R378)? -/
def ownsPa (p : Part) (pa : Nat) : Bool := bit p.chgrps (pa / 2 ^ 35) && !inReserved pa && decide (pa < 2 ^ 42)

/-- Every byte of an extent lies in the partition's own channel groups (R378). -/
def ownsRange (p : Part) (pa n : Nat) : Bool :=
  decide (n = 0) || (decide (pa + n ≤ 2 ^ 42) &&
    (List.range ((pa + n - 1) / 2 ^ 35 - pa / 2 ^ 35 + 1)).all (fun k => bit p.chgrps (pa / 2 ^ 35 + k)) &&
    !(decide (0x3FE00000000 < pa + n ∧ pa < 0x40000000000)))

/-- The frame an evacuated frame is forwarded to (R390). -/
def forwardPa (p : Part) (pa : Nat) : Nat :=
  match mfind (pa / 65536) p.forward with
  | some d => d * 65536 + pa % 65536
  | none => pa

/-- Local addresses in their home form, after forwarding. -/
def homePa (s : State) (part pa : Nat) : Nat :=
  match paKind s pa with
  | .hbm a => forwardPa (getPart s part) a
  | _ => pa

/-- Is the line of a local address in the host-shared window (R196)? -/
def inHostWin (s : State) (pa : Nat) : Bool :=
  bit s.hostWinBase 0 && !inReserved pa &&
  decide (bits s.hostWinBase 21 31 * 2 ^ 21 ≤ pa ∧ pa < bits s.hostWinBase 21 31 * 2 ^ 21 + bits s.hostWinSize 0 22 * 2 ^ 21)

/-- The line of a physical address. -/
def lineOf (pa : Nat) : Nat := pa / 128

/-- The partition that owns a line of HBM. -/
def partOfLine (s : State) (pa : Nat) : Option Nat := (s.parts.find? (fun e => ownsPa e.2 pa)).map (fun e => e.1)

/-- Where a local address that no partition's tables translate leads after forwarding: the host's, and those of the package's own
tables and rings (R390). -/
def hostAt (s : State) (pa : Nat) : Nat :=
  match partOfLine s pa with
  | some q => homePa s q pa
  | none => pa

/-- Is the line a data error (R200)? -/
def lineBad (s : State) (pa : Nat) : Bool := cget false (pa / 128) s.lineErr || decide (5 ≤ cget 0 (pa / 128) s.tags)

/-- The stack, as UNIT of a RAS entry names it, of a line of HBM (R432, spec/23 R378). -/
def stackUnit (pa : Nat) : Nat := if pa < 2 ^ 42 then pa / 2 ^ 37 * 2 ^ 16 else 0

/-- Reports a line of memory that is a data error (R200, R432). -/
def lineError (part : Option Nat) (pa : Nat) (s : State) : State := softError s 6 part (stackUnit pa) pa

/-- Where a region's entry stands (R362, R390). -/
def regionAt (s : State) (region : Nat) : Nat := hostAt s (bits s.pool.rtab 20 32 * 2 ^ 20 + 8 * region)

/-- A region's entry as the table in memory gives it: ONLINE only while its link is trained (R362, R365); none, which is ABSENT, where
its line is a data error (log 79). -/
def tableEntry (s : State) (region : Nat) : Nat :=
  let e := if lineBad s (regionAt s region) then 0 else memGet s (regionAt s region) 8
  if bits e 2 2 = 1 ∧ !bit s.pool.fstat (bits e 0 2) then e + 4 else e

/-- The entry of a region: the one taken, or the table's. -/
def regionEntry (s : State) (region : Nat) : Nat := (mfind region s.pool.entries).getD (tableEntry s region)

/-- A region's entry is taken from the table. -/
def takeRegion (r : Nat) (s : State) : State :=
  let s1 := if lineBad s (regionAt s r) then lineError none (regionAt s r) s else s
  { s1 with pool := { s1.pool with entries := minsert r (tableEntry s r) s1.pool.entries } }

/-- An entry is taken when it is first needed (R362). -/
def poolNote (s : State) (pa : Nat) : State :=
  match paKind s pa with
  | .pooled r => if bits s.pool.rtab 0 20 ≤ r || (mfind r s.pool.entries).isSome then s else takeRegion r s
  | _ => s

/-- The state of a pool region: an entry out of the table, reserved or ABSENT counts as FAULTED (R362). -/
def regionState (s : State) (region : Nat) : Nat :=
  let nrgn := bits s.pool.rtab 0 20
  if nrgn ≤ region then 2
  else
    let e := regionEntry s region
    if bits e 4 26 != 0 || bits e 52 12 != 0 then 2 else if bits e 2 2 = 1 then 1 else 2

/-- Is package `q` a reachable member of the tier (R346)? -/
def isMember (s : State) (q : Nat) : Bool := bit (cget 0 (q / 64) s.fab.members) (q % 64) && !bit s.fab.unreach q

/-- The mode of a host link (R367): 0 PCIe alone, 1 CXL 2.0, 2 CXL 3.1, 3 CXL 3.2. -/
def linkMode (s : State) (link : Nat) : Nat := cget 3 link s.hostLinks

/-- Does a host address lead to a link with CXL (R367)? Which link serves it is open while only one of the two has CXL (log 69). -/
def hostHasCxl (s : State) (pa : Nat) : Bool :=
  if linkMode s 0 != 0 && linkMode s 1 != 0 then true
  else if linkMode s 0 = 0 && linkMode s 1 = 0 then false
  else linkMode s (Config.hostLink pa % 2) != 0

/-- The compression tag that a line's words fit first (R198, R199). -/
def bestTag (words : List Nat) : Nat :=
  let w0 := words.headD 0
  let ds := words.map (fun (w : Nat) => toSigned 32 (wrap 32 (Int.ofNat w - Int.ofNat w0)))
  if words.all (fun w => w == 0) then 1
  else if words.all (fun w => w == w0) then 2
  else if ds.all (fun d => decide (-128 ≤ d ∧ d ≤ 127)) then 3
  else if ds.all (fun d => decide (-32768 ≤ d ∧ d ≤ 32767)) then 4
  else 0

/-- The words of a line as memory holds them. -/
def lineWords (s : State) (line : Nat) : List Nat := (List.range 32).map (fun i => memGet s (line * 128 + 4 * i) 4)

/-- Chooses the tag of a line after a write (R199, R201). Only HBM lines have tags. -/
def retag (s : State) (line : Nat) (cmp : Bool) : State :=
  if line < 2 ^ 35 then { s with tags := cset 0 line (if cmp then bestTag (lineWords s line) else 0) s.tags } else s

/-- Back-invalidates the halves a core access touches (R195): the host's modified bytes are merged into their half; in a line
that is a data error they are discarded (R200, R265). -/
def claimHalf (s : State) (pa n : Nat) : State :=
  let hs := s.hostHalf.filter (fun e => decide (e.2.pa < pa + n ∧ pa < e.2.pa + 64))
  hs.foldl (fun t e =>
    let u := { t with hostHalf := merase e.1 t.hostHalf }
    match e.2.dirty with
    | none => u
    | some v =>
      if lineBad u e.2.pa then lineError (partOfLine u e.2.pa) (e.2.pa / 128 * 128) u
      else retag (memSet u e.2.pa 64 v) (lineOf e.2.pa) false) s

/-- The directory entry of a line (R188); a new one starts empty (R192). -/
def dirOf (s : State) (line : Nat) : DirEnt := (mfind line s.dir).getD {}

def setDir (s : State) (line : Nat) (d : DirEnt) : State := { s with dir := cset {} line d s.dir }

/-- An uncorrectable error in a copy that its core owns and has written: no clean copy can replace it, so the line is a data error
from then on, and the copy is gone (R214, log 74). -/
def l1Lost (s : State) (line : Nat) : State :=
  match (dirOf s line).owner with
  | none => s
  | some c => match mfind (c * 2 ^ 45 + line) s.l1 with
    | some e => if e.bad && e.dirty then
        softError { s with l1 := merase (c * 2 ^ 45 + line) s.l1, lineErr := minsert line true s.lineErr } 3 (partOfLine s (line * 128)) (coreUnit c) (line * 128)
      else s
    | none => s

/-- Recalls exclusive ownership unless `core` holds it (R189 to R192): the predictor counts down when the owner performed 8
atomics. -/
def recallOwner (s0 : State) (line : Nat) (core : Option Nat) : State :=
  let s := l1Lost s0 line
  let d := dirOf s line
  match d.owner with
  | none => s
  | some o => if core = some o then s
    else setDir s line { d with owner := none, pred := if 8 ≤ d.ownAtoms then d.pred - 1 else d.pred, ownAtoms := 0 }

/-- The slice among a set that homes the line of a physical address (R382). -/
def homeSlice (slices pa : Nat) : Nat :=
  let own := (List.range 256).filter (bit slices)
  let a := bits pa 7 45
  own.getD (mix32 (bits a 0 32 ^^^ mix32 (bits a 32 13)) % own.length) 0

/-- UNIT of a RAS entry that names a slice (R432): 32 of them stand on a die (R2). -/
def sliceUnit (n : Nat) : Nat := n / 32 + n % 32 * 16

/-- The slice that is home to a line, by the partition that owns it (R201). -/
def lineSlice (s : State) (line : Nat) : Nat := homeSlice (((partOfLine s (line * 128)).map (fun q => (getPart s q).slices)).getD 0) (line * 128)

/-- An uncorrectable error in a clean copy in L2 is repaired from the memory behind it, with a soft-error event (R214). -/
def l2Mend (s : State) (line : Nat) : State :=
  match mfind line s.l2Err, partOfLine s (line * 128) with
  | none, _ => s
  | some _, p =>
    rasLog 4 0 p (sliceUnit (lineSlice s line)) (line * 128) { s with l2Err := merase line s.l2Err }

/-- The bytes of memory, none for a data error (R200). -/
def homeRead (s : State) (pa n : Nat) : Option Nat × State :=
  let s1 := l2Mend (claimHalf s pa n) (lineOf pa)
  if lineBad s1 pa then (none, s1) else (some (memGet s1 pa n), s1)

/-- Writes bytes of one line at its home (R200, R201, R265). `whole` says that the instruction covers the whole line. -/
def homeWrite (s : State) (part : Option Nat) (pa : Nat) (bs : List Nat) (cmp whole : Bool) : State :=
  let s1 := claimHalf s pa bs.length
  if lineBad s1 pa && !whole then lineError part (pa / 128 * 128) s1
  else
    let s2 := ((List.range bs.length).zip bs).foldl (fun t e => memPut t (pa + e.1) e.2) s1
    retag { s2 with lineErr := merase (lineOf pa) s2.lineErr } (lineOf pa) cmp

/-- The ports that are up and lead to a package (R346, R348). -/
def upPorts (s : State) (q : Nat) : List Nat := (List.range 64).filter (fun p => bit s.fab.ports p && (mfind (p * 512 + q) s.fab.cut).isNone)

/-- The bytes of a packet: its header flit, a tree flit, and the data flits of what it carries (R348, R359). -/
def wireBytes (p : Packet) : Nat :=
  64 + (if p.kind = 9 then 64 else 0) + (if p.kind = 7 then 64 else if p.kind ∈ [1, 2, 3, 4, 9] then 128 else 0)

/-- The bytes that a port's queue for a class holds. -/
def queueLoad (s : State) (cls port : Nat) : Nat := cget 0 (port * 8 + cls) s.fab.inQueue

/-- What has left the queues of a class since the last packet was queued: how fast a port sends is timing, so any number of bytes
may have gone (log 67). -/
def drainQueues (cls : Nat) (s : State) : State :=
  (s.fab.inQueue.filter (fun e => e.1 % 8 == cls)).foldl (fun t e =>
    { t with fresh := t.fresh + 1, fab := { t.fab with inQueue := cset 0 e.1 (Config.freeChoice t.fresh % (e.2 + 1)) t.fab.inQueue } }) s

/-- The port by which a packet leaves (R351): of the up ports that lead to its package the one whose queue for its class holds the
fewest bytes, the lower on a tie; 64 while there is none, when it waits at the source (log 67). -/
def portFor (s : State) (p : Packet) : Nat :=
  (upPorts s p.dst).foldl (fun m k => if m = 64 ∨ queueLoad s p.cls k < queueLoad s p.cls m then k else m) 64

/-- Queues packets, each at its port. -/
def queuePackets (ps : List Packet) (s : State) : State :=
  ps.foldl (fun t0 p =>
    let t := drainQueues p.cls t0
    let k := portFor t p
    { t with fab := { t.fab with outbox := t.fab.outbox ++ [{ p with port := k }], inQueue := cset 0 (k * 8 + p.cls) (queueLoad t p.cls k + wireBytes p) t.fab.inQueue } }) s

/-- Puts `n` bytes of value `v` at byte `off` of a number. -/
def putBytes (whole off n v : Nat) : Nat :=
  bits whole 0 (8 * off) + 2 ^ (8 * off) * bits v 0 (8 * n) + 2 ^ (8 * (off + n)) * (whole >>> (8 * (off + n)))

/-- Counts in a field of FAB_ERRLOG, saturating (R350). -/
def errCount (field n : Nat) (s : State) : State :=
  { s with fab := { s.fab with errlog := putBytes s.fab.errlog (2 * field) 2 (min 65535 (bits s.fab.errlog (16 * field) 16 + n)) } }

end Sys2Proof.Machine
end

