-- ==== Sys2Proof/Machine/Xlate.lean ====
section
/-! DEFINITION. Translation (spec/11 R203 to R209, spec/21 R345 to R347, spec/23 R378, R390) and the fetch of instruction bytes (spec/03
R73, spec/07 R133). -/

namespace Sys2Proof.Machine

/-- What an access asks of its page (R258, R285). -/
inductive Need where
  | rd | wr | at | ex
deriving DecidableEq, Repr

/-- Does the leaf, or a translation register's PERM, give what the access needs (R204)? -/
def needBit : Need → Nat
  | .rd => 2 | .wr => 3 | .ex => 4 | .at => 5

/-- The levels of the table: number, lowest VA bit, bits (R203). -/
def walkLevels : List (Nat × Nat × Nat) := [(4, 48, 9), (3, 39, 9), (2, 30, 9), (1, 21, 9), (0, 16, 5)]

/-- Is a virtual address valid (R203)? -/
def vaValid (va : Nat) : Bool := bits va 57 7 == (if bit va 56 then 127 else 0)

/-- A read of `n` bytes at a peer by instruction fetch, a page walk, a record or the distributor: its request leaves with the partition's
FDOM and the class of service traffic, and its answer is the peer's, a free value (R346, R347, R349, log 29). A failure gives its FKIND. -/
def peerRead (s : State) (part pa n : Nat) : Except Nat Nat × State :=
  match paKind s pa with
  | .peer q off =>
    if !isMember s q || (upPorts s q).isEmpty then (.error 7, s)
    else
      let p : Packet := { kind := 0, src := s.pkg, dst := q, tag := s.fab.nextTag, fdom := (getPart s part).fdom, offset := off / 128 * 128
                          mask := 2 ^ (off % 128) * (2 ^ n - 1) }
      let t := queuePackets [p] { s with fab := { s.fab with nextTag := (s.fab.nextTag + 1) % 2 ^ 32 } }
      (match Config.peerEnd t.fresh pa % 3 with
       | 0 => .ok (Config.peerBytes t.fresh pa % 2 ^ (8 * n))
       | 1 => .error 1
       | _ => .error 3, { t with fresh := t.fresh + 1 })
  | _ => (.error 1, s)

/-- Does a walk of the partition reach the table entry (R345 to R347, R378)? -/
def tableOk (s : State) (part at_ : Nat) : Bool :=
  match paKind s at_ with
  | .hbm a => ownsPa (getPart s part) a
  | .host => hostHasCxl s at_
  | .pooled r => regionState s r == 1
  | .peer q _ => isMember s q && (getPart s part).fdom != 0
  | _ => false

/-- Reads a table entry through its home, coherently with stores (R205): 0, no entry, where it is out of reach, a peer does not give
it, or its line is a data error, which is reported (R200, log 79). -/
def tableWord (s0 : State) (part at_ : Nat) : Nat × State :=
  let s := poolNote s0 at_
  if !tableOk s part at_ then (0, s)
  else if isPeer s at_ then
    let r := peerRead s part at_ 8
    (match r.1 with | .ok v => v | .error _ => 0, r.2)
  else
    let pa := homePa s part at_
    let r := homeRead (recallOwner s (lineOf pa) none) pa 8
    match r.1 with
    | some v => (v, r.2)
    | none => (0, lineError (some part) pa r.2)

/-- A walk (R203 to R205): the leaf, the page's size as a power of two and where the leaf stands. -/
def walkFrom (part va : Nat) : List (Nat × Nat × Nat) → Nat → State → Option (Nat × Nat × Nat) × State
  | [], _, s => (none, s)
  | (level, lo, nb) :: rest, tbl, s =>
    let at_ := tbl + 8 * bits va lo nb
    let w := tableWord s part at_
    let e := w.1
    if !bit e 0 then (none, w.2)
    else if bit e 1 then
      (if level ≤ 2 ∧ bits e 12 4 = 0 ∧ bits e 52 12 = 0 ∧ bits e 7 2 ≠ 3 ∧ bits e 16 (lo - 16) = 0 then some (e, lo, at_) else none, w.2)
    else if level = 0 then (none, w.2)
    else
      let align := if level = 1 then 8 else 12
      if bits e 2 6 = 0 ∧ bits e 52 12 = 0 ∧ bits e 8 (align - 8) = 0 then walkFrom part va rest (bits e 8 44 * 256) w.2 else (none, w.2)

/-- A walk of the partition's table; none with EN of TRANS_ROOT clear (R203). -/
def walk (s : State) (part va : Nat) : Option (Nat × Nat × Nat) × State :=
  let root := (getPart s part).transRoot
  if vaValid va && bit root 0 then walkFrom part va walkLevels (bits root 12 40 * 4096) s else (none, s)

/-- The TLB's leaf for an address: a cached entry, whose hits it counts (R209), or a walk, which it keeps. With EN of
TRANS_ROOT clear there is none (R203). An access counts once for each piece of it that is translated, those of instruction fetch and of
the engines among them, and whether or not its permission is then found; what a precise trap undoes counts nothing (log 65). -/
def tlbLeaf (s : State) (core part va : Nat) : Option (Nat × Nat) × State :=
  if !bit (getPart s part).transRoot 0 then (none, s)
  else match s.tlb.find? (fun e => e.core == core && e.part == part && e.vpage == va >>> e.log) with
  | some e =>
    (some (e.leaf, e.log), { s with tlb := s.tlb.map (fun t => if t == e then { t with hits := min 255 (t.hits + 1) } else t) })
  | none =>
    let w := walk s part va
    match w.1 with
    | some (leaf, lg, pte) =>
      (some (leaf, lg), { w.2 with tlb := w.2.tlb ++ [{ core := core, part := part, vpage := va >>> lg, log := lg, leaf := leaf, pte := pte, hits := 1 }] })
    | none => (none, w.2)

/-- The page kind of a leaf's ORD field (R219). -/
def kindOf (ord : Nat) : PageKind := if ord = 0 then .rc else if ord = 1 then .so else .un

/-- Why an access fails: its FKIND (spec/25 R413) and the virtual address. -/
abbrev XFault := Nat × Nat

/-- An entry of the multicast group table (R354): NENT, FDOM, LBASE, LSIZE and the tree's entries. -/
structure McEntry where
  nent : Nat
  fdom : Nat
  lbase : Nat
  lsize : Nat
  tree : List Nat
deriving DecidableEq, Repr

/-- Where a group's entry stands (R354, R390). -/
def mcAt (s : State) (group : Nat) : Nat := hostAt s (bits s.fab.mctab 19 33 * 2 ^ 19 + 128 * group)

/-- The table's entry of a group; none with EN clear, or where its line is a data error (log 79). -/
def mcEntry (s : State) (group : Nat) : Option McEntry :=
  if bit s.fab.mctab 0 && !lineBad s (mcAt s group) then
    let b := mcAt s group
    let n := memGet s b 1
    some { nent := n, fdom := memGet s (b + 2) 2, lbase := memGet s (b + 8) 8, lsize := memGet s (b + 16) 8
           tree := (List.range (min n 32)).map (fun k => memGet s (b + 64 + 2 * k) 2) }
  else none

/-- Is a tree well formed (R354)? `fuel` bounds its entries; each child's span stays within the list it stands in. -/
def treeOk (me : Nat) : Nat → List Nat → Bool
  | 0, t => t.isEmpty
  | fuel + 1, t => match t with
    | [] => true
    | e :: rest =>
      let span := bits e 9 6
      decide (1 ≤ span ∧ span ≤ 32 ∧ span ≤ rest.length + 1) && bits e 0 9 != me && !bit e 15 &&
        treeOk me fuel (rest.take (span - 1)) && treeOk me fuel (rest.drop (span - 1))

/-- A read of the table that meets a data error reports it (R200). -/
def mcNote (s : State) (pa : Nat) : State :=
  match paKind s pa with
  | .mcast g _ => if bit s.fab.mctab 0 && lineBad s (mcAt s g) then lineError none (mcAt s g) s else s
  | _ => s

/-- What an access to a physical address has first read of the package's tables. -/
def paNote (s : State) (pa : Nat) : State := mcNote (poolNote s pa) pa

/-- May a partition write the multicast group (R354)? -/
def mcOk (s : State) (part group : Nat) : Bool :=
  match mcEntry s group with
  | some e => decide (1 ≤ e.nent ∧ e.nent ≤ 32) && e.fdom != 0 && decide (e.fdom < 1024) && e.fdom == (getPart s part).fdom && treeOk s.pkg 33 e.tree
  | none => false

/-- The fate of a physical address for an access of the partition: FKIND 1 for what counts as a translation fault, 2 for a
FAULTED pool region (R345 to R347, R354, R364, R378). `mc` admits the multicast aperture. -/
def paFault (s : State) (part pa : Nat) (mc : Bool) : Option Nat :=
  let p := getPart s part
  match paKind s pa with
  | .hbm a => if ownsPa p a then none else some 1
  | .host => if hostHasCxl s pa then none else some 1
  | .pooled r => if regionState s r = 1 then none else some 2
  | .peer q _ => if isMember s q && p.fdom != 0 then none else some 1
  | .mcast g _ => if mc && mcOk s part g then none else some 1
  | .bad => some 1

/-- Translates a piece that lies in one page. -/
def xlatePiece (s : State) (core part : Nat) (service : Bool) (need : Need) (mc : Bool) (va n off : Nat) : Except XFault Piece × State :=
  if !vaValid va then (.error (1, va), s)
  else
    let t := tlbLeaf s core part va
    match t.1 with
    | none => (.error (1, va), t.2)
    | some (leaf, lg) =>
      if !bit leaf (needBit need) || (!service && !bit leaf 6) then (.error (1, va), t.2)
      else
        let pa := bits leaf 16 36 * 65536 + va % 2 ^ lg
        let s1 := paNote t.2 pa
        match paFault s1 part pa (mc && bits leaf 7 2 != 1) with
        | some k => (.error (k, va), s1)
        | none => (.ok { pa := homePa s part pa, n := n, off := off, kind := kindOf (bits leaf 7 2), cmp := bit leaf 9, borrow := bit leaf 10, pool := bit leaf 11 }, s1)

/-- The pieces of `n` bytes at an address: one per 128-byte line (R258), as offset and length. -/
def chunks : Nat → Nat → Nat → Nat → List (Nat × Nat)
  | 0, _, _, _ => []
  | fuel + 1, va, n, off =>
    if n = 0 then []
    else
      let k := min n (128 - va % 128)
      (off, k) :: chunks fuel (va + k) (n - k) (off + k)

/-- Translates the chunks of an access one by one. A chunk that does not translate counts before one in a FAULTED pool region
(R259, steps 4 and 6). -/
def xlateAll (f : State → Nat → Nat → Except XFault Piece × State) : List (Nat × Nat) → State → Except XFault (List Piece) × State
  | [], s => (.ok [], s)
  | (off, k) :: rest, s =>
    let r := f s off k
    match r.1 with
    | .error e =>
      if e.1 = 2 then
        let q := xlateAll f rest r.2
        match q.1 with
        | .error h => (.error (if h.1 = 2 then e else h), q.2)
        | .ok _ => (.error e, q.2)
      else (.error e, r.2)
    | .ok p =>
      let q := xlateAll f rest r.2
      match q.1 with
      | .error e => (.error e, q.2)
      | .ok ps => (.ok (p :: ps), q.2)

/-- Splits a piece at the half of its line (R197, R251); a line at a peer travels whole (R351). -/
def splitHalf (s : State) (p : Piece) : List Piece :=
  let h := 64 - p.pa % 64
  if !isPeer s p.pa && p.pa >>> 48 != 4 && decide (h < p.n) then [{ p with n := h }, { p with pa := p.pa + h, n := p.n - h, off := p.off + h }] else [p]

/-- Translates an access through the TLB (R203 to R205). -/
def xlateVa (s : State) (core part : Nat) (service : Bool) (need : Need) (mc : Bool) (va n : Nat) : Except XFault (List Piece) × State :=
  let r := xlateAll (fun s off k => xlatePiece s core part service need mc ((va + off) % 2 ^ 64) k off) (chunks (n / 128 + 2) va n 0) s
  (match r.1 with | .ok ps => .ok (ps.flatMap (splitHalf r.2)) | .error e => .error e, r.2)

/-- Splits chunks at LIMIT of a translation register (R207). -/
def splitAt (lim o : Int) (c : Nat × Nat) : List (Nat × Nat) :=
  let size : Int := Int.ofNat c.2
  let a : Int := o + (c.1 : Int)
  let cut : Int := if a < 0 then -a else if a < lim then lim - a else size
  if 0 < cut ∧ cut < size then [(c.1, cut.toNat), (c.1 + cut.toNat, c.2 - cut.toNat)] else [c]

/-- Translates an access at offset `o` of a translation register (R207). -/
def xlateX (s : State) (core part : Nat) (service : Bool) (need : Need) (mc : Bool) (xr : XReg) (o : Int) (n : Nat) : Except XFault (List Piece) × State :=
  let b := xr.vbase + xr.vhi * 2 ^ 57
  let va := wrap 64 (Int.ofNat b + o)
  let cs := (chunks (n / 128 + 2) va n 0).flatMap (splitAt (Int.ofNat xr.limit) o)
  let perm := match need with
    | .rd => bit xr.perm 0
    | .wr => bit xr.perm 1
    | .at => bit xr.perm 2
    | .ex => false
  let one := fun (s : State) (off k : Nat) =>
    let oo : Int := o + (off : Int)
    if xr.valid && decide (0 ≤ oo ∧ oo < (xr.limit : Int)) then
      if !perm || !bit (getPart s part).transRoot 0 then ((.error (1, (va + off) % 2 ^ 64) : Except XFault Piece), s)
      else
        let pa := xr.frame + oo.toNat
        let s1 := paNote s pa
        match paFault s1 part pa (mc && xr.ord != 1) with
        | some f => (.error (f, (va + off) % 2 ^ 64), s1)
        | none => (.ok { pa := homePa s part pa, n := k, off := off, kind := kindOf xr.ord, cmp := xr.cmp, borrow := xr.borrow, pool := xr.pool }, s1)
    else xlatePiece s core part service need mc ((va + off) % 2 ^ 64) k off
  let r := xlateAll one cs s
  (match r.1 with | .ok ps => .ok (ps.flatMap (splitHalf r.2)) | .error e => .error e, r.2)

/-- A core's instruction-fetch line: its copy, or the line as memory now holds it, which it keeps until a CINV (R73, R280); the FKIND
where the bytes are a data error at their home or a peer does not give them. -/
def fetchLine (s : State) (core part line : Nat) : Except Nat Nat × State :=
  match mfind (core * 2 ^ 45 + line) s.il with
  | some v => (.ok v, s)
  | none =>
    if isPeer s (line * 128) then
      let r := peerRead s part (line * 128) 128
      match r.1 with
      | .ok v => (.ok v, { r.2 with il := minsert (core * 2 ^ 45 + line) v r.2.il })
      | .error k => (.error k, r.2)
    else
      let r := homeRead (recallOwner s line none) (line * 128) 128
      match r.1 with
      | some v => (.ok v, { r.2 with il := minsert (core * 2 ^ 45 + line) v r.2.il })
      | none => (.error 3, r.2)

/-- The bytes of translated pieces as the core fetches them; or the FKIND and the offset where they fail. A data error is reported
(R73, R200). -/
def fetchPieces (core part : Nat) : List Piece → State → Except (Nat × Nat) (List Nat) × State
  | [], s => (.ok [], s)
  | p :: ps, s =>
    let l := fetchLine s core part (p.pa / 128)
    match l.1 with
    | .error k => (.error (k, p.off), if k = 3 && !isPeer s p.pa then lineError (some part) p.pa l.2 else l.2)
    | .ok v =>
      let r := fetchPieces core part ps l.2
      (match r.1 with
       | .ok bs => .ok ((List.range p.n).map (fun i => bits v (8 * (p.pa % 128 + i)) 8) ++ bs)
       | .error e => .error e, r.2)

/-- Fetches bytes (R73); a failure gives its FKIND and the address. -/
def fetchMem (s : State) (core part : Nat) (service : Bool) (va n : Nat) : Except XFault (List Nat) × State :=
  let r := xlateVa s core part service .ex false va n
  match r.1 with
  | .error e => (.error e, r.2)
  | .ok ps =>
    let f := fetchPieces core part ps r.2
    (match f.1 with
     | .ok bs => .ok bs
     | .error e => .error (e.1, (va + e.2) % 2 ^ 64), f.2)

/-- Where a group fetches: its core and partition. -/
def placeOf (s : State) (g : Group) : Nat × Nat :=
  match mfind g.bid s.blocks with
  | some b => (b.core, ((mfind b.grid s.grids).map (fun r => r.part)).getD 0)
  | none => (0, 0)

/-- The bytes of a loop body as memory holds them, for the loop buffer (R133). -/
def fetchBody (s : State) (g : Group) (va n : Nat) : Except XFault (List Nat) :=
  (fetchMem s (placeOf s g).1 (placeOf s g).2 g.service va n).1

/-- The bytes a fetch, at either level, takes from the loop buffer: those of a captured body (R133). -/
def fromCapture (g : Group) (va : Nat) : Option Nat :=
  match g.lbuf with
  | some b => if !b.stale && decide (b.base ≤ va ∧ va < b.base + b.bytes.length) then b.bytes[va - b.base]? else none
  | none => none

/-- Fetches `n` bytes of an instruction, word by word: from the capture, else from memory (R73, R133). -/
def fetchBytes : Nat → State → Group → Nat → Except XFault (List Nat) × State
  | 0, s, _, _ => (.ok [], s)
  | k + 1, s, g, va =>
    let w := (List.range 4).map (fun i => fromCapture g (va + i))
    let here : Except XFault (List Nat) × State :=
      if w.all (fun o => o.isSome) then (.ok (w.map (fun o => o.getD 0)), s)
      else fetchMem s (placeOf s g).1 (placeOf s g).2 g.service va 4
    match here.1 with
    | .error e => (.error e, here.2)
    | .ok bs =>
      let r := fetchBytes k here.2 g ((va + 4) % 2 ^ 64)
      match r.1 with
      | .error e => (.error e, r.2)
      | .ok cs => (.ok (bs ++ cs), r.2)

end Sys2Proof.Machine
end

