-- ==== Sys2Proof/Machine/Operands.lean ====
section
/-! DEFINITION. Operand forms (spec/03 R44 to R57): what each source reads, which lanes a predicate enables, how results
are written, and the course of one issue around an instruction's own effect (spec/01 R12, spec/25 R410 to R420). -/

namespace Sys2Proof.Machine

/-- An issue: the state before it, its group, block and grid, its fields, its lanes and its address. -/
structure Ctx where
  s : State
  g : Group
  b : Block
  gr : Grid
  r : Raw
  i : OpInfo
  mask : LaneMask
  pc : Nat

def Ctx.sl (x : Ctx) : Slots := x.i.slots x.r
def Ctx.lanes (x : Ctx) : List Nat := lanesOf x.mask
def Ctx.lo (x : Ctx) : Nat := lowLane x.mask
def Ctx.part (x : Ctx) : Nat := x.gr.part
/-- Is the group replaying a window (R420)? -/
def Ctx.inReplay (x : Ctx) : Bool := x.g.replay.isSome && !x.g.service

/-- The value of a special source in a lane (R47); `wide` reads the 64-bit forms (R48). -/
def specialVal (x : Ctx) (code lane : Nat) (wide : Bool) : Nat :=
  match code with
  | 947 => lane
  | 948 => lane % 32
  | 949 => lane / 32
  | 950 => x.g.num
  | 951 => x.b.groups.length
  | 952 => x.b.lin % x.gr.gx
  | 953 => x.b.lin / x.gr.gx % x.gr.gy
  | 954 => x.b.lin / (x.gr.gx * x.gr.gy)
  | 955 => x.b.lin
  | 956 => x.gr.gx - 1
  | 957 => x.gr.gy - 1
  | 958 => x.gr.gz - 1
  | 959 => x.gr.lanes
  | 960 => x.b.core
  | 961 => x.b.core / 96
  | 962 => x.s.pkg
  | 963 => x.gr.part
  | 964 => x.gr.depth
  | 965 => x.g.role
  | 966 => x.g.k
  | 967 => x.g.srctr
  | 968 => x.gr.seed
  | 969 => if wide then x.s.ptp.ns % 2 ^ 64 else x.s.ptp.ns % 2 ^ 32
  | 970 => x.s.ptp.ns / 2 ^ 32 % 2 ^ 32
  | 971 => if wide then x.s.cycle % 2 ^ 64 else x.s.cycle % 2 ^ 32
  | _ => x.s.cycle / 2 ^ 32 % 2 ^ 32

/-- The floating constants (R49). -/
def constF (code : Nat) (f : FFmt) : Nat :=
  match code with
  | 973 => 0
  | 974 => roundTo (.fin false 1 1) f .rne false 0
  | 975 => roundTo (.fin true 1 1) f .rne false 0
  | 976 => roundTo (.fin false 1 2) f .rne false 0
  | 977 => roundTo (.fin false 2 1) f .rne false 0
  | 978 => roundTo (.fin false 1 1) f .rne false 0
  | _ => f.maxMag

/-- A constant code in the type of its operand (R49). -/
def constVal (code : Nat) (t : OTy) : Nat :=
  let small := fun (w : Nat) => if code = 973 then 0 else if code = 974 then 1 else 2 ^ w - 1
  match t with
  | .int k => if k.width = 64 then small 64 else small 32
  | .flt f => constF code f
  | .b32 => small 32
  | .pairI => if code = 974 then 0x00010001 else small 32
  | .pairF f => constF code f * 65537

/-- The contents and the poison of a register code as one lane reads it (R45, R46). -/
def readCode (x : Ctx) (t : OTy) (code lane : Nat) : Nat × Bool :=
  let two := t.regs == 2
  if isV code then
    if two then (getReg x.g code lane + 2 ^ 32 * getReg x.g (code + 1) lane, getPoison x.g code lane || getPoison x.g (code + 1) lane)
    else (getReg x.g code lane, getPoison x.g code lane)
  else if isS code then
    let one := fun (c : Nat) => if c < 925 then getReg x.g c 0 else bits x.mask.toNat (32 * (c - 925)) 32
    if two then (one code + 2 ^ 32 * one (code + 1), getPoison x.g code 0 || getPoison x.g (code + 1) 0)
    else (one code, getPoison x.g code 0)
  else if isLc code then (getReg x.g code 0, false)
  else if code = 1023 then
    let l := x.r.lit.getD 0
    (if two then l else l % 2 ^ 32, false)
  else if 973 ≤ code then (constVal code t, false)
  else (specialVal x code lane two, false)

/-- A source in lane `l`, through its route; under UNI vector sources are read in the lowest lane of ISSUE (R55, R56, R66). BCAST
reads s156 too, whose poison is then the lane's (R15, R46). -/
def readSrc (x : Ctx) (t : OTy) (code route l : Nat) : Nat × Bool :=
  let l0 := if x.r.uni then x.lo else l
  if isV code || isPerLane code then
    match routeLane route l0 (getReg x.g 924 0) with
    | some m =>
      let v := readCode x t code m
      (v.1, v.2 || (route == 15 && getPoison x.g 924 0))
    | none => (0, route == 15 && getPoison x.g 924 0)
  else readCode x t code l0

/-- The type a slot gives its source. -/
def slotTy : Slot → OTy
  | .val t _ => t
  | .up | .upv _ => tyU64
  | .base _ _ _ _ => tyU64
  | .off => tyS32
  | _ => tyU32

/-- Reads the source that stands in a slot; a field the opcode does not use reads nothing. -/
def readSlot (x : Ctx) (sl : Slot) (code route l : Nat) : Nat × Bool :=
  if unusedSlot sl then (0, false) else readSrc x (slotTy sl) code route l

def srcA (x : Ctx) (l : Nat) : Nat × Bool := readSlot x x.sl.a x.r.a x.r.ra l
def srcB (x : Ctx) (l : Nat) : Nat × Bool := readSlot x x.sl.b x.r.b x.r.rb l
def srcC (x : Ctx) (l : Nat) : Nat × Bool := readSlot x x.sl.c x.r.c x.r.rc l

/-- A lane's predicate and its poison (R57). -/
def predOf (x : Ctx) (l : Nat) : Bool × Bool :=
  if x.r.pen then
    let l0 := if x.r.uni then x.lo else l
    let v := readCode x (if (predTy x.r).regs = 2 then tyU32 else predTy x.r) x.r.pred l0
    ((v.1 % 2 == 1) != x.r.pneg, v.2)
  else (true, false)

/-- The lanes of ISSUE that the predicate enables (R13). -/
def enLanes (x : Ctx) : List Nat := x.lanes.filter (fun l => (predOf x l).1 && !(predOf x l).2)

/-- The lanes of ISSUE whose predicate is poisoned (R57). -/
def ppLanes (x : Ctx) : List Nat := x.lanes.filter (fun l => (predOf x l).2)

/-- What the instruction's own effect makes of the issue. -/
structure Out where
  next : Option (List (Nat × Nat)) := none
  branch : Bool := false
  ctl : Bool := false
  poisoned : Bool := false
  sr : Bool := false
  own : Option (Nat × Nat × Bool) := none
  also : LaneMask := 0
  stay : LaneMask := 0
deriving DecidableEq, Repr

/-- How an issue ends: a trap (in `s` where the instruction reported an error first), nothing at all (the group does not issue), parked at a
group-wide instruction, or done. -/
inductive Res where
  | trap (t : TrapInfo)
  | trapIn (s : State) (t : TrapInfo)
  | hold
  | park
  | ok (s : State) (o : Out)

/-- A trap for the lanes of ISSUE. -/
def trapAll (x : Ctx) (c : Cause) : Res := .trap { cause := c, lanes := x.mask }

/-- A trap for some lanes. -/
def trapLanes (c : Cause) (ls : List Nat) : Res := .trap { cause := c, lanes := maskOf ls }

/-- In replay: did the first attempt poison what the instruction writes to the register in lane `l`, or at all where the register is a
uniform one (R420)? -/
def Ctx.wasBad (x : Ctx) (code l : Nat) : Bool := if isV code then firstBad x.g l else x.lanes.any (firstBad x.g)

/-- Writes a result to a destination of `n` registers (R13, R45). In replay only a lane whose result the first attempt poisoned
writes (R420). Loop counters hold no poison. -/
def writeDst (x : Ctx) (g : Group) (code n lane val : Nat) (p : Bool) : Group :=
  if x.inReplay && !isLc code && !x.wasBad code lane then g
  else (List.range n).foldl (fun g k =>
    let g1 := putReg g (code + k) lane (bits val (32 * k) 32)
    if isLc code then g1 else putPoison g1 (code + k) lane p) g

/-- The value of a result of type `t` in its registers: sign-extended for S16 and S8, zero-extended otherwise (R45). -/
def widenResult (t : OTy) (v : Int) : Nat :=
  match t with
  | .int k => if k.width = 64 then wrap 64 v else if k.signed then wrap 32 (ival k (wrap k.width v)) else wrap k.width v
  | .flt f => wrap f.width v
  | _ => wrap 32 v

/-- What the adjusted frequency adds in `dt` nanoseconds (R376): at a rate of at most 200 parts per million, free from moment to
moment while an offset is being removed, and the last one when Sync messages are missed. The time never moves backward. -/
def slewBy (dt : Nat) (v : Servo) : Int × Servo :=
  if v.slew = 0 ∧ v.held = false then (0, v)
  else
    let r := if v.held then v.rate else v.slew.sign * ((Config.freeSlew v.draws % 201 : Nat) : Int)
    let acc := v.room + r * dt
    let d := acc.tdiv 1000000
    if v.held then (d, { v with room := acc.tmod 1000000 })
    else
      let e := if 0 < v.slew then min d v.slew else max d v.slew
      (e, { v with slew := v.slew - e, rate := if v.slew - e = 0 then 0 else r, room := acc.tmod 1000000, draws := v.draws + 1 })

/-- Cycles pass: the clock's nanoseconds follow the arithmetic clock, as its frequency is adjusted (log 6). -/
def tick (n : Nat) (s : State) : State :=
  let mhz := max 1 (bits s.boot.pwrStat 32 12)
  let t := s.ptp.frac + n * 1000
  let v := slewBy (t / mhz) s.ptp.servo
  { s with cycle := s.cycle + n
           ptp := { s.ptp with ns := ((s.ptp.ns + t / mhz : Nat) + v.1).toNat, frac := t % mhz, servo := v.2 } }

/-- Cycles pass in which a group issued: they are cycles of its slot (R26). -/
def slotTick (g : Group) (n : Nat) (s : State) : State :=
  let k := coreOf s g * 4 + g.slot
  tick n { s with slotClk := cset 0 k (cget 0 k s.slotClk + n) s.slotClk }

/-- A cycle passes in which nothing issues. -/
def idleTick (s : State) : State := tick 1 { s with idle := s.idle + 1 }

/-- The address after the instruction (R58). -/
def Ctx.fall (x : Ctx) : Nat := (x.pc + x.r.len) % 2 ^ 64

/-- The registers the instruction names, as marks (R415). -/
def Ctx.named (x : Ctx) : BitVec 925 := markBits (regUses x.r x.sl)

/-- Moves lane `l` on to `n`: a member that comes to its innermost entry's END from inside the body is parked there (R131),
and a branch out of a body ends membership (R132). -/
def arrive (pc : Nat) (branch : Bool) (g : Group) (ln : Nat × Nat) : Group :=
  let l := ln.1
  let n := ln.2
  let loops := if branch then leaveByBranch g.loops l pc n else g.loops
  let g1 := { g with upc := cset 0 l n g.upc, loops := loops }
  match innermost loops l with
  | some e => if decide (e.start ≤ pc ∧ pc < e.stop) && n == e.stop then { g1 with parkLoop := g1.parkLoop ||| maskOf [l] } else g1
  | none => g1

/-- Recaptures the outermost body when a stale capture's loop begins again (R134). What happens where the body cannot then be
fetched the spec does not say: nothing is raised here, and fetches go on to memory, where each meets its own fault (log 55). -/
def recapture (s : State) (gid : Nat) : State :=
  match mfind gid s.groups with
  | none => s
  | some g =>
    match g.lbuf, g.loops.head? with
    | some b, some e =>
      if b.stale then
        match fetchBody s g e.start (e.stop - e.start) with
        | .ok bs => setGroup { g with lbuf := some { base := e.start, bytes := bs, stale := false } } s
        | .error _ => s
      else s
    | _, _ => s

/-- The lanes that compute a result: the enabled ones and those whose predicate is poisoned (R57); under UNI the lowest
(R66). -/
def workLanes (x : Ctx) : List Nat :=
  let ls := x.lanes.filter (fun l => (predOf x l).1 || (predOf x l).2)
  if x.r.uni then (if ls.isEmpty then [] else [x.lo]) else ls

/-- Computes a result of `n` registers in each lane and writes it; a poisoned predicate poisons it (R57, R114). -/
def laneOp (x : Ctx) (n : Nat) (sr : Bool) (f : Nat → Nat × Bool) : Res :=
  let out := (workLanes x).map (fun l => (l, (f l).1, (f l).2 || (predOf x l).2))
  let g := out.foldl (fun g e => writeDst x g x.r.d n e.1 e.2.1 e.2.2) x.g
  .ok (setGroup g x.s) { poisoned := out.any (fun e => e.2.2), sr := sr }

/-- Where lane `l` goes on after the outcome `o`. -/
def nextOf (x : Ctx) (o : Out) (l : Nat) : Nat :=
  match o.next with
  | some m => (mfind l m).getD x.fall
  | none => x.fall

/-- The lanes that go on. -/
def movedOf (x : Ctx) (o : Out) : List Nat := lanesOf ((x.mask &&& ~~~o.stay) ||| o.also)

/-- The stochastic rounding counter after the outcome `o` (R95). -/
def srctrAfter (o : Out) (g : Group) : Nat := if o.sr then (g.srctr + 1) % 2 ^ 32 else g.srctr

/-- The group at service level after its effect: each lane that goes on takes its next service program counter (R410). -/
def settleService (x : Ctx) (o : Out) (cyc : Nat) (g0 : Group) : Group :=
  let g2 := (movedOf x o).foldl (fun g l => { g with spc := cset 0 l (nextOf x o l) g.spc }) { g0 with seq := g0.seq + 1, lastIssue := cyc }
  { g2 with srctr := srctrAfter o g2 }

/-- The group at user level after its lanes have gone on and its loops have closed where they end, and whether a body begins
again (R131 to R134). -/
def settleLoops (x : Ctx) (o : Out) (cyc : Nat) (g0 : Group) : Group × Bool :=
  let g2 := (movedOf x o).foldl (fun g l => arrive x.pc (o.branch && ((o.next.bind (mfind l)).isSome)) g (l, nextOf x o l))
    { g0 with seq := g0.seq + 1, lastIssue := cyc, parkWide := g0.parkWide &&& ~~~o.also, noBp := false }
  let c := closeLoops 8 { g2 with loops := popEmpty g2.loops, srctr := srctrAfter o g2 } false
  (dropCapture x.g.loops c.1, c.2)

/-- The lanes of the issue in which a register that it writes now holds poison (R420); what is pending holds none yet. -/
def badLanes (x : Ctx) (g : Group) : LaneMask :=
  let bad := fun (c l : Nat) => getPoison g c l && !getPend g c l
  let ds := (regUses x.r x.sl).filter (fun u => u.dst)
  maskOf ((x.lanes.filter (fun l => (predOf x l).1 || (predOf x l).2)).filter (fun l =>
    ds.any (fun u => (List.range u.n).any (fun k => bad (u.code + k) (if isV u.code then l else 0)))))

/-- The window and its history after the issue (R415, R420). -/
def settleWindow (x : Ctx) (s : State) (o : Out) (g4 : Group) : Group :=
  let mk := o.poisoned || o.ctl
  let g5 :=
    if x.inReplay then stepReplay g4 x.mask
    else
      let h : Hist := { seq := x.g.seq, lanes := x.mask, named := x.named, marked := mk, bad := badLanes x g4 }
      let w := g4.win
      let w1 := if w.opened then
          { w with gcnt := w.gcnt + 1, cnt := x.lanes.foldl (fun m l => cset 0 l (cget 0 l m + 1) m) w.cnt
                   marked := if mk then w.marked ||| x.named else w.marked }
        else w
      { g4 with hist := trimHist s g4 ++ [h], win := w1 }
  match o.own with
  | some (fk, ad, nr) =>
    if x.inReplay then { g5 with win := { g5.win with noRepl := g5.win.noRepl || nr }.noteFault fk ad }
    else windowPoison g5 (snapOf x.g x.pc) x.named fk ad nr
  | none => g5

/-- What follows an instruction that was performed: program counters, loops, the window's counts or the replay's, and the
cycles of its beats. -/
def finishIssue (x : Ctx) (s : State) (o : Out) : State :=
  match mfind x.g.gid s.groups with
  | none => slotTick x.g (beatsOf x.mask) s
  | some g0 =>
    if x.g.service then slotTick x.g (beatsOf x.mask) (setGroup (settleService x o (slotTime s x.g) g0) s)
    else
      let c := settleLoops x o (slotTime s x.g) g0
      let s1 := setGroup (settleWindow x s o c.1) s
      slotTick x.g (beatsOf x.mask) (if c.2 then recapture s1 x.g.gid else s1)

/-- The compare entries of the core that match the issue's address (R426); the lowest decides. -/
def addrBreak (x : Ctx) : Option Nat :=
  if x.g.service || x.g.noBp then none
  else
    let c := getCore x.s x.b.core
    (List.range 8).find? (fun n =>
      let e := cget 0 n c.dbgCmp
      let ml := bits e 60 4
      bit e 57 && bits e 58 2 == 0 && (bits e 0 57 >>> ml) == ((x.pc % 2 ^ 57) >>> ml))

/-- The registers an issue would write, as marks. -/
def dstMarks (x : Ctx) : BitVec 925 := markBits ((regUses x.r x.sl).filter (fun u => u.dst))

/-- The closing conditions 1 to 3 of R418. -/
def closing (x : Ctx) : Option Nat :=
  if x.g.service || x.inReplay || !x.g.win.opened then none
  else if (dstMarks x &&& x.g.win.marked).toNat != 0 && !(workLanes x).isEmpty then some 1
  else if 64 ≤ x.g.win.gcnt then some 2
  else if x.r.op == 0x67 then some 3
  else none

/-- Instructions that are a double trap at service level (R411): LOOP, BAR, SPAWN, JOIN, RALLOC, RFREE, SVC. -/
def serviceDouble (op : Nat) : Bool :=
  op == 0x65 || op == 0x6C || op == 0x73 || op == 0x74 || op == 0x75 || op == 0x76 || op == 0xE4

/-- Holds an issue back, changing nothing. -/
def trapNow (x : Ctx) (t : TrapInfo) : State := slotTick x.g (beatsOf x.mask) (takeTrap x.s x.g x.pc t)

/-- Does a trap of the instruction's own effect stand before the closing conditions, which are POISON traps: those of R71, the
data-compare trap (R412), on memory and on pad objects the pad-extent trap (R259, log 59), and a consumer of poison itself? The
operand-form trap of a misaligned atomic comes after POISON (R259). -/
def beforeClose (op : Nat) (c : Cause) : Bool :=
  let mem := decide (0x80 ≤ op ∧ op < 0x90)
  match c with
  | .poison | .dataCompare => true
  | .padExtent => mem || decide (0x6D ≤ op ∧ op ≤ 0x72)
  | c => decide (causeCode c < 7) && !mem

/-- Orders the trap of an instruction's own effect against the closing conditions 1 to 3 (R412, R418). -/
def settleRes (x : Ctx) (res : Res) : Res :=
  match closing x with
  | none => res
  | some k =>
    let late : Res := .trap { cause := .poison, lanes := x.mask, close := k }
    match res with
    | .trap t | .trapIn _ t => if beforeClose x.r.op t.cause then res else late
    | .hold => res
    | _ => late

/-- Would a counter pass 255 (R138)? -/
def overCount (s : State) (gid : Nat) : Bool :=
  match mfind gid s.groups with
  | some g => g.cnts.any (fun e => decide (255 < e.2))
  | none => false

/-- The descriptor conditions of R166 on QBLK and DQBLK, judged from the descriptor's bits: a condition of the operand form, which
R71 puts before the register bound. -/
def descBad (x : Ctx) : Bool :=
  (x.r.op == 0x41 || x.r.op == 0x42) &&
  (let d := (srcB x x.lo).1
   bits d 0 4 == 8 || bits d 6 26 != 0 || (x.r.op == 0x41 && bits d 4 2 == 3))

/-- The first trap of R71 that stands before the instruction's own effect. -/
def wordTrap (x : Ctx) : Option Cause :=
  match staticTrap x.r x.g.role x.g.service x.g.k x.b.ntiles with
  | none => if descBad x then some .operandForm else none
  | some c => if c = .registerBound ∧ descBad x = true then some .operandForm else some c

/-- One issue of an instruction: the checks of R412 and R71 in their order, the instruction's own effect, and what follows.
The lanes parked at a group-wide instruction wait there (R31). -/
def runWord (r : Raw) (body : Ctx → Res) (s : State) : Host.Outcome State Fault Refusal :=
  match mfind s.isu.gid s.groups with
  | none => .fault .noIssuer
  | some g =>
    match mfind g.bid s.blocks with
    | none => .fault .noIssuer
    | some b =>
      match mfind b.grid s.grids with
      | none => .fault .noIssuer
      | some gr =>
        let i := (opInfo r.op).getD (ctl false {})
        let x : Ctx := { s := s, g := g, b := b, gr := gr, r := r, i := i, mask := s.isu.mask, pc := s.isu.pc }
        match addrBreak x with
        | some n => .next (trapNow x { cause := .addrBreak, lanes := x.mask, code := n })
        | none =>
          match wordTrap x with
          | some c => .next (trapNow x { cause := c, lanes := x.mask })
          | none =>
            if g.service && serviceDouble r.op then .next (trapNow x { cause := .svc, lanes := x.mask })
            else
              match settleRes x (body x) with
              | .trap t => .next (trapNow x t)
              | .trapIn s1 t => .next (trapNow { x with s := s1 } t)
              | .hold => .next s
              | .park =>
                let g1 := { g with parkWide := g.parkWide ||| x.mask }
                .next (finishIssue x (setGroup g1 s) { stay := x.mask })
              | .ok s1 o =>
                if overCount s1 x.g.gid then .next s else .next (finishIssue x s1 o)

end Sys2Proof.Machine
end

