-- ==== Sys2Proof/Machine/Int.lean ====
section
/-! DEFINITION. The integer and logic class (spec/07 R113 to R126). Each lane's destination is poisoned when a source it reads
is (R114). -/

namespace Sys2Proof.Machine

/-- The type of the class's operands. -/
def Ctx.ty (x : Ctx) : OTy := iTy x.r

/-- A value as the exact integer of its type; PAIR is read element by element (R87). -/
def intOf (t : OTy) (v : Nat) : Int :=
  match t with
  | .int k => ival k v
  | _ => ((v % 2 ^ 32 : Nat) : Int)

/-- An exact result as its registers hold it (R86, R45). -/
def intOut (t : OTy) (sat : Bool) (v : Int) : Nat :=
  match t with
  | .int k => widenResult t (intResult k sat v)
  | _ => wrap 32 v

/-- The width of a type. -/
def OTy.width : OTy → Nat
  | .int k => k.width
  | .flt f => f.width
  | _ => 32

/-- An exact function of the sources (R117), each element of a PAIR on its own (R87, R115). -/
def exactOut (t : OTy) (sat : Bool) (f : Int → Int → Int → Int) (a b c : Nat) : Nat :=
  match t with
  | .pairI =>
    let k : IType := ⟨16, true⟩
    let el := fun (e : Nat) => wrap 16 (intResult k sat (f (ival k (bits a (16 * e) 16)) (ival k (bits b (16 * e) 16)) (ival k (bits c (16 * e) 16))))
    el 0 + 2 ^ 16 * el 1
  | _ => intOut t sat (f (intOf t a) (intOf t b) (intOf t c))

/-- Any source that the lane reads is poisoned. -/
def anyPoisoned (x : Ctx) (l : Nat) : Bool := (srcA x l).2 || (srcB x l).2 || (srcC x l).2

/-- An instruction of the class: a result of `n` registers from the three sources' contents. -/
def intLane (n : Nat) (f : Ctx → Nat → Nat → Nat → Nat) (x : Ctx) : Res :=
  laneOp x n false (fun l => (f x (srcA x l).1 (srcB x l).1 (srcC x l).1, anyPoisoned x l))

/-- An instruction with one exact result (R117). -/
def exactOp (f : Int → Int → Int → Int) (x : Ctx) : Res :=
  intLane x.ty.regs (fun x a b c => exactOut x.ty x.r.sat f a b c) x

def bodyIadd (x : Ctx) : Res := exactOp (fun a b _ => a + b) x
def bodyIsub (x : Ctx) : Res := exactOp (fun a b _ => a - b) x
def bodyImul (x : Ctx) : Res := exactOp (fun a b _ => a * b) x
def bodyImad (x : Ctx) : Res := exactOp (fun a b c => a * b + c) x
def bodyIneg (x : Ctx) : Res := exactOp (fun _ b _ => -b) x
def bodyIabs (x : Ctx) : Res := exactOp (fun _ b _ => if b < 0 then -b else b) x
def bodyImin (x : Ctx) : Res := exactOp (fun a b _ => if a < b then a else b) x
def bodyImax (x : Ctx) : Res := exactOp (fun a b _ => if a < b then b else a) x

/-- IMULH (R118): the high half of the exact product. -/
def bodyImulh (x : Ctx) : Res :=
  intLane x.ty.regs (fun x a b _ => wrap x.ty.width ((intOf x.ty a * intOf x.ty b) / (2 ^ x.ty.width : Nat))) x

/-- IMADW (R118): 32-bit factors, a 64-bit addend and result. -/
def bodyImadw (x : Ctx) : Res :=
  intLane 2 (fun x a b c => wrap 64 (intOf x.ty a * intOf x.ty b + (c : Int))) x

/-- IADDC (R119). -/
def bodyIaddc (x : Ctx) : Res := intLane 2 (fun x a b c => carryPair x.r.fn (a % 2 ^ 32) (b % 2 ^ 32) c) x

/-- A bitwise function on w bits (R120). -/
def logicOp (f : Nat → Nat → Nat) (x : Ctx) : Res := intLane x.ty.regs (fun x a b _ => f a b % 2 ^ x.ty.width) x

/-- NOT of w bits. -/
def notBits (w v : Nat) : Nat := 2 ^ w - 1 - v % 2 ^ w

def bodyAnd (x : Ctx) : Res := logicOp (fun a b => a &&& b) x
def bodyOr (x : Ctx) : Res := logicOp (fun a b => a ||| b) x
def bodyXor (x : Ctx) : Res := logicOp (fun a b => a ^^^ b) x
def bodyAndn (x : Ctx) : Res := logicOp (fun a b => a &&& notBits 64 b) x
def bodyNot (x : Ctx) : Res := intLane x.ty.regs (fun x _ b _ => notBits x.ty.width b) x

/-- The shifts (R120) of w bits by a count k. -/
def shlBits (w a k : Nat) : Nat := if w ≤ k then 0 else (a <<< k) % 2 ^ w
def shrBits (w a k : Nat) : Nat := if w ≤ k then 0 else (a % 2 ^ w) >>> k
def sarBits (w a k : Nat) : Nat := wrap w (toSigned w a / (2 ^ (min k w) : Nat))
def rotlBits (w a k : Nat) : Nat := ((a % 2 ^ w) <<< (k % w) ||| (a % 2 ^ w) >>> (w - k % w)) % 2 ^ w

/-- A shift: source B is a 32-bit count whatever the type. -/
def shiftOp (f : Nat → Nat → Nat → Nat) (x : Ctx) : Res := intLane x.ty.regs (fun x a b _ => f x.ty.width a (b % 2 ^ 32)) x

def bodyShl (x : Ctx) : Res := shiftOp shlBits x
def bodyShr (x : Ctx) : Res := shiftOp shrBits x
def bodySar (x : Ctx) : Res := shiftOp sarBits x
def bodyRotl (x : Ctx) : Res := shiftOp rotlBits x

/-- The length that a field descriptor gives at width w (R121). -/
def fieldLen (w b : Nat) : Nat :=
  let pos := bits b 0 8
  let len := bits b 8 8
  if len = 0 ∨ w ≤ pos then 0 else min len (w - pos)

/-- BFX (R121). -/
def bfxBits (w fn a b : Nat) : Nat :=
  let n := fieldLen w b
  let f := bits a (bits b 0 8) n
  if fn = 1 ∧ 0 < n ∧ bit f (n - 1) then wrap w ((f : Int) - (2 ^ n : Nat)) else f

/-- BFI (R121). -/
def bfiBits (w a b c : Nat) : Nat :=
  let n := fieldLen w b
  let pos := bits b 0 8
  if n = 0 then c % 2 ^ w else bits c 0 pos + 2 ^ pos * bits a 0 n + 2 ^ (pos + n) * bits c (pos + n) (w - pos - n)

def bodyBfx (x : Ctx) : Res := intLane x.ty.regs (fun x a b _ => bfxBits x.ty.width x.r.fn a b) x
def bodyBfi (x : Ctx) : Res := intLane x.ty.regs (fun x a b c => bfiBits x.ty.width a b c) x

/-- Leading zeros of w bits. -/
def clzBits (w v : Nat) : Nat := if v % 2 ^ w = 0 then w else w - 1 - (v % 2 ^ w).log2

/-- Trailing zeros of w bits. -/
def ctzBits (w v : Nat) : Nat := ((List.range w).find? (fun i => bit v i)).getD w

/-- The order of w bits reversed. -/
def brevBits (w v : Nat) : Nat := (List.range w).foldl (fun a i => a + (if bit v i then 2 ^ (w - 1 - i) else 0)) 0

def bodyPopc (x : Ctx) : Res := intLane 1 (fun x _ b _ => popCount x.ty.width b) x
def bodyClz (x : Ctx) : Res := intLane 1 (fun x _ b _ => clzBits x.ty.width b) x
def bodyCtz (x : Ctx) : Res := intLane 1 (fun x _ b _ => ctzBits x.ty.width b) x
def bodyBrev (x : Ctx) : Res := intLane x.ty.regs (fun x _ b _ => brevBits x.ty.width b) x

/-- ICMP (R124). -/
def bodyIcmp (x : Ctx) : Res := intLane 1 (fun x a b _ => condWord (intCond x.r.fn (intOf x.ty a) (intOf x.ty b))) x

/-- A value moved unchanged at the type's width (R125, R45). -/
def moveBits (t : OTy) (v : Nat) : Nat := widenResult t (v : Int)

/-- SEL (R125): the poison of the selector and of the selected source alone counts. -/
def bodySel (x : Ctx) : Res :=
  laneOp x x.ty.regs false (fun l =>
    let c := srcC x l
    let p := if c.1 % 2 = 1 then srcA x l else srcB x l
    (moveBits x.ty p.1, c.2 || p.2))

/-- LEA (R126). -/
def bodyLea (x : Ctx) : Res :=
  intLane 2 (fun x a b _ => wrap 64 ((a : Int) + intOf x.ty b * (2 ^ x.r.fn : Nat))) x

/-- MOV (R125); a loop counter takes it as R52 and R125 say. -/
def bodyMov (x : Ctx) : Res :=
  if isLc x.r.d then
    let pp := ppLanes x
    if !pp.isEmpty then trapLanes .poison pp
    else match (if x.r.uni then (if (enLanes x).isEmpty then none else some x.lo) else (enLanes x).head?) with
      | none => .ok x.s {}
      | some l =>
        let v := srcB x l
        if v.2 then trapLanes .poison (if x.r.uni then x.lanes else [l])
        else .ok (setGroup (putReg x.g x.r.d 0 (v.1 % 2 ^ 32)) x.s) {}
  else intLane x.ty.regs (fun x _ b _ => moveBits x.ty b) x

/-- One byte of BYSEL (R123). -/
def byselByte (a b sel : Nat) : Nat :=
  let k := sel % 8
  let y0 := if bit sel 3 then 0 else if k < 4 then bits a (8 * k) 8 else bits b (8 * (k - 4)) 8
  let y1 := if bit sel 5 then brevBits 8 y0 else y0
  if bit sel 4 then 255 - y1 else y1

def bodyBysel (x : Ctx) : Res :=
  intLane 1 (fun _ a b c => ofBytes ((List.range 4).map (fun i => byselByte a b (bits c (8 * i) 8)))) x

/-- IADD compact (R117). -/
def execIadd (u : BitVec 1) (b a d : BitVec 7) (s : State) : Host.Outcome State Fault Refusal :=
  runWord (rawCompact 0x00 u.toNat b.toNat a.toNat d.toNat none) bodyIadd s

/-- IADD (R117). -/
def execIaddExt (f : Form) (s : State) : Host.Outcome State Fault Refusal := runWord (rawOf 0x00 f) bodyIadd s

/-- ISUB compact (R117). -/
def execIsub (u : BitVec 1) (b a d : BitVec 7) (s : State) : Host.Outcome State Fault Refusal :=
  runWord (rawCompact 0x01 u.toNat b.toNat a.toNat d.toNat none) bodyIsub s

/-- ISUB (R117). -/
def execIsubExt (f : Form) (s : State) : Host.Outcome State Fault Refusal := runWord (rawOf 0x01 f) bodyIsub s

/-- IMUL compact (R117). -/
def execImul (u : BitVec 1) (b a d : BitVec 7) (s : State) : Host.Outcome State Fault Refusal :=
  runWord (rawCompact 0x02 u.toNat b.toNat a.toNat d.toNat none) bodyImul s

/-- IMUL (R117). -/
def execImulExt (f : Form) (s : State) : Host.Outcome State Fault Refusal := runWord (rawOf 0x02 f) bodyImul s

/-- IMULH compact (R118). -/
def execImulh (u : BitVec 1) (b a d : BitVec 7) (s : State) : Host.Outcome State Fault Refusal :=
  runWord (rawCompact 0x03 u.toNat b.toNat a.toNat d.toNat none) bodyImulh s

/-- IMULH (R118). -/
def execImulhExt (f : Form) (s : State) : Host.Outcome State Fault Refusal := runWord (rawOf 0x03 f) bodyImulh s

/-- IMAD (R117). -/
def execImad (f : Form) (s : State) : Host.Outcome State Fault Refusal := runWord (rawOf 0x04 f) bodyImad s

/-- IMADW (R118). -/
def execImadw (f : Form) (s : State) : Host.Outcome State Fault Refusal := runWord (rawOf 0x05 f) bodyImadw s

/-- IADDC (R119). -/
def execIaddc (f : Form) (s : State) : Host.Outcome State Fault Refusal := runWord (rawOf 0x06 f) bodyIaddc s

/-- INEG compact (R117). -/
def execIneg (u : BitVec 1) (b a d : BitVec 7) (s : State) : Host.Outcome State Fault Refusal :=
  runWord (rawCompact 0x07 u.toNat b.toNat a.toNat d.toNat none) bodyIneg s

/-- INEG (R117). -/
def execInegExt (f : Form) (s : State) : Host.Outcome State Fault Refusal := runWord (rawOf 0x07 f) bodyIneg s

/-- IABS compact (R117). -/
def execIabs (u : BitVec 1) (b a d : BitVec 7) (s : State) : Host.Outcome State Fault Refusal :=
  runWord (rawCompact 0x08 u.toNat b.toNat a.toNat d.toNat none) bodyIabs s

/-- IABS (R117). -/
def execIabsExt (f : Form) (s : State) : Host.Outcome State Fault Refusal := runWord (rawOf 0x08 f) bodyIabs s

/-- IMIN compact (R117). -/
def execImin (u : BitVec 1) (b a d : BitVec 7) (s : State) : Host.Outcome State Fault Refusal :=
  runWord (rawCompact 0x09 u.toNat b.toNat a.toNat d.toNat none) bodyImin s

/-- IMIN (R117). -/
def execIminExt (f : Form) (s : State) : Host.Outcome State Fault Refusal := runWord (rawOf 0x09 f) bodyImin s

/-- IMAX compact (R117). -/
def execImax (u : BitVec 1) (b a d : BitVec 7) (s : State) : Host.Outcome State Fault Refusal :=
  runWord (rawCompact 0x0a u.toNat b.toNat a.toNat d.toNat none) bodyImax s

/-- IMAX (R117). -/
def execImaxExt (f : Form) (s : State) : Host.Outcome State Fault Refusal := runWord (rawOf 0x0a f) bodyImax s

/-- AND compact (R120). -/
def execIand (u : BitVec 1) (b a d : BitVec 7) (s : State) : Host.Outcome State Fault Refusal :=
  runWord (rawCompact 0x0b u.toNat b.toNat a.toNat d.toNat none) bodyAnd s

/-- AND (R120). -/
def execIandExt (f : Form) (s : State) : Host.Outcome State Fault Refusal := runWord (rawOf 0x0b f) bodyAnd s

/-- OR compact (R120). -/
def execIor (u : BitVec 1) (b a d : BitVec 7) (s : State) : Host.Outcome State Fault Refusal :=
  runWord (rawCompact 0x0c u.toNat b.toNat a.toNat d.toNat none) bodyOr s

/-- OR (R120). -/
def execIorExt (f : Form) (s : State) : Host.Outcome State Fault Refusal := runWord (rawOf 0x0c f) bodyOr s

/-- XOR compact (R120). -/
def execIxor (u : BitVec 1) (b a d : BitVec 7) (s : State) : Host.Outcome State Fault Refusal :=
  runWord (rawCompact 0x0d u.toNat b.toNat a.toNat d.toNat none) bodyXor s

/-- XOR (R120). -/
def execIxorExt (f : Form) (s : State) : Host.Outcome State Fault Refusal := runWord (rawOf 0x0d f) bodyXor s

/-- ANDN compact (R120). -/
def execAndn (u : BitVec 1) (b a d : BitVec 7) (s : State) : Host.Outcome State Fault Refusal :=
  runWord (rawCompact 0x0e u.toNat b.toNat a.toNat d.toNat none) bodyAndn s

/-- ANDN (R120). -/
def execAndnExt (f : Form) (s : State) : Host.Outcome State Fault Refusal := runWord (rawOf 0x0e f) bodyAndn s

/-- NOT compact (R120). -/
def execInot (u : BitVec 1) (b a d : BitVec 7) (s : State) : Host.Outcome State Fault Refusal :=
  runWord (rawCompact 0x0f u.toNat b.toNat a.toNat d.toNat none) bodyNot s

/-- NOT (R120). -/
def execInotExt (f : Form) (s : State) : Host.Outcome State Fault Refusal := runWord (rawOf 0x0f f) bodyNot s

/-- SHL compact (R120). -/
def execShl (u : BitVec 1) (b a d : BitVec 7) (s : State) : Host.Outcome State Fault Refusal :=
  runWord (rawCompact 0x10 u.toNat b.toNat a.toNat d.toNat none) bodyShl s

/-- SHL (R120). -/
def execShlExt (f : Form) (s : State) : Host.Outcome State Fault Refusal := runWord (rawOf 0x10 f) bodyShl s

/-- SHR compact (R120). -/
def execShr (u : BitVec 1) (b a d : BitVec 7) (s : State) : Host.Outcome State Fault Refusal :=
  runWord (rawCompact 0x11 u.toNat b.toNat a.toNat d.toNat none) bodyShr s

/-- SHR (R120). -/
def execShrExt (f : Form) (s : State) : Host.Outcome State Fault Refusal := runWord (rawOf 0x11 f) bodyShr s

/-- SAR compact (R120). -/
def execSar (u : BitVec 1) (b a d : BitVec 7) (s : State) : Host.Outcome State Fault Refusal :=
  runWord (rawCompact 0x12 u.toNat b.toNat a.toNat d.toNat none) bodySar s

/-- SAR (R120). -/
def execSarExt (f : Form) (s : State) : Host.Outcome State Fault Refusal := runWord (rawOf 0x12 f) bodySar s

/-- ROTL compact (R120). -/
def execRotl (u : BitVec 1) (b a d : BitVec 7) (s : State) : Host.Outcome State Fault Refusal :=
  runWord (rawCompact 0x13 u.toNat b.toNat a.toNat d.toNat none) bodyRotl s

/-- ROTL (R120). -/
def execRotlExt (f : Form) (s : State) : Host.Outcome State Fault Refusal := runWord (rawOf 0x13 f) bodyRotl s

/-- BFX (R121). -/
def execBfx (f : Form) (s : State) : Host.Outcome State Fault Refusal := runWord (rawOf 0x14 f) bodyBfx s

/-- BFI (R121). -/
def execBfi (f : Form) (s : State) : Host.Outcome State Fault Refusal := runWord (rawOf 0x15 f) bodyBfi s

/-- POPC compact (R122). -/
def execPopc (u : BitVec 1) (b a d : BitVec 7) (s : State) : Host.Outcome State Fault Refusal :=
  runWord (rawCompact 0x16 u.toNat b.toNat a.toNat d.toNat none) bodyPopc s

/-- POPC (R122). -/
def execPopcExt (f : Form) (s : State) : Host.Outcome State Fault Refusal := runWord (rawOf 0x16 f) bodyPopc s

/-- CLZ compact (R122). -/
def execClz (u : BitVec 1) (b a d : BitVec 7) (s : State) : Host.Outcome State Fault Refusal :=
  runWord (rawCompact 0x17 u.toNat b.toNat a.toNat d.toNat none) bodyClz s

/-- CLZ (R122). -/
def execClzExt (f : Form) (s : State) : Host.Outcome State Fault Refusal := runWord (rawOf 0x17 f) bodyClz s

/-- CTZ compact (R122). -/
def execCtz (u : BitVec 1) (b a d : BitVec 7) (s : State) : Host.Outcome State Fault Refusal :=
  runWord (rawCompact 0x18 u.toNat b.toNat a.toNat d.toNat none) bodyCtz s

/-- CTZ (R122). -/
def execCtzExt (f : Form) (s : State) : Host.Outcome State Fault Refusal := runWord (rawOf 0x18 f) bodyCtz s

/-- BREV compact (R122). -/
def execBrev (u : BitVec 1) (b a d : BitVec 7) (s : State) : Host.Outcome State Fault Refusal :=
  runWord (rawCompact 0x19 u.toNat b.toNat a.toNat d.toNat none) bodyBrev s

/-- BREV (R122). -/
def execBrevExt (f : Form) (s : State) : Host.Outcome State Fault Refusal := runWord (rawOf 0x19 f) bodyBrev s

/-- ICMP compact (R124). -/
def execIcmp (u : BitVec 1) (b a d : BitVec 7) (s : State) : Host.Outcome State Fault Refusal :=
  runWord (rawCompact 0x1a u.toNat b.toNat a.toNat d.toNat none) bodyIcmp s

/-- ICMP (R124). -/
def execIcmpExt (f : Form) (s : State) : Host.Outcome State Fault Refusal := runWord (rawOf 0x1a f) bodyIcmp s

/-- SEL (R125). -/
def execSel (f : Form) (s : State) : Host.Outcome State Fault Refusal := runWord (rawOf 0x1b f) bodySel s

/-- LEA (R126). -/
def execLea (f : Form) (s : State) : Host.Outcome State Fault Refusal := runWord (rawOf 0x1c f) bodyLea s

/-- MOV compact (R125). -/
def execMov (u : BitVec 1) (b a d : BitVec 7) (s : State) : Host.Outcome State Fault Refusal :=
  runWord (rawCompact 0x1d u.toNat b.toNat a.toNat d.toNat none) bodyMov s

/-- MOV (R125). -/
def execMovExt (f : Form) (s : State) : Host.Outcome State Fault Refusal := runWord (rawOf 0x1d f) bodyMov s

/-- BYSEL (R123). -/
def execBysel (f : Form) (s : State) : Host.Outcome State Fault Refusal := runWord (rawOf 0x1e f) bodyBysel s

end Sys2Proof.Machine
end

