-- ==== Sys2Proof/Machine/Trans.lean ====
section
/-! DEFINITION. The correctly rounded functions of spec/09 R156: 1/√x, 2^x, log2 x, sin x and cos x. The exact value is
enclosed between two numbers of p bits after the point; once both round alike, that is the result (log 13). -/

namespace Sys2Proof.Machine

/-- An enclosure: integers in units of 2^-p. -/
structure Enc where
  lo : Int
  hi : Int
deriving DecidableEq, Repr

def Enc.add (a b : Enc) : Enc := ⟨a.lo + b.lo, a.hi + b.hi⟩
def Enc.sub (a b : Enc) : Enc := ⟨a.lo - b.hi, a.hi - b.lo⟩
/-- The product of enclosures of numbers not below zero. -/
def Enc.mul (p : Nat) (a b : Enc) : Enc := ⟨a.lo * b.lo / (2 ^ p : Nat), a.hi * b.hi / (2 ^ p : Nat) + 1⟩
def Enc.divNat (a : Enc) (n : Nat) : Enc := ⟨a.lo / (n : Int), a.hi / (n : Int) + 1⟩
/-- The quotient of enclosures of numbers above zero. -/
def Enc.div (p : Nat) (a b : Enc) : Enc := ⟨a.lo * (2 ^ p : Nat) / b.hi, a.hi * (2 ^ p : Nat) / b.lo + 1⟩
def Enc.widen (a : Enc) (k : Int) : Enc := ⟨a.lo - k, a.hi + k⟩
/-- Encloses n / d. -/
def Enc.ofRat (p n d : Nat) : Enc := ⟨((n * 2 ^ p / d : Nat) : Int), ((n * 2 ^ p / d : Nat) : Int) + 1⟩
def Enc.one (p : Nat) : Enc := ⟨((2 ^ p : Nat) : Int), ((2 ^ p : Nat) : Int)⟩

/-- Σ z^(2k+1) / (2k+1), signs alternating if `alt`: `t` holds z^(2k+1), `z2` is z². -/
def oddSeries (p : Nat) (alt : Bool) (z2 : Enc) : Nat → Nat → Enc → Enc
  | 0, _, _ => ⟨-2, 2⟩
  | n + 1, k, t =>
    let term := t.divNat (2 * k + 1)
    let rest := oddSeries p alt z2 n (k + 1) (t.mul p z2)
    if alt && k % 2 == 1 then rest.sub term else rest.add term

/-- ln 2 = Σ 1 / (k · 2^k), through 2 · artanh (1/3). -/
def lnTwo (p : Nat) : Enc :=
  let z := Enc.ofRat p 1 3
  let s := oddSeries p false (z.mul p z) (p / 3 + 8) 0 z
  s.add s

/-- arctan (1/n). -/
def atanInv (p n : Nat) : Enc :=
  let z := Enc.ofRat p 1 n
  oddSeries p true (z.mul p z) (p / 4 + 8) 0 z

/-- π / 2 = 8 arctan (1/5) - 2 arctan (1/239). -/
def halfPi (p : Nat) : Enc :=
  let a := atanInv p 5
  let b := atanInv p 239
  ⟨8 * a.lo - 2 * b.hi, 8 * a.hi - 2 * b.lo⟩

/-- Σ t^k / k! from term `k` on, for 0 ≤ t < 1. -/
def expSeries (p : Nat) (t : Enc) : Nat → Nat → Enc → Enc
  | 0, _, _ => ⟨0, 2⟩
  | n + 1, k, term => term.add (expSeries p t n (k + 1) ((term.mul p t).divNat (k + 1)))

/-- Σ (-1)^k t^k / (first · …)!, the sine's or cosine's series in t = r²: `m` is the first factor of the next term. -/
def trigSeries (p : Nat) (t : Enc) : Nat → Bool → Nat → Enc → Enc
  | 0, _, _, _ => ⟨-2, 2⟩
  | n + 1, neg, m, term =>
    let rest := trigSeries p t n (!neg) (m + 2) ((term.mul p t).divNat (m * (m + 1)))
    if neg then rest.sub term else rest.add term

/-- The result of an enclosure of a signed number where both ends round alike. -/
def encRound (p : Nat) (f : FFmt) (sat : Bool) (e : Enc) : Option Nat :=
  let v := fun (k : Int) => roundTo (.fin (decide (k < 0)) k.natAbs (2 ^ p)) f .rne sat 0
  if (0 < e.lo ∨ e.hi < 0) ∧ v e.lo = v e.hi then some (v e.lo) else none

/-- 2^(n/d), n/d at or above zero and below one, times 2^k. -/
def exp2Enc (p n d : Nat) : Enc :=
  let t := (Enc.ofRat p n d).mul p (lnTwo p)
  expSeries p t (p / 4 + 16) 0 (Enc.one p)

/-- Rounds 2^k times the enclosed number. -/
def encScaled (p : Nat) (f : FFmt) (sat : Bool) (k : Int) (e : Enc) : Option Nat :=
  let v := fun (x : Int) => roundTo (vscale (.fin false x.toNat (2 ^ p)) k) f .rne sat 0
  if v e.lo = v e.hi then some (v e.lo) else none

/-- log2 (n/d) of 1 ≤ n/d < 2, plus e. -/
def log2Enc (p n d : Nat) (e : Int) : Enc :=
  let z := Enc.ofRat p (n - d) (n + d)
  let s := oddSeries p false (z.mul p z) (p / 3 + 8) 0 z
  let l := (s.add s).div p (lnTwo p)
  ⟨l.lo + e * (2 ^ p : Nat), l.hi + e * (2 ^ p : Nat)⟩

/-- sin (r) or cos (r) with r = n/d - q · π/2, and the sign that the quadrant gives it. -/
def trigEnc (p n d : Nat) (cosine neg : Bool) : Enc :=
  let pp := p + 160
  let h := halfPi pp
  let x : Enc := Enc.ofRat pp n d
  let q := (x.lo + h.lo / 2) / h.lo
  let r0 : Enc := ⟨x.lo - q * h.hi, x.hi - q * h.lo⟩
  let rneg := decide (r0.lo < 0)
  let r : Enc := if rneg then ⟨-r0.hi, -r0.lo⟩ else r0
  let t := r.mul pp r
  let quad := (q % 4).toNat
  let useCos := cosine == (quad % 2 == 0)
  let v := if useCos then trigSeries pp t (p / 4 + 24) false 1 (Enc.one pp)
           else (trigSeries pp t (p / 4 + 24) false 2 (Enc.one pp)).mul pp r
  let s1 := if useCos then (if cosine then quad == 2 else quad == 3) else (if cosine then (quad == 1) != rneg else (quad == 2) != rneg)
  let s := if cosine then s1 else s1 != neg
  if s then ⟨-v.hi, -v.lo⟩ else v

/-- The first precision of the list at which the enclosure decides the rounding. -/
def firstSome (f : Nat → Option Nat) (g : Nat → Nat) : List Nat → Nat
  | [] => g 640
  | p :: ps => match f p with
    | some r => r
    | none => firstSome f g ps

/-- The precisions tried in turn. -/
def precisions : List Nat := [96, 200, 400, 640]

/-- 1/√x (R156). -/
def rsqrtTo (f : FFmt) (sat : Bool) (x : Val) : Nat :=
  match x with
  | .nan => f.defNaN
  | .inf n => if n then f.defNaN else roundTo (.fin false 0 1) f .rne sat 0
  | .fin s n d =>
    if n = 0 then big f s sat
    else if s then f.defNaN
    else roundTo (vsqrt (.fin false d n)) f .rne sat 0

/-- 2^x (R156). -/
def exp2To (f : FFmt) (sat : Bool) (x : Val) : Nat :=
  match x with
  | .nan => f.defNaN
  | .inf n => if n then 0 else big f false sat
  | .fin s n d =>
    let v := signedNum s n
    let k := v / (d : Int)
    let r := (v % (d : Int)).toNat
    if 300 < k then big f false sat
    else if k < -300 then 0
    else if r = 0 then roundTo (vscale (.fin false 1 1) k) f .rne sat 0
    else firstSome (fun p => encScaled p f sat k (exp2Enc p r d)) (fun p => roundTo (vscale (.fin false (exp2Enc p r d).lo.toNat (2 ^ p)) k) f .rne sat 0) precisions

/-- log2 x (R156). -/
def log2To (f : FFmt) (sat : Bool) (x : Val) : Nat :=
  match x with
  | .nan => f.defNaN
  | .inf n => if n then f.defNaN else big f false sat
  | .fin s n d =>
    if n = 0 then big f true sat
    else if s then f.defNaN
    else
      let e := log2Ratio n d
      let m := unscale n d e
      if m.1 = m.2 then roundTo (.ofInt e) f .rne sat 0
      else firstSome (fun p => encRound p f sat (log2Enc p m.1 m.2 e))
        (fun p => roundTo (.fin (decide ((log2Enc p m.1 m.2 e).lo < 0)) (log2Enc p m.1 m.2 e).lo.natAbs (2 ^ p)) f .rne sat 0) precisions

/-- sin x or cos x (R156). -/
def trigTo (cosine : Bool) (f : FFmt) (x : Val) : Nat :=
  match x with
  | .nan => f.defNaN
  | .inf _ => f.defNaN
  | .fin s n d =>
    if n = 0 then (if cosine then roundTo (.fin false 1 1) f .rne false 0 else withSign f s 0)
    else firstSome (fun p => encRound (p + 160) f false (trigEnc p n d cosine s))
      (fun p => roundTo (.fin (decide ((trigEnc p n d cosine s).lo < 0)) (trigEnc p n d cosine s).lo.natAbs (2 ^ (p + 160))) f .rne false 0) precisions

end Sys2Proof.Machine
end

