-- ==== Sys2Proof/Machine/Float.lean ====
section
/-! DEFINITION. The floating class (spec/09 R151 to R163): one exact result, rounded once. -/

namespace Sys2Proof.Machine

/-- The rounding mode of an RND code (R64). -/
def rndOf (n : Nat) : Rnd :=
  match n with
  | 0 => .rne | 1 => .rtz | 2 => .rdn | 3 => .rup | 4 => .rna | 5 => .sr | _ => .rod

/-- The format of a floating TYPE; F32 for the others. -/
def fmtOf (ty : Nat) : FFmt :=
  match tyOf .pairI ty with
  | .flt f => f
  | _ => .f32

def Ctx.fmt (x : Ctx) : FFmt := fmtOf x.r.ty
def Ctx.rnd (x : Ctx) : Rnd := rndOf x.r.rnd
/-- Does the instruction round with SR (R96, R151)? -/
def Ctx.isSR (x : Ctx) : Bool := x.r.rnd == 5

/-- The random bits of a lane's element (R95); under UNI the lane is the lowest of ISSUE. -/
def Ctx.sr (x : Ctx) (l e : Nat) : Nat :=
  if x.isSR then srBits x.gr.seed x.pc x.g.num x.g.srctr (if x.r.uni then x.lo else l) e else 0

/-- `D(l) := roundTo(x)` (R151). -/
def Ctx.round (x : Ctx) (l : Nat) (v : Val) : Nat := roundTo v x.fmt x.rnd x.r.sat (x.sr l 0)

/-- An instruction of the class with one 32-bit destination: a function of the lane and the sources' contents. -/
def fltLane (f : Ctx → Nat → Nat → Nat → Nat → Nat) (x : Ctx) : Res :=
  laneOp x 1 x.isSR (fun l => (f x l (srcA x l).1 (srcB x l).1 (srcC x l).1, anyPoisoned x l))

/-- An exact function of the sources' values, rounded once (R154). -/
def fltExact (f : Rnd → Val → Val → Val → Val) (x : Ctx) : Res :=
  fltLane (fun x l a b c => x.round l (f x.rnd (fval x.fmt a) (fval x.fmt b) (fval x.fmt c))) x

def bodyFadd (x : Ctx) : Res := fltExact (fun r a b _ => vadd r a b) x
def bodyFsub (x : Ctx) : Res := fltExact (fun r a b _ => vsub r a b) x
def bodyFmul (x : Ctx) : Res := fltExact (fun _ a b _ => vmul a b) x
def bodyFfma (x : Ctx) : Res := fltExact (fun r a b c => vadd r (vmul a b) c) x
def bodyFdiv (x : Ctx) : Res := fltExact (fun _ a b _ => vdiv a b) x
def bodyFrcp (x : Ctx) : Res := fltExact (fun _ _ b _ => vdiv (.fin false 1 1) b) x
def bodyFsqrt (x : Ctx) : Res := fltExact (fun _ _ b _ => vsqrt b) x

/-- Does encoding `a` order below `b` in R161, where -0 is below +0? Neither is NaN. -/
def encLt (f : FFmt) (a b : Nat) : Bool :=
  vlt (fval f a) (fval f b) || (veq (fval f a) (fval f b) && fsign f a && !fsign f b)

/-- The four minimum and maximum instructions (R161). -/
def minMax (f : FFmt) (wantMax propagate : Bool) (a b : Nat) : Nat :=
  let na := fIsNaN f a
  let nb := fIsNaN f b
  let low := fun (w : Nat) => w % 2 ^ f.width
  if na && nb then f.defNaN
  else if na then (if propagate then f.defNaN else low b)
  else if nb then (if propagate then f.defNaN else low a)
  else if encLt f a b then (if wantMax then low b else low a) else (if wantMax then low a else low b)

def bodyFmin (x : Ctx) : Res := fltLane (fun x _ a b _ => minMax x.fmt false false a b) x
def bodyFmax (x : Ctx) : Res := fltLane (fun x _ a b _ => minMax x.fmt true false a b) x
def bodyFminp (x : Ctx) : Res := fltLane (fun x _ a b _ => minMax x.fmt false true a b) x
def bodyFmaxp (x : Ctx) : Res := fltLane (fun x _ a b _ => minMax x.fmt true true a b) x

/-- FCMP (R162). -/
def bodyFcmp (x : Ctx) : Res := fltLane (fun x _ a b _ => condWord (fltCond x.r.fn (fval x.fmt a) (fval x.fmt b))) x

def bodyFrsq (x : Ctx) : Res := fltLane (fun x _ _ b _ => rsqrtTo x.fmt x.r.sat (fval x.fmt b)) x
def bodyFexp2 (x : Ctx) : Res := fltLane (fun x _ _ b _ => exp2To x.fmt x.r.sat (fval x.fmt b)) x
def bodyFlog2 (x : Ctx) : Res := fltLane (fun x _ _ b _ => log2To x.fmt x.r.sat (fval x.fmt b)) x
def bodyFsin (x : Ctx) : Res := fltLane (fun x _ _ b _ => trigTo false x.fmt (fval x.fmt b)) x
def bodyFcos (x : Ctx) : Res := fltLane (fun x _ _ b _ => trigTo true x.fmt (fval x.fmt b)) x

/-- FRND (R157): integral, with the sign of the operand. -/
def roundIntegral (f : FFmt) (rnd : Rnd) (b : Nat) (w : Nat) : Nat :=
  match fval f w with
  | .nan => f.defNaN
  | .inf n => withSign f n ((f.infMag).getD f.maxMag)
  | .fin s n d =>
    let k := roundInt (.fin s n d) rnd b
    if k = 0 then withSign f s 0 else roundTo (.ofInt k) f .rne false 0

def bodyFrnd (x : Ctx) : Res := fltLane (fun x l _ b _ => roundIntegral x.fmt x.rnd (x.sr l 0) b) x

/-- FCLASS (R163). -/
def bodyFclass (x : Ctx) : Res := fltLane (fun x _ _ b _ => 2 ^ classBit x.fmt b) x

/-- FLDEXP (R158): the count is S32; beyond ±1000 every format has long overflowed or underflowed, so the count is cut
there and the result is the same. -/
def ldexpVal (v : Val) (k : Int) : Val := vscale v (max (-1000) (min 1000 k))

def bodyFldexp (x : Ctx) : Res := fltLane (fun x l a b _ => x.round l (ldexpVal (fval x.fmt a) (toSigned 32 b))) x

/-- FFREXP (R159). -/
def frexpOut (f : FFmt) (fn w : Nat) : Nat :=
  match fval f w with
  | .nan => if fn = 0 then f.defNaN else 0
  | .inf n => if fn = 0 then withSign f n ((f.infMag).getD f.maxMag) else 0
  | .fin s n d =>
    if n = 0 then (if fn = 0 then withSign f s 0 else 0)
    else
      let e := log2Ratio n d + 1
      if fn = 0 then roundTo (vscale (.fin s n d) (-e)) f .rne false 0 else wrap 32 e

def bodyFfrexp (x : Ctx) : Res := fltLane (fun x _ _ b _ => frexpOut x.fmt x.r.fn b) x

/-- The element format of a pair instruction (R160). -/
def pairFmt (x : Ctx) : FFmt := if x.r.fn = 0 then .bf16 else .f16

/-- A pair instruction: each element on its own (R160). -/
def pairExact (f : Rnd → Val → Val → Val → Val) (x : Ctx) : Res :=
  fltLane (fun x l a b c =>
    let el := fun (e : Nat) =>
      let v := fun (w : Nat) => fval (pairFmt x) (bits w (16 * e) 16)
      roundTo (f x.rnd (v a) (v b) (v c)) (pairFmt x) x.rnd x.r.sat (x.sr l e)
    el 0 + 2 ^ 16 * el 1) x

def bodyPadd2 (x : Ctx) : Res := pairExact (fun r a b _ => vadd r a b) x
def bodyPmul2 (x : Ctx) : Res := pairExact (fun _ a b _ => vmul a b) x
def bodyPfma2 (x : Ctx) : Res := pairExact (fun r a b c => vadd r (vmul a b) c) x

/-- FADD compact (R154). -/
def execFadd (u : BitVec 1) (b a d : BitVec 7) (s : State) : Host.Outcome State Fault Refusal :=
  runWord (rawCompact 0x20 u.toNat b.toNat a.toNat d.toNat none) bodyFadd s

/-- FADD (R154). -/
def execFaddExt (f : Form) (s : State) : Host.Outcome State Fault Refusal := runWord (rawOf 0x20 f) bodyFadd s

/-- FSUB compact (R154). -/
def execFsub (u : BitVec 1) (b a d : BitVec 7) (s : State) : Host.Outcome State Fault Refusal :=
  runWord (rawCompact 0x21 u.toNat b.toNat a.toNat d.toNat none) bodyFsub s

/-- FSUB (R154). -/
def execFsubExt (f : Form) (s : State) : Host.Outcome State Fault Refusal := runWord (rawOf 0x21 f) bodyFsub s

/-- FMUL compact (R154). -/
def execFmul (u : BitVec 1) (b a d : BitVec 7) (s : State) : Host.Outcome State Fault Refusal :=
  runWord (rawCompact 0x22 u.toNat b.toNat a.toNat d.toNat none) bodyFmul s

/-- FMUL (R154). -/
def execFmulExt (f : Form) (s : State) : Host.Outcome State Fault Refusal := runWord (rawOf 0x22 f) bodyFmul s

/-- FFMA (R154). -/
def execFfma (f : Form) (s : State) : Host.Outcome State Fault Refusal := runWord (rawOf 0x23 f) bodyFfma s

/-- FMIN compact (R161). -/
def execFmin (u : BitVec 1) (b a d : BitVec 7) (s : State) : Host.Outcome State Fault Refusal :=
  runWord (rawCompact 0x24 u.toNat b.toNat a.toNat d.toNat none) bodyFmin s

/-- FMIN (R161). -/
def execFminExt (f : Form) (s : State) : Host.Outcome State Fault Refusal := runWord (rawOf 0x24 f) bodyFmin s

/-- FMAX compact (R161). -/
def execFmax (u : BitVec 1) (b a d : BitVec 7) (s : State) : Host.Outcome State Fault Refusal :=
  runWord (rawCompact 0x25 u.toNat b.toNat a.toNat d.toNat none) bodyFmax s

/-- FMAX (R161). -/
def execFmaxExt (f : Form) (s : State) : Host.Outcome State Fault Refusal := runWord (rawOf 0x25 f) bodyFmax s

/-- FMINP (R161). -/
def execFminp (f : Form) (s : State) : Host.Outcome State Fault Refusal := runWord (rawOf 0x26 f) bodyFminp s

/-- FMAXP (R161). -/
def execFmaxp (f : Form) (s : State) : Host.Outcome State Fault Refusal := runWord (rawOf 0x27 f) bodyFmaxp s

/-- FCMP compact (R162). -/
def execFcmp (u : BitVec 1) (b a d : BitVec 7) (s : State) : Host.Outcome State Fault Refusal :=
  runWord (rawCompact 0x28 u.toNat b.toNat a.toNat d.toNat none) bodyFcmp s

/-- FCMP (R162). -/
def execFcmpExt (f : Form) (s : State) : Host.Outcome State Fault Refusal := runWord (rawOf 0x28 f) bodyFcmp s

/-- FRCP compact (R155). -/
def execFrcp (u : BitVec 1) (b a d : BitVec 7) (s : State) : Host.Outcome State Fault Refusal :=
  runWord (rawCompact 0x29 u.toNat b.toNat a.toNat d.toNat none) bodyFrcp s

/-- FRCP (R155). -/
def execFrcpExt (f : Form) (s : State) : Host.Outcome State Fault Refusal := runWord (rawOf 0x29 f) bodyFrcp s

/-- FRSQ compact (R156). -/
def execFrsq (u : BitVec 1) (b a d : BitVec 7) (s : State) : Host.Outcome State Fault Refusal :=
  runWord (rawCompact 0x2a u.toNat b.toNat a.toNat d.toNat none) bodyFrsq s

/-- FRSQ (R156). -/
def execFrsqExt (f : Form) (s : State) : Host.Outcome State Fault Refusal := runWord (rawOf 0x2a f) bodyFrsq s

/-- FSQRT compact (R155). -/
def execFsqrt (u : BitVec 1) (b a d : BitVec 7) (s : State) : Host.Outcome State Fault Refusal :=
  runWord (rawCompact 0x2b u.toNat b.toNat a.toNat d.toNat none) bodyFsqrt s

/-- FSQRT (R155). -/
def execFsqrtExt (f : Form) (s : State) : Host.Outcome State Fault Refusal := runWord (rawOf 0x2b f) bodyFsqrt s

/-- FDIV (R154). -/
def execFdiv (f : Form) (s : State) : Host.Outcome State Fault Refusal := runWord (rawOf 0x2c f) bodyFdiv s

/-- FEXP2 compact (R156). -/
def execFexp2 (u : BitVec 1) (b a d : BitVec 7) (s : State) : Host.Outcome State Fault Refusal :=
  runWord (rawCompact 0x2d u.toNat b.toNat a.toNat d.toNat none) bodyFexp2 s

/-- FEXP2 (R156). -/
def execFexp2Ext (f : Form) (s : State) : Host.Outcome State Fault Refusal := runWord (rawOf 0x2d f) bodyFexp2 s

/-- FLOG2 compact (R156). -/
def execFlog2 (u : BitVec 1) (b a d : BitVec 7) (s : State) : Host.Outcome State Fault Refusal :=
  runWord (rawCompact 0x2e u.toNat b.toNat a.toNat d.toNat none) bodyFlog2 s

/-- FLOG2 (R156). -/
def execFlog2Ext (f : Form) (s : State) : Host.Outcome State Fault Refusal := runWord (rawOf 0x2e f) bodyFlog2 s

/-- FSIN (R156). -/
def execFsin (f : Form) (s : State) : Host.Outcome State Fault Refusal := runWord (rawOf 0x2f f) bodyFsin s

/-- FCOS (R156). -/
def execFcos (f : Form) (s : State) : Host.Outcome State Fault Refusal := runWord (rawOf 0x30 f) bodyFcos s

/-- FRND (R157). -/
def execFrnd (f : Form) (s : State) : Host.Outcome State Fault Refusal := runWord (rawOf 0x31 f) bodyFrnd s

/-- FCLASS (R163). -/
def execFclass (f : Form) (s : State) : Host.Outcome State Fault Refusal := runWord (rawOf 0x32 f) bodyFclass s

/-- FLDEXP (R158). -/
def execFldexp (f : Form) (s : State) : Host.Outcome State Fault Refusal := runWord (rawOf 0x33 f) bodyFldexp s

/-- FFREXP (R159). -/
def execFfrexp (f : Form) (s : State) : Host.Outcome State Fault Refusal := runWord (rawOf 0x34 f) bodyFfrexp s

/-- PADD2 (R160). -/
def execPadd2 (f : Form) (s : State) : Host.Outcome State Fault Refusal := runWord (rawOf 0x35 f) bodyPadd2 s

/-- PMUL2 (R160). -/
def execPmul2 (f : Form) (s : State) : Host.Outcome State Fault Refusal := runWord (rawOf 0x36 f) bodyPmul2 s

/-- PFMA2 (R160). -/
def execPfma2 (f : Form) (s : State) : Host.Outcome State Fault Refusal := runWord (rawOf 0x37 f) bodyPfma2 s

end Sys2Proof.Machine
end

