-- ==== Sys2Proof/Machine/Rmw.lean ====
section
/-! DEFINITION. The read-modify-write functions of the atomics and of reducing engine steps (spec/15 R267, R272; spec/17
R290). -/

namespace Sys2Proof.Machine

/-- A BF16 or F32 function of an element (R267). -/
def fltElem (f : FFmt) (fn old v : Nat) : Nat :=
  match fn with
  | 10 => roundTo (vadd .rne (fval f old) (fval f v)) f .rne false 0
  | 11 => minMax f false false old v
  | _ => minMax f true false old v

/-- The new value of an atomic (R267), or of a reducing step on BF16 elements (R290); none where nothing is written. `w` is
the width in bits. -/
def atomNew (fn ty w old v cmp : Nat) : Option Nat :=
  let sg : IType := ⟨w, ty == 0 || ty == 2⟩
  match fn with
  | 0 => some ((old + v) % 2 ^ w)
  | 1 => some (if ival sg v < ival sg old then v else old)
  | 2 => some (if ival sg old < ival sg v then v else old)
  | 3 => some (old &&& v)
  | 4 => some (old ||| v)
  | 5 => some (old ^^^ v)
  | 6 => some v
  | 7 => if old = cmp then some v else none
  | 8 => some (if v ≤ old then 0 else old + 1)
  | 9 => some (if old = 0 ∨ v < old then v else old - 1)
  | _ =>
    if ty = 5 then some (fltElem .bf16 fn old v)
    else if ty = 14 then some (fltElem .bf16 fn (bits old 0 16) (bits v 0 16) + 2 ^ 16 * fltElem .bf16 fn (bits old 16 16) (bits v 16 16))
    else some (fltElem .f32 fn old v)

/-- The new value of an operation's access. -/
def atomOf (fn ty : Nat) (wide : Bool) (n old v cmp : Nat) : Option Nat :=
  if wide then (if fn = 1 then (if old = cmp then some v else none) else some ((old + v) % 2 ^ 128))
  else atomNew fn ty (8 * n) old v cmp

/-- The operator of R290 as ATOM codes it. -/
def redFn (fn : Nat) : Nat := if fn ≤ 6 then fn - 1 else fn + 3

/-- The element width in bytes of an operator's type (R290). -/
def redBytes (fn ty : Nat) : Nat := if fn = 0 then 1 else if ty = 2 ∨ ty = 3 then 8 else if ty = 5 then 2 else 4

/-- op(old, s) of R290. -/
def redStep (fn ty old v : Nat) : Nat :=
  if fn = 0 then v else (atomNew (redFn fn) ty (8 * redBytes fn ty) old v 0).getD old

end Sys2Proof.Machine
end

