-- ==== Sys2Proof/Machine/Home.lean ====
section
/-! DEFINITION. What the home of a line does (spec/11 R187 to R202, R211, R213): reads and writes of memory with tags, data
errors and host halves, the copies in L1, and exclusive ownership. -/

namespace Sys2Proof.Machine

/-- The lines that L2 holds (R2). -/
abbrev l2Lines : Nat := 256 * 49152

/-- A group's write of a pool line, which L2 may now hold dirty (R364, log 25). A full L2 writes another of its dirty lines back. -/
def poolMark (s : State) (gid pa : Nat) : State :=
  match paKind s pa with
  | .pooled _ =>
    let mark := fun (m : List (Nat × List Nat)) => minsert (lineOf pa) (gid :: ((mfind (lineOf pa) m).getD []).filter (fun g => g != gid)) m
    if s.pool.dirty.length < l2Lines || (mfind (lineOf pa) s.pool.dirty).isSome then { s with pool := { s.pool with dirty := mark s.pool.dirty } }
    else { s with fresh := s.fresh + 1, pool := { s.pool with dirty := mark (s.pool.dirty.eraseIdx (Config.freeChoice s.fresh % s.pool.dirty.length)) } }
  | _ => s

/-- A release of the group at POOL or SYSTEM scope leaves none of the lines it wrote dirty (R231, R248). -/
def poolClean (s : State) (gid : Nat) : State :=
  { s with pool := { s.pool with dirty := s.pool.dirty.filter (fun e => !e.2.contains gid) } }

/-- The key of a core's L1 line. -/
def l1Key (core line : Nat) : Nat := core * 2 ^ 45 + line

/-- The ways of a core's L1 in lookup: its READY CACHE banks (R177, R187). -/
def l1Ways (s : State) (core : Nat) : List Nat :=
  let c := getCore s core
  (List.range 32).filter (fun b => (getBank c b).mode == 0 && (getBank c b).state == 0)

/-- The mask of the words that bytes [off, off + n) of a line touch. -/
def wordMask (off n : Nat) : Nat :=
  if n = 0 then 0 else (2 ^ ((off + n - 1) / 4 + 1) - 2 ^ (off / 4))

/-- The bytes a core's L1 gives, when every word they need is valid (R187). -/
def l1Read (s : State) (core pa n : Nat) : Option Nat :=
  match mfind (l1Key core (lineOf pa)) s.l1 with
  | some e => if !e.bad && wordMask (pa % 128) n &&& e.mask == wordMask (pa % 128) n then some (bits e.bytes (8 * (pa % 128)) (8 * n)) else none
  | none => none

/-- Ownership that a core gives back before its copy leaves its way: the line is written back, which memory holds already. -/
def giveBack (s : State) (line core : Nat) : State :=
  if (dirOf s line).owner = some core then
    let t := l1Lost s line
    setDir t line { dirOf t line with owner := none, ownAtoms := 0 }
  else s

/-- Copies leave their ways (R181, R182, R187): updates on their way to them are acknowledged at once, and what a core holds
exclusively goes back to its home. -/
def l1Leave (s : State) (p : Nat → Nat → L1Line → Bool) : State :=
  let out := s.l1.filter (fun e => p (e.1 / 2 ^ 45) (e.1 % 2 ^ 45) e.2)
  let t := out.foldl (fun t e => giveBack t (e.1 % 2 ^ 45) (e.1 / 2 ^ 45)) s
  { t with l1 := t.l1.filter (fun e => !p (e.1 / 2 ^ 45) (e.1 % 2 ^ 45) e.2)
           updates := t.updates.filter (fun u => !(out.any (fun e => e.1 == l1Key u.core (lineOf u.pa)))) }

/-- The way in which a line comes to stand (R187): one with nothing in its set, else any, whose line leaves it (log 18). -/
def l1Place (s : State) (core line : Nat) : Option Nat × State :=
  let ways := l1Ways s core
  let holds := fun (w c l : Nat) (e : L1Line) => c == core && l % 512 == line % 512 && e.way == w
  match ways.find? (fun w => !(s.l1.any (fun e => holds w (e.1 / 2 ^ 45) (e.1 % 2 ^ 45) e.2))) with
  | some w => (some w, s)
  | none =>
    match ways[Config.freeChoice s.fresh % ways.length]? with
    | some w => (some w, l1Leave { s with fresh := s.fresh + 1 } (holds w))
    | none => (none, s)

/-- The words of a mask that lie in halves of the line which the host does not own (R195). -/
def ownWords (s : State) (line mask : Nat) : Nat :=
  (if (mfind (2 * line) s.hostHalf).isSome then 0 else bits mask 0 16) + 2 ^ 16 * (if (mfind (2 * line + 1) s.hostHalf).isSome then 0 else bits mask 16 16)

/-- A copy with an uncorrectable error is fetched again, with a soft-error event (R214). -/
def l1Mend (s : State) (core line : Nat) : State :=
  match mfind (l1Key core line) s.l1 with
  | some e =>
    if e.bad && !lineBad s (line * 128) then
      { rasLog 3 0 (partOfLine s (line * 128)) (coreUnit core) (line * 128) s with l1 := minsert (l1Key core line) { e with bytes := memGet s (line * 128) 128, bad := false } s.l1 }
    else s
  | none => s

/-- Fills words of a core's L1 line from the home (R187), those in halves that the host owns excepted (R195); a core without a way
keeps nothing. -/
def l1Fill (s0 : State) (core line mask : Nat) : State :=
  let s := l1Mend s0 core line
  let m := ownWords s line mask
  let got := fun (e : L1Line) (s : State) =>
    let bytes := (List.range 32).foldl (fun b i => if bit m i then putBytes b (4 * i) 4 (memGet s (line * 128 + 4 * i) 4) else b) e.bytes
    { s with l1 := minsert (l1Key core line) { e with mask := e.mask ||| m, bytes := bytes } s.l1 }
  if lineBad s (line * 128) then s
  else match mfind (l1Key core line) s.l1 with
    | some e => got e s
    | none =>
      let p := l1Place s core line
      match p.1 with
      | some w => got { mask := 0, bytes := 0, way := w } p.2
      | none => s

/-- Applies an update to a core's copy (R189 step 4). -/
def l1Apply (s : State) (u : Upd) : State :=
  { s with l1 := mmodify (l1Key u.core (lineOf u.pa)) (fun e => { e with bytes := putBytes e.bytes (u.pa % 128) u.bytes.length (ofBytes u.bytes) }) s.l1 }

/-- The cores whose copy covers a written word (R188, R189). -/
def sharersOf (s : State) (pa n : Nat) : List Nat :=
  (s.l1.filter (fun e => e.1 % 2 ^ 45 == lineOf pa && (wordMask (pa % 128) n &&& e.2.mask) != 0)).map (fun e => e.1 / 2 ^ 45)

/-- Drops the copies of a line in the cores that pass, and the updates on their way to them, which are acknowledged at
once (R182, R191). -/
def l1Drop (s : State) (line : Nat) (p : Nat → Bool) : State :=
  { s with l1 := s.l1.filter (fun e => !(e.1 % 2 ^ 45 == line && p (e.1 / 2 ^ 45)))
           updates := s.updates.filter (fun u => !(lineOf u.pa == line && p u.core)) }

/-- Queues the updates of a write to its sharers (R189 step 3). -/
def sendUpdates (s : State) (oid pa : Nat) (bs : List Nat) : State :=
  { s with updates := s.updates ++ (sharersOf s pa bs.length).map (fun c => { oid := oid, core := c, pa := pa, bytes := bs }) }

/-- May L1 hold the line? HBM and the pool; host memory and peers' HBM are read at their homes (R187, log 9). -/
def l1Takes (s : State) (line : Nat) : Bool :=
  match paKind s (line * 128) with
  | .hbm _ | .pooled _ => true
  | _ => false

/-- Gives `core` exclusive ownership of a line (R191, R192): every other copy is removed and the whole line stands in its L1, unless
`noal` says that it is not to be allocated there (R261). A move from another core, also by way of a recall for its atomic, within
4,096 cycles of the last counts the predictor up. -/
def takeOwner (s0 : State) (line core : Nat) (noal : Bool) : State :=
  let s := l1Lost s0 line
  let d := dirOf s line
  if d.owner = some core then s
  else
    let moved := d.owner.isSome || (d.prev.isSome && d.prev != some core)
    let s1 := recallOwner s line (some core)
    let d1 := dirOf s1 line
    let up := moved && (match d.lastMove with | some t => decide (s.cycle ≤ t + 4096) | none => false)
    let s2 := l1Drop (setDir s1 line { d1 with owner := some core, ownAtoms := 0, pred := if up then min 3 (d1.pred + 1) else d1.pred
                                               lastMove := if moved then some s.cycle else d1.lastMove, prev := none }) line (fun c => c != core)
    let s3 := { s2 with l1 := mmodify (l1Key core line) (fun e => { e with dirty := false }) s2.l1 }
    if l1Takes s line && !noal then l1Fill s3 core line (2 ^ 32 - 1) else s3

/-- Recalls ownership for another core's access (R191); `prev` keeps the core for the count of moves (R192). -/
def recallFor (s : State) (line : Nat) : State :=
  match (dirOf s line).owner with
  | some c => let s1 := recallOwner s line none; setDir s1 line { dirOf s1 line with prev := some c }
  | none => s

/-- The key of a partition's dray frame. -/
def drayKey (part frame : Nat) : Nat := part * 2 ^ 16 + frame

/-- Is the dray cache in use (R210)? It is none while its frames and tags do not lie in the partition's own channel groups (R378, R393). -/
def drayOn (s : State) (part : Nat) : Bool :=
  let p := getPart s part
  let n := bits p.drayCfg 0 16
  n != 0 && ownsRange p (bits p.drayCfg 16 36 * 65536) (n * (65536 + 128))

/-- Where a dray frame's byte `off` stands, after forwarding (R210, R390): its sectors from BASE on, the tags and valid bits after
the last frame. -/
def drayAddr (s : State) (part off : Nat) : Nat := homePa s part (bits (getPart s part).drayCfg 16 36 * 65536 + off)

/-- The dray frames that hold a valid sector of the line; those of `part`, or of every partition. -/
def drayHits (s : State) (part : Option Nat) (line : Nat) : List (Nat × DrayFrame) :=
  s.dray.filter (fun e => (part == none || part == some (e.1 / 2 ^ 16)) && drayOn s (e.1 / 2 ^ 16) && e.2.page == line / 512 && bit e.2.valid (line % 512))

/-- Where a line's sector stands. -/
def drayAt (s : State) (key line : Nat) : Nat := drayAddr s (key / 2 ^ 16) (key % 2 ^ 16 * 65536 + line % 512 * 128)

/-- A valid dray sector (R211); one whose HBM line is a data error serves nothing. -/
def drayRead (s : State) (part line : Nat) : Option Nat :=
  match drayHits s (some part) line with
  | e :: _ => if lineBad s (drayAt s e.1 line) then none else some (memGet s (drayAt s e.1 line) 128)
  | [] => none

/-- Writes a line of HBM that the dray cache uses. -/
def drayLine (s : State) (pa v : Nat) : State :=
  let s1 := retag (memSet (l1Drop (recallOwner (claimHalf s pa 128) (lineOf pa) none) (lineOf pa) (fun _ => true)) pa 128 v) (lineOf pa) false
  { s1 with lineErr := merase (lineOf pa) s1.lineErr }

/-- A frame's tag and valid bits are stored (R210); how they are coded is not given, so their 128 bytes are free (log 73). -/
def drayTag (s : State) (key : Nat) : State :=
  let n := bits (getPart s (key / 2 ^ 16)).drayCfg 0 16
  drayLine { s with fresh := s.fresh + 128 } (drayAddr s (key / 2 ^ 16) (n * 65536 + key % 2 ^ 16 * 128))
    (ofBytes ((List.range 128).map (fun i => (Config.freeByte (s.fresh + i)).toNat)))

/-- Sets a frame; one without a valid sector is free. -/
def drayFrame (s : State) (key : Nat) (f : DrayFrame) : State :=
  let t : State := { s with dray := if f.valid = 0 then merase key s.dray else minsert key f s.dray }
  if drayOn s (key / 2 ^ 16) then drayTag t key else t

/-- The frame for a page: its own, one that is free, or any, whose sectors are lost (R211, log 73). -/
def drayPick (s : State) (part page : Nat) : Nat × State :=
  let n := bits (getPart s part).drayCfg 0 16
  match s.dray.find? (fun e => e.1 / 2 ^ 16 == part && e.2.page == page) with
  | some e => (e.1, s)
  | none =>
    let k := mfree s.dray n (drayKey part 0)
    if k < drayKey part n then (k, s) else (drayKey part (Config.freeChoice s.fresh % n), { s with fresh := s.fresh + 1 })

/-- Sets a sector valid with a line's bytes (R211). -/
def drayPut (s : State) (part line v : Nat) : State :=
  if drayOn s part then
    let p := drayPick s part (line / 512)
    let old := match mfind p.1 p.2.dray with | some f => if f.page = line / 512 then f.valid else 0 | none => 0
    drayLine (drayFrame p.2 p.1 { page := line / 512, valid := old ||| 2 ^ (line % 512) }) (drayAt s p.1 line) v
  else s

/-- Clears the valid bits of the sectors that pass (R210 to R213). -/
def drayClear (s : State) (p : Nat → Nat → Bool) : State :=
  s.dray.foldl (fun t e =>
    let v := (List.range 512).foldl (fun v i => if bit v i && p (e.1 / 2 ^ 16) (e.2.page * 512 + i) then v - 2 ^ i else v) e.2.valid
    if v = e.2.valid then t else drayFrame t e.1 { e.2 with valid := v }) s

/-- Is the line in the pooled tier? -/
def isPool (s : State) (line : Nat) : Bool :=
  match paKind s (line * 128) with
  | .pooled _ => true
  | _ => false

/-- The partitions whose dray cache follows a write: for a pool line all of them (R213, R224), for a peer's the writer's. -/
def drayFor (s : State) (part line : Nat) : Option Nat := if isPool s line then none else some part

/-- Clears the sector of a line (R211). -/
def drayDrop (s : State) (part line : Nat) : State :=
  (drayHits s (drayFor s part line) line).foldl (fun t e => drayFrame t e.1 { e.2 with valid := e.2.valid - 2 ^ (line % 512) }) s

/-- Writes through into a valid sector (R211). -/
def drayWrite (s : State) (part pa : Nat) (bs : List Nat) : State :=
  (drayHits s (drayFor s part (lineOf pa)) (lineOf pa)).foldl (fun t e => memSet t (drayAt s e.1 (lineOf pa) + pa % 128) bs.length (ofBytes bs)) s

def isMcast (pa : Nat) : Bool := pa >>> 48 == 4

/-- Does a byte travel by packet? -/
def isFar (s : State) (p : Piece) : Bool := isPeer s p.pa || isMcast p.pa

/-- Words that a core writes in the copy it owns, or that its near atomic writes: they reach its own copy at once and every other copy by
an update (R189, R191, R192). -/
def publishOwn (s : State) (oid core pa : Nat) (bs : List Nat) : State :=
  let s0 := l1Apply s { oid := oid, core := core, pa := pa, bytes := bs }
  let s1 := if (dirOf s0 (lineOf pa)).owner = some core then { s0 with l1 := mmodify (l1Key core (lineOf pa)) (fun e => { e with dirty := true }) s0.l1 } else s0
  { s1 with updates := s1.updates ++ ((sharersOf s1 pa bs.length).filter (fun c => c != core)).map (fun c => { oid := oid, core := c, pa := pa, bytes := bs }) }

/-- Is the address in a FAULTED pool region (R364)? -/
def inFaulted (s : State) (pa : Nat) : Bool :=
  match paKind s pa with
  | .pooled r => regionState s r != 1
  | _ => false

end Sys2Proof.Machine
end

