-- ==== Sys2Proof/Machine/Past.lean ====
section
/-! DEFINITION. Writes that a reader may still miss (spec/13 R222, R225, R231 to R235, R239, R241; log 14): older bytes that a
read may give, and how releases, acquires and XFENCEs put an end to it. -/

namespace Sys2Proof.Machine

/-- Does a scope, taken from a core, reach the L1 copy of another core of the package (R226, R229)? The groups of a block stand on one
core. -/
def reachesCore (scope core c : Nat) : Bool :=
  if scope = 0 then false else if scope ≤ 2 then c == core else if scope = 3 then c / 96 == core / 96 else true

/-- Does a scope, taken from one agent of the package, enclose another (R226, R227)? -/
def encloses (scope : Nat) (a b : Seat) : Bool :=
  if scope = 0 then a.gid == b.gid else if scope = 1 then a.bid == b.bid else reachesCore scope a.core b.core

/-- The narrowest scope that encloses two cores (R227). -/
def narrowest (a b : Nat) : Nat := if a = b then 2 else if a / 96 = b / 96 then 3 else 4

/-- The core of a group's block. -/
def groupCore (s : State) (gid : Nat) : Nat :=
  match mfind gid s.groups with
  | some g => (match mfind g.bid s.blocks with | some b => b.core | none => 0)
  | none => 0

/-- Where a group stands. -/
def seatOf (s : State) (gid : Nat) : Seat := { core := groupCore s gid, bid := ((mfind gid s.groups).map (fun g => g.bid)).getD 0, gid := gid }

/-- Are two releases of one releaser, at one scope and place? A later one covers what an earlier one does. -/
def Tok.like (a b : Tok) : Bool := a.seat == b.seat && a.scope == b.scope

/-- Adds releases to those that a value carries or a group has met: of one releaser the latest. -/
def joinToks (ts us : List Tok) : List Tok :=
  us.foldl (fun m u => if m.any u.like then m.map (fun t => if t.like u && decide (t.seq < u.seq) then u else t) else u :: m) ts

/-- The releases that the values of some places carry (R233). -/
def toksAt (s : State) (ks : List Nat) : List Tok :=
  if s.relAt.isEmpty then [] else ks.foldl (fun m k => joinToks m ((mfind k s.relAt).getD [])) []

/-- A write of places: they carry the releases given, and after a read-modify-write those that they carried before too (R233). -/
def carry (s : State) (rmw : Bool) (ts : List Tok) (ks : List Nat) : State :=
  if ts.isEmpty && (rmw || s.relAt.isEmpty) then s
  else { s with relAt := ks.foldl (fun m k =>
    let us := if rmw then joinToks ((mfind k m).getD []) ts else ts
    if us.isEmpty then merase k m else minsert k us m) s.relAt }

/-- Is a write covered by a release among those given, which the reader has met (R233)? -/
def coveredBy (ts : List Tok) (e : Past) : Bool := e.rels.any (fun r => ts.any (fun t => t.like r && decide (r.seq ≤ t.seq)))

/-- The place of a pad byte; bytes of memory stand at their physical address. -/
def padPlace (bid off : Nat) : Nat := 2 ^ 64 + bid * 2 ^ 24 + off

/-- Paths as R241 tells them apart: LD and ST count as one. -/
def pathClass (p : Path) : Nat :=
  match p with
  | .ld | .st => 0
  | p => pathNo p

/-- Must a reader see a write (R190, R222, R233, R241)? On the LD and ST paths it misses only writes to UN pages, other than its
own lane's, that have not become visible to its group. An operation of another path misses a write of a different path unless an
XFENCE stands between the write's becoming visible and the operation, it has read the write before (R224), or the firing of its HTRIG
has acquired it (R298). -/
def mustSee (o : Op) (lanes : List Nat) (e : Past) : Bool :=
  let known := mfind o.gid e.vis
  let k := pathClass e.path * 8 + pathNo o.path
  if pathClass o.path = 0 then !e.un || (e.gid == o.gid && lanes.contains e.lane && pathClass e.path == 0) || known.isSome
  else
    e.seen.contains (o.gid * 8 + pathNo o.path) || coveredBy o.toks e ||
    (if pathClass e.path = pathClass o.path then !e.un || known.isSome
     else (e.gid == o.gid && decide (e.seq < cget 0 (64 + k) o.fenced)) || known.any (fun t => decide (t < cget 0 k o.fenced)))

/-- The byte before the writes from stamp `t` on that the reader may miss. -/
def undo (o : Op) (lanes : List Nat) (t : Nat) : Nat → List Past → Nat
  | v, [] => v
  | v, e :: es => if t ≤ e.at_ && !mustSee o lanes e then undo o lanes t e.byte es else v

/-- The byte as the write at stamp `w` left it, or `cur` where there is none. -/
def asWritten (w cur : Nat) : Nat → List Past → Nat
  | _, [] => cur
  | v, e :: es => if e.at_ = w then v else asWritten w cur e.byte es

/-- What a read may give besides the bytes as they are: them before a stamp (false), or with the write of a stamp last (true),
which two unordered writes to a UN page may be (R222). -/
def readChoices (o : Op) (lanes : List Nat) (ps : List (List Past)) : List (Bool × Nat) :=
  let es := (ps.flatMap id).filter (fun e => !mustSee o lanes e)
  (es.map (fun e => (false, e.at_)) ++ (es.filter (fun e => e.un)).map (fun e => (true, e.at_))).eraseDups

/-- Reads bytes together at one moment: the bytes given, or a free older choice; an engine that has read a write sees it from then
on (R224). -/
def readAsOne (s : State) (o : Op) (lanes : List Nat) (ks : List (Nat × Nat)) : List Nat × State :=
  let ps := ks.map (fun k => (mfind k.1 s.past).getD [])
  let cs := readChoices o lanes ps
  if cs.isEmpty then (ks.map (fun k => k.2), s)
  else
    let c := if Config.freeChoice s.fresh % (cs.length + 1) = 0 then none else cs[Config.freeChoice s.fresh % (cs.length + 1) - 1]?
    let one := fun (v : Nat) (l : List Past) => match c with
      | some (false, t) => undo o lanes t v l
      | some (true, w) => asWritten w v v l
      | none => v
    let missed := fun (e : Past) => match c with
      | some (false, t) => decide (t ≤ e.at_) && !mustSee o lanes e
      | some (true, w) => decide (w < e.at_)
      | none => false
    let me := o.gid * 8 + pathNo o.path
    let past := if pathClass o.path = 0 then s.past
      else s.past.map (fun x => if ks.any (fun k => k.1 == x.1) then
        (x.1, x.2.map (fun e => if missed e || e.seen.contains me then e else { e with seen := me :: e.seen })) else x)
    ((ks.zip ps).map (fun (k, l) => one k.2 l), { s with fresh := s.fresh + 1, past := past })

/-- Reads bytes of an access (R225): a naturally aligned one of up to 16 bytes at one moment, any other byte by byte. -/
def readPast (s : State) (o : Op) (lanes : List Nat) (whole : Bool) (ks : List (Nat × Nat)) : List Nat × State :=
  if s.past.isEmpty then (ks.map (fun k => k.2), s)
  else if whole then readAsOne s o lanes ks
  else ks.foldl (fun acc k =>
    let r := readAsOne acc.2 o lanes [k]
    (acc.1 ++ r.1, r.2)) ([], s)

/-- Is an access naturally aligned and of at most 16 bytes (R225)? -/
def isWhole (a n : Nat) : Bool := decide (n ∈ [1, 2, 4, 8, 16]) && a % n == 0

/-- The bytes that a read of memory gives, `v` being those that stand there. -/
def readOver (s : State) (o : Op) (lanes : List Nat) (whole : Bool) (pa n v : Nat) : Nat × State :=
  if s.past.isEmpty then (v, s)
  else
    let r := readPast s o lanes whole ((List.range n).map (fun i => (pa + i, bits v (8 * i) 8)))
    (ofBytes r.1, r.2)

/-- Is a write to be noted: does it change the byte, or may an older value of it still be read? -/
def toNote (s : State) (place was now : Nat) : Option (Nat × Nat) :=
  if was = now ∧ (mfind place s.past).isNone then none else some (place, was)

/-- Notes a write of an operation to places that held the given bytes. Of each place the last 8 writes are kept (log 14). -/
def notePast (s : State) (o : Op) (lane : Nat) (un : Bool) (ks : List (Nat × Nat)) : State :=
  let e : Past := { byte := 0, gid := o.gid, seq := o.seq, path := o.path, lane := lane, un := un, at_ := s.stamp + 1 }
  { s with stamp := s.stamp + 1
           past := ks.foldl (fun m k => minsert k.1 ({ e with byte := k.2 } :: ((mfind k.1 m).getD []).take 7) m) s.past }

/-- A write that every reader sees puts an end to what could be missed at its places, and to the releases that they carried. -/
def forgetPast (s : State) (ks : List Nat) : State :=
  { s with past := ks.foldl (fun m k => merase k m) s.past, relAt := if s.relAt.isEmpty then [] else ks.foldl (fun m k => merase k m) s.relAt }

/-- Is a write in the covered set of a group's release at a place in its program order that issued when `born` writes had been made
(R231)? Those of its LD and ST paths that come before, those of its other operations that had completed, and those that had become
visible to it. -/
def inRelease (s : State) (gid seq born : Nat) (e : Past) : Bool :=
  (mfind gid e.vis).any (fun t => decide (t ≤ born)) ||
  (e.gid == gid && (if pathClass e.path = 0 then decide (e.seq < seq)
    else decide (e.at_ ≤ born) && !(s.ops.any (fun o => o.gid == gid && o.seq == e.seq && o.kind != .done))))

/-- A release (R231): the writes that pass are released by it, and its own group sees them from then on (R219, R234). One that writes
nothing is met by no agent (R254). -/
def releasePast (s : State) (gid : Nat) (tok : Option Tok) (p : Past → Bool) : State :=
  { s with stamp := s.stamp + 1
           past := s.past.map (fun x => (x.1, x.2.map (fun e =>
             if p e then
               { e with vis := if (mfind gid e.vis).isSome then e.vis else minsert gid (s.stamp + 1) e.vis
                        rels := match tok with
                          | some t => if e.rels.any t.like then e.rels else t :: e.rels
                          | none => e.rels }
             else e))) }

/-- An acquire of a group at a scope that meets releases (R232, R233): where each side's scope encloses the other, what they cover becomes
visible to the group. -/
def acquired (s : State) (gid scope : Nat) (ts : List Tok) : State :=
  let me := seatOf s gid
  let ok := ts.filter (fun t => encloses t.scope t.seat me && encloses scope me t.seat)
  if ok.isEmpty then s
  else { s with stamp := s.stamp + 1
                past := s.past.map (fun x => (x.1, x.2.map (fun e =>
                  if (mfind gid e.vis).isNone && coveredBy ok e then { e with vis := minsert gid (s.stamp + 1) e.vis } else e))) }

/-- The release of a group at a place in its program order. -/
def tokOf (s : State) (gid seq scope : Nat) : Tok := { seat := seatOf s gid, scope := scope, seq := seq }

/-- A group releases at a scope (R231) what it has done before a place in its program order. -/
def released (s : State) (gid seq born scope : Nat) : State := releasePast s gid (some (tokOf s gid seq scope)) (inRelease s gid seq born)

/-- The releases that a write of an operation carries: its own, and the FENCEs with release before it (R233, R235). -/
def carriedBy (s : State) (o : Op) : List Tok :=
  let fs := ((mfind o.gid s.groups).map (fun g => g.relNow)).getD []
  joinToks (if 2 ≤ o.order then [tokOf s o.gid o.seq o.scope] else []) (fs.filter (fun t => decide (t.seq < o.seq)))

/-- An access of a group's operation has read values that carry releases: an acquire takes what they cover, and a later FENCE with acquire
may (R233, R235). -/
def meet (s : State) (o : Op) (ts : List Tok) : State :=
  if ts.isEmpty then s
  else
    let s1 := { s with groups := mmodify o.gid (fun g => { g with relSeen := joinToks g.relSeen ts }) s.groups }
    if o.order % 2 = 1 then acquired s1 o.gid o.scope ts else s1

/-- Reads translated pieces of the bytes at `va` at their homes for an operation: the value, or the first fault with its address. -/
def homePieces (o : Op) (va : Nat) (ps : List Piece) (s : State) : Except XFault Nat × State :=
  ps.foldl (fun acc p =>
    match acc.1 with
    | .error e => (.error e, acc.2)
    | .ok v =>
      if inFaulted acc.2 p.pa then (.error (2, (va + p.off) % 2 ^ 64), acc.2)
      else if isPeer acc.2 p.pa then
        let w := peerRead acc.2 o.part p.pa p.n
        (match w.1 with
         | .ok w => .ok (putBytes v p.off p.n w)
         | .error k => .error (k, (va + p.off) % 2 ^ 64), w.2)
      else
        let r := homeRead (recallOwner acc.2 (lineOf p.pa) none) p.pa p.n
        (match r.1 with
         | some w =>
           let q := readOver r.2 o [] false p.pa p.n w
           (.ok (putBytes v p.off p.n q.1), q.2)
         | none => (.error (3, (va + p.off) % 2 ^ 64), lineError (some o.part) p.pa r.2))) (.ok 0, s)

/-- An XFENCE takes its place (R240, R241). -/
def xfenceMark (p q : Nat) (s : State) (g : Group) : State :=
  let c := fun (n : Nat) => if n < 2 then 0 else n
  let ks := if q < 2 then [c p * 8, c p * 8 + 1] else [c p * 8 + q]
  setGroup { g with fenced := ks.foldl (fun m k => minsert (64 + k) g.seq (minsert k (s.stamp + 1) m)) g.fenced } { s with stamp := s.stamp + 1 }

end Sys2Proof.Machine
end

