-- ==== Sys2Proof/Machine/Order.lean ====
section
/-! DEFINITION. Outstanding operations (spec/13 R216 to R241, spec/07 R138): when an access may be performed, how results
reach registers, and how operations complete and counters fall. -/

namespace Sys2Proof.Machine

/-- Has the access a part not yet performed? -/
def Access.isOpen (a : Access) : Bool := a.st.any (fun t => t != .done)

/-- Has the operation an access not yet performed? -/
def Op.isOpen (o : Op) : Bool := o.accs.any Access.isOpen

/-- The access as far as it is not performed: without the parts that have their value or are done (R223). -/
def Access.rest (a : Access) : Access :=
  if a.pad then a
  else
    let keep := (a.pieces.zip a.st).filter (fun e => e.2 != .done && e.2 != .got)
    { a with pieces := keep.map (fun e => e.1), st := keep.map (fun e => e.2) }

/-- One part of an access by itself, for parts have no order between them (R223). -/
def Access.part (a : Access) (p : Piece) : Access := { a with pieces := [p], st := [.todo] }

/-- Is the operation complete (it may still wait for older ones of its path)? -/
def Op.finished (o : Op) : Bool := o.kind == .done

def Op.isStore (o : Op) : Bool := match o.kind with | .store => true | _ => false
def Op.isLoad (o : Op) : Bool := match o.kind with | .load _ _ _ _ => true | .pref _ => true | _ => false
/-- A prefetch, which orders nothing (R278). -/
def Op.isPref (o : Op) : Bool := match o.kind with | .pref _ => true | _ => false
def Op.isAtomic (o : Op) : Bool := match o.kind with | .atomic _ _ _ _ => true | _ => false
/-- A FENCE, or a release or acquire without an enabled lane, which orders like one (R254). -/
def Op.isFence (o : Op) : Bool := match o.kind with | .fence _ | .bare => true | _ => false
/-- An operation of the LD or ST path. -/
def Op.onLdSt (o : Op) : Bool := !o.isFence && (o.path == .ld || o.path == .st)

/-- ORDER has an acquire, a release (R65). -/
def acq (order : Nat) : Bool := order % 2 == 1
def rel (order : Nat) : Bool := decide (2 ≤ order)

/-- Do two accesses share a byte that keeps their order? A byte of a UN page does not (R221, R222). -/
def overlaps (a b : Access) : Bool :=
  if a.pad || b.pad then a.pad && b.pad && decide (a.va < b.va + b.n ∧ b.va < a.va + a.n)
  else a.pieces.any (fun p => p.kind != .un && b.pieces.any (fun q => decide (p.pa < q.pa + q.n ∧ q.pa < p.pa + p.n)))

def Access.onSO (a : Access) : Bool := a.pieces.any (fun p => p.kind == .so)
def Access.onUN (a : Access) : Bool := a.pieces.any (fun p => p.kind == .un)

/-- Earlier operations of the group. -/
def before (s : State) (o : Op) : List Op := s.ops.filter (fun e => e.gid == o.gid && decide (e.seq < o.seq))

def getBlock (s : State) (bid : Nat) : Option Block := mfind bid s.blocks

/-- The core of an operation's block. -/
def opCore (s : State) (o : Op) : Nat := ((getBlock s o.bid).map (fun b => b.core)).getD 0

/-- A scope as it stands in this package (R226): FABRIC is DEVICE outside a fabric, POOL is DEVICE with no pool link trained. -/
def scopeHere (s : State) (scope : Nat) : Nat :=
  if (scope = 5 ∧ s.fab.members.all (fun e => e.2 == 0)) ∨ (scope = 6 ∧ bits s.pool.fstat 0 4 = 0) then 4 else scope

/-- Is a part of the access not yet performed? Only FABRIC and SYSTEM wait for the copies of a multicast (R358). -/
def Access.openAt (scope : Nat) (a : Access) : Bool :=
  if a.pad then a.isOpen
  else ((List.range a.pieces.length).zip a.pieces).any (fun (j, p) => (a.st[j]?).any (fun t => t != .done) && (!isMcast p.pa || scope == 5 || scope == 7))

/-- Is an operation of the LD or ST path performed at a scope, as seen from a core (R226, R229)? A read is once its value is
fixed. A write is at GROUP at once (R190); at BLOCK, CORE and DIE once its home has applied it and no update to a core of the
scope is on its way; from DEVICE on when it is complete. -/
def performedAt (s : State) (scope core : Nat) (e : Op) : Bool :=
  e.finished || (scope == 0 && e.isStore) ||
  (!(e.accs.any (Access.openAt scope)) && !(s.updates.any (fun u => u.oid == e.oid && (reachesCore (scopeHere s scope) core u.core || reachesCore (scopeHere s scope) (opCore s e) u.core))))

/-- Is an access of another group handed to this one: has its group performed a narrower release that encloses it (R233)? -/
def handedTo (s : State) (gid : Nat) (e : Op) : Bool := e.handed != 0 && encloses (e.handed - 1) (seatOf s e.gid) (seatOf s gid)

/-- Does an operation belong to the covered set of a release that a group issues at `seq` (R231)? -/
def inCovered (s : State) (gid seq : Nat) (e : Op) : Bool :=
  e.onLdSt && !e.isPref && ((e.gid == gid && decide (e.seq < seq)) || (e.gid != gid && handedTo s gid e))

/-- Is the covered set of a release performed at its scope? -/
def coveredDone (s : State) (gid seq scope core : Nat) : Bool :=
  !(s.ops.any (fun e => inCovered s gid seq e && !performedAt s scope core e))

/-- Is the operation an annotated access of the LD, ST or NT path (R234)? -/
def Op.annotated (o : Op) : Bool := o.order != 0 && (o.onLdSt || o.path == .nt)

/-- Is its access still to be performed? -/
def Op.pending (o : Op) : Bool := !o.finished && (o.isFence || o.isOpen || o.path == .nt)

/-- Must a later access wait behind a release that waits for its covered set (R231)? -/
def releaseAhead (s : State) (e : Op) : Bool :=
  rel e.order && e.pending && !coveredDone s e.gid e.seq e.scope (opCore s e)

/-- Does the operation stand in the way of a later access of its group on the LD and ST paths? R221 and R220 (a byte they share,
SO pages; on UN pages no byte orders, R222), R231 (releases), R232 and R234 (acquires, fences, annotated accesses). -/
def standsInWay (s : State) (o : Op) (a : Access) (e : Op) : Bool :=
  if e.finished || e.isPref then false
  else if e.isFence then o.onLdSt
  else
    (e.onLdSt && e.accs.any (fun b => b.isOpen &&
      ((overlaps a b.rest && !(o.isLoad && e.isStore)) || (a.onSO && b.rest.onSO)))) ||
    (acq e.order && e.onLdSt && e.isOpen) ||
    (o.order != 0 && e.annotated && e.pending && !(e.isStore && performedAt s e.scope (opCore s e) e)) ||
    releaseAhead s e

/-- Is a release access held for its covered set (R231)? -/
def releaseHeld (s : State) (o : Op) : Bool := rel o.order && !coveredDone s o.gid o.seq o.scope (opCore s o)

/-- Do lower lanes of the same issue stand in the way (R218, R220)? -/
def laneInWay (o : Op) (a b : Access) : Bool :=
  decide (b.lane < a.lane) && b.isOpen && ((overlaps a b.rest && !o.isLoad) || (a.onSO && b.rest.onSO))

/-- The paths an XFENCE names: naming LD or ST names both (R276). -/
def fencePath (n : Nat) (p : Path) : Bool :=
  if n < 2 then p == .ld || p == .st else pathNo p == n

/-- Do the group's XFENCEs let an operation of the path go on (R240)? -/
def xfenceOk (s : State) (o : Op) : Bool :=
  match mfind o.gid s.groups with
  | none => true
  | some g => g.xfences.all (fun x => !(decide (x.seq < o.seq) && fencePath x.q o.path) ||
      !(s.ops.any (fun e => e.gid == o.gid && decide (e.seq < x.seq) && !e.finished &&
          ((!e.isFence && fencePath x.p e.path && !(e.onLdSt && performedAt s x.scope (opCore s e) e)) || (acq e.order && (e.isFence || e.isOpen)))) ||
        (x.p == 2 && g.trigq.any (fun t => decide (t.seq < x.seq)))))

/-- May an access of the LD or ST path be performed now, as far as the group's LD and ST accesses, fences and releases go? -/
def ldStMay (s : State) (o : Op) (a : Access) : Bool :=
  !((before s o).any (standsInWay s o a)) && !releaseHeld s o && !(o.accs.any (laneInWay o a)) && xfenceOk s o

/-- May an engine's operation go on: XFENCEs to its path, and earlier FENCEs and releases (R231, R240)? -/
def engineMay (s : State) (o : Op) : Bool :=
  xfenceOk s o && !((before s o).any (fun e => (e.isFence && rel e.order) || releaseAhead s e))

/-- Must an instruction that is itself a release wait: BAR, ABARV, STGP and SPAWN take their arrival, count or read once the
group's LD and ST accesses are performed at their scope (R231, log 8)? -/
def releaseWaits (s : State) (gid scope : Nat) : Bool :=
  s.ops.any (fun e => e.gid == gid && e.isFence) ||
  !coveredDone s gid ((mfind gid s.groups).elim 0 (fun g => g.seq)) scope (groupCore s gid)

def findOp (s : State) (oid : Nat) : Option Op := s.ops.find? (fun o => o.oid == oid)
def modOp (oid : Nat) (f : Op → Op) (s : State) : State := { s with ops := s.ops.map (fun o => if o.oid == oid then f o else o) }

/-- Adds an operation at the end of the list, raising its path's counter. -/
def addOp (s : State) (o : Op) : State :=
  let s1 := { s with ops := s.ops ++ [{ o with oid := s.nextOp }], nextOp := s.nextOp + 1 }
  if o.counted then modGroup o.gid (fun g => putCnt g o.path (getCnt g o.path + 1)) s1 else s1

/-- The scope of an instruction. Pad, the base code 1022, is reached by its block alone: a wider scope acts as BLOCK there (R228, R258,
R273). -/
def scopeOf (r : Raw) : Nat := if r.a = 1022 then min 1 r.scope else r.scope

/-- The operation of an issue. -/
def opOf (x : Ctx) (path : Path) (kind : OpKind) : Op :=
  { oid := 0, gid := x.g.gid, bid := x.g.bid, part := x.gr.part, seq := x.g.seq, path := path, pc := x.pc, kind := kind
    order := x.r.order, scope := scopeOf x.r, born := x.s.stamp, service := x.g.service, replay := x.inReplay, snap := some (snapOf x.g x.pc)
    named := x.named, ctr := x.g.srctr, issue := x.mask, hint := x.r.hint, fenced := x.g.fenced }

/-- A release of the group is performed (R231), of what stands before `seq` in its program order: its earlier accesses that are performed
no wider are handed on (R233), and at POOL or SYSTEM scope none of the pool lines it wrote stays dirty (R248). -/
def releaseDone (s : State) (gid seq born scope : Nat) : State :=
  let s1 := released { s with ops := s.ops.map (fun e => if inCovered s gid seq e && !e.finished then { e with handed := max e.handed (scope + 1) } else e) } gid seq born scope
  if 6 ≤ scopeHere s scope then poolClean s1 gid else s1

/-- An operation's own release is performed. -/
def opRelease (s : State) (o : Op) : State := if rel o.order then releaseDone s o.gid o.seq o.born o.scope else s

/-- A fence's release is one that the later writes of its group carry (R235); a release without an enabled lane orders the group's own
accesses alone (R254). -/
def fenceRelease (s : State) (o : Op) : State :=
  if !rel o.order then s
  else match o.kind with
    | .bare => releasePast s o.gid none (inRelease s o.gid o.seq o.born)
    | _ => modGroup o.gid (fun g => { g with relNow := joinToks g.relNow [tokOf s o.gid o.seq o.scope] }) (opRelease s o)

/-- A fence's acquire takes what the releases cover that the group's reads have met (R235). -/
def fenceAcquire (s : State) (o : Op) : State :=
  match o.kind with
  | .fence _ => if acq o.order then acquired s o.gid o.scope (((mfind o.gid s.groups).map (fun g => g.relSeen)).getD []) else s
  | _ => s

/-- Performs a completed fence: its release and its acquire, and its status, or the count of its pool fault (R275, R366): an access before
it, complete or not, was found to be in a FAULTED region (R249). -/
def fenceEnd (s0 : State) (o : Op) : State :=
  let s := fenceAcquire (fenceRelease s0 o) o
  let bad := (o.poisoned || (before s0 o).any (fun e => e.onLdSt && e.accs.any (fun a => a.fkind == 2))) && rel o.order && decide (6 ≤ o.scope)
  match o.kind with
  | .fence (some d) => modGroup o.gid (fun g => putPend (putPoison (putReg g d 0 (if bad then 1 else 0)) d 0 false) d 0 false) s
  | .fence none =>
    if bad then
      let n := min 65535 (bits s.pool.fstat 16 16 + 1)
      { s with pool := { s.pool with fstat := putBytes s.pool.fstat 2 2 n } }
    else s
  | _ => s

/-- Is a fence's condition met (R275)? An annotated instruction without an enabled lane orders as its enabled form would, so as an
acquire it waits for annotated accesses only (R234, R254). -/
def fenceReady (s : State) (o : Op) : Bool :=
  let bare := match o.kind with | .bare => true | _ => false
  !((before s o).any (fun e => !e.finished &&
    (e.isFence || (acq o.order && e.onLdSt && !e.isStore && !e.isPref && e.isOpen && (!bare || e.order != 0)) || (bare && e.annotated && e.pending)))) &&
  !releaseHeld s o

/-- Ends the fences of the list whose conditions are met, oldest first. -/
def endFences : Nat → State → State
  | 0, s => s
  | fuel + 1, s =>
    match s.ops.find? (fun o => o.isFence && fenceReady s o) with
    | none => s
    | some o => endFences fuel (fenceEnd { s with ops := s.ops.filter (fun e => e.oid != o.oid) } o)

/-- The operation without some of its parts. -/
def Op.without (o : Op) (ps : List (Nat × Nat)) : Op :=
  { o with accs := ((List.range o.accs.length).zip o.accs).map (fun (k, a) =>
      let keep := ((List.range a.pieces.length).zip (a.pieces.zip a.st)).filter (fun e => !ps.contains (k, e.1))
      if keep.length = a.pieces.length then a else { a with pieces := keep.map (fun e => e.2.1), st := keep.map (fun e => e.2.2) }) }

/-- Removes complete operations that are the oldest of their group's path; each one's counter falls (R138). -/
def fallOps : Nat → State → State
  | 0, s => s
  | fuel + 1, s =>
    match s.ops.find? (fun o => o.finished && !(s.ops.any (fun e => e.gid == o.gid && e.path == o.path && !e.isFence && decide (e.oid < o.oid)))) with
    | none => s
    | some o =>
      let s1 := { s with ops := s.ops.filter (fun e => e.oid != o.oid) }
      fallOps fuel (if o.counted then modGroup o.gid (fun g => putCnt g o.path (getCnt g o.path - 1)) s1 else s1)

/-- Forgets XFENCEs that no longer hold anything back. -/
def trimFences (s : State) : State :=
  { s with groups := s.groups.map (fun e => (e.1, { e.2 with xfences := e.2.xfences.filter (fun x =>
      e.2.trigq.any (fun t => decide (t.seq < x.seq)) || s.ops.any (fun o => o.gid == e.1 && decide (o.seq < x.seq) && (fencePath x.p o.path || acq o.order))) })) }

/-- What follows the completion of operations: counters fall, fences end. -/
def sweepOps (s : State) : State :=
  let s1 := fallOps (s.ops.length + 1) s
  trimFences (endFences (s1.ops.length + 1) s1)

/-- An access of the LD and ST paths that met a FAULTED pool region stays in the covered set of every later release of its group
(R231, R249). -/
def tellFences (s : State) (o : Op) : State :=
  if o.onLdSt && o.accs.any (fun a => a.fkind == 2) then
    modGroup o.gid (fun g => { g with poolBad := true })
      { s with ops := s.ops.map (fun e => if e.isFence && e.gid == o.gid && decide (o.seq < e.seq) then { e with poisoned := true } else e) }
  else s

/-- Completes an operation. -/
def endOp (oid : Nat) (s : State) : State :=
  match findOp s oid with
  | none => s
  | some o => sweepOps (modOp oid (fun o => { o with kind := .done }) (tellFences s o))

/-- An operation with its block. -/
def opWithBlock (s : State) (oid : Nat) : Option (Op × Block) :=
  match findOp s oid with
  | some o => if o.finished then none else (getBlock s o.bid).map (fun b => (o, b))
  | none => none

/-- The first register that the operation's result goes to. -/
def OpKind.dst : OpKind → Nat
  | .load d _ _ _ => d
  | .atomic _ _ ret _ => (ret.map (fun e => e.1)).getD 0
  | .rtrav _ d _ _ => d
  | .texf d _ _ => d
  | .wrecv d _ _ => d
  | _ => 0

/-- A poison of the operation's own in a lane reaches the group's window (R415), or is a double trap at service level (R411). In
replay it records its fault and marks nothing new (R420). `keep` are the register cells that replay leaves alone (R416). -/
def ownPoison (s : State) (o : Op) (lane fkind addr : Nat) (noRepl : Bool) (keep : List Nat) : State :=
  if o.service then partFatal o.part (opCore s o) s
  else modGroup o.gid (fun g0 =>
    let g := { g0 with win := { g0.win with keep := keep.foldl (fun m k => minsert k true m) g0.win.keep } }
    if o.replay then { g with win := { g.win with noRepl := g.win.noRepl || noRepl }.noteFault fkind addr }
    else match o.snap with
      | some n => windowPoison (noteBad o.seq (if isS o.kind.dst then o.issue else maskOf [lane]) g) n o.named fkind addr noRepl
      | none => g) s

/-- A result reaches `n` registers of a lane, which stop being pending (R14). -/
def landReg (gid code n lane val : Nat) (p : Bool) (s : State) : State :=
  modGroup gid (fun g =>
    endReplay ((List.range n).foldl (fun g k =>
      putPend (putPoison (putReg g (code + k) lane (bits val (32 * k) 32)) (code + k) lane p) (code + k) lane false) g)) s

/-- Marks registers of a lane pending; their poison goes with the result to come. -/
def pendReg (code n lane : Nat) (g : Group) : Group :=
  (List.range n).foldl (fun g k => putPend (putPoison g (code + k) lane false) (code + k) lane true) g

/-- Draws the next free value's number (log 10). -/
def draw (s : State) : Nat × State := (s.fresh, { s with fresh := s.fresh + 1 })

/-- The bytes of a block's pad (R184). -/
def padGet (b : Block) (o n : Nat) : Nat := ofBytes ((List.range n).map (fun i => (cget 0 (o + i) b.pad).toNat))

def padPut (o n v : Nat) (b : Block) : Block :=
  (List.range n).foldl (fun b i => { b with pad := cset 0 (o + i) (BitVec.ofNat 8 (bits v (8 * i) 8)) b.pad
                                            padErr := merase (o + i) b.padErr }) b

/-- Does a trigger's condition hold (R298)? -/
def trigReady (b : Block) (e : Trig) : Bool := decide (0 ≤ toSigned 32 (wrap 32 ((padGet b e.off 4 : Int) - e.thr)))

/-- Does a read of pad meet an uncorrectable byte (R186)? -/
def padBad (b : Block) (o n : Nat) : Bool := (List.range n).any (fun i => cget false (o + i) b.padErr)

/-- Tests the head entries of a block's trigger queues, unless the block is saved (R298); an entry whose test holds keeps the releases that
the word carries. The test of an uncorrectable word does not hold, and the error is reported (R186, log 83). -/
def trigNote (bid : Nat) (s : State) : State :=
  match getBlock s bid with
  | none => s
  | some b =>
    match b.place with
    | .saved _ => s
    | _ => b.groups.foldl (fun t gid => match mfind gid t.groups with
      | none => t
      | some g => match g.trigq with
        | e :: rest =>
          if e.met then t
          else if padBad b e.off 4 then
            if e.bad then t
            else softError (modGroup gid (fun h => { h with trigq := { e with bad := true } :: rest }) t) 2 (some (partOf t g)) (coreUnit b.core) 0
          else if trigReady b e then
            modGroup gid (fun h => { h with trigq := { e with met := true, toks := toksAt t ((List.range 4).map (fun i => padPlace bid (e.off + i))) } :: rest }) t
          else t
        | [] => t) s

/-- The staging area of a collective (R341). -/
def stageAt (k : OpKind) : Option Nat := match k with | .coll _ _ _ ws _ _ _ => some (bits (ws.getD 3 0) 0 21) | _ => none

/-- A block's access to pad bytes in the staging area of a collective that runs leaves its result undetermined (R344): the operation
keeps that as `poisoned`. -/
def stageTouch (bid off n : Nat) (s : State) : State :=
  { s with ops := s.ops.map (fun e => if e.bid == bid && (stageAt e.kind).any (fun t => decide (off < t + 73728 ∧ t < off + n)) then { e with poisoned := true } else e) }

/-- The `k`th access of an operation touches the pad, if it is one to pad (R344). -/
def padTouch (s : State) (o : Op) (k : Nat) : State :=
  match o.accs[k]? with
  | some a => if a.pad then stageTouch o.bid a.va a.n s else s
  | none => s

/-- What follows a write to pad ranges that took a state from `s` to `t`: operations of other paths may still miss the write (R241), its
places carry the operation's releases (R233; `rmw` keeps those they carried), and the triggers of the block are tested (R298). -/
def padDone (s t : State) (o : Op) (lane : Nat) (rmw : Bool) (rs : List (Nat × Nat)) : State :=
  match getBlock s o.bid, getBlock t o.bid with
  | some b, some c =>
    let at_ := rs.flatMap (fun r => (List.range r.2).map (fun i => r.1 + i))
    let ks := at_.filterMap (fun i => toNote s (padPlace o.bid i) (cget 0 i b.pad).toNat (cget 0 i c.pad).toNat)
    let u := carry (if ks.isEmpty then t else notePast t o lane false ks) rmw (carriedBy t o) (at_.map (padPlace o.bid))
    trigNote o.bid (rs.foldl (fun t r => stageTouch o.bid r.1 r.2 t) u)
  | _, _ => t

/-- Does an unfinished Landau job's BUF hold the line (R338)? -/
def bufWatched (s : State) (line : Nat) : Bool := s.parts.any (fun e => e.2.jobs.any (fun j => decide (j.phase < 4) && j.watch.contains line))

/-- Notes a core's write to the BUF of a job: in each byte its value may stay (R338). -/
def bufNote (s : State) (o : Op) (pa n : Nat) : State :=
  if o.onLdSt && bufWatched s (lineOf pa) then { s with bufHit := (List.range n).map (fun i => pa + i) ++ s.bufHit } else s

/-- Notes what a write of a lane replaces: on a UN page readers may miss it (R222); elsewhere those of other paths may (R241). Its places
carry the operation's releases (R233). -/
def noteWrite (s0 s : State) (o : Op) (lane : Nat) (un rmw : Bool) (pa : Nat) (bs : List Nat) : State :=
  let ks := ((List.range bs.length).zip bs).filterMap (fun (i, v) => toNote s0 (pa + i) (memByte s0 (pa + i)) v)
  bufNote (carry (if ks.isEmpty then s else notePast s o lane un ks) rmw (carriedBy s o) ((List.range bs.length).map (fun i => pa + i))) o pa bs.length

/-- The releases that an access of the LD and ST paths meets as it reads what stands at its home (R233). What a peer holds carries none
(log 14). -/
def accToks (s : State) (o : Op) (a : Access) : List Tok :=
  if s.relAt.isEmpty || (match o.kind with | .pref _ => true | _ => false) then []
  else if a.pad then toksAt s ((List.range a.n).map (fun i => padPlace o.bid (a.va + i)))
  else toksAt s (a.pieces.flatMap (fun p => if isFar s p then [] else (List.range p.n).map (fun i => p.pa + i)))

/-- Is every byte inside the block's pad (R185)? -/
def padIn (b : Block) (o : Int) (n : Nat) : Bool := decide (0 ≤ o ∧ o + n ≤ b.padSize)

/-- Does a page of a waking bank hold up the access (R182)? Pages of bank k carry numbers 64k to 64k + 63. -/
def padStalls (s : State) (b : Block) (o n : Nat) : Bool :=
  (List.range ((o + n - 1) / 1024 - o / 1024 + 1)).any (fun k =>
    match b.padPages[o / 1024 + k]? with
    | some pg => (getBank (getCore s b.core) (pg / 64)).state == 2
    | none => false)

/-- Does the block hold a page of a waking bank? An engine's operation for the block waits until the bank is ready (R182). -/
def blockStalls (s : State) (bid : Nat) : Bool :=
  match getBlock s bid with
  | some b => b.padPages.any (fun pg => (getBank (getCore s b.core) (pg / 64)).state == 2)
  | none => false

end Sys2Proof.Machine
end

