-- ==== Sys2Proof/Machine/Scene.lean ====
section
/-! DEFINITION. The ray engine's and the texture path's computations (spec/19 R313 to R322), exact over the rationals, on
records read through memory. -/

namespace Sys2Proof.Machine

/-- The rational of a finite F32. -/
def ratOf (w : Nat) : Option Rat :=
  match fval .f32 w with
  | .fin s n d => some (if s then -((n : Rat) / (d : Rat)) else (n : Rat) / (d : Rat))
  | _ => none

/-- The F32 nearest a rational (R317); zero is +0. -/
def f32Of (r : Rat) : Nat := roundTo (.fin (decide (r < 0)) r.num.natAbs r.den) .f32 .rne false 0

/-- A point or direction. -/
structure V3 where
  x : Rat
  y : Rat
  z : Rat

def V3.sub (a b : V3) : V3 := ⟨a.x - b.x, a.y - b.y, a.z - b.z⟩
def V3.dot (a b : V3) : Rat := a.x * b.x + a.y * b.y + a.z * b.z
def V3.cross (a b : V3) : V3 := ⟨a.y * b.z - a.z * b.y, a.z * b.x - a.x * b.z, a.x * b.y - a.y * b.x⟩

/-- Three finite F32 words as a point. -/
def v3Of (a b c : Nat) : Option V3 :=
  match ratOf a, ratOf b, ratOf c with
  | some x, some y, some z => some ⟨x, y, z⟩
  | _, _, _ => none

/-- A segment of a ray; an end that is none is unbounded (R317). -/
structure Ray where
  o : V3
  d : V3
  lo : Option Rat
  hi : Option Rat

/-- The ray of eight words, where it is valid (R317). -/
def rayOf (ws : List Nat) : Option Ray :=
  let w := fun (i : Nat) => ws.getD i 0
  let t0 := fval .f32 (w 6)
  let t1 := fval .f32 (w 7)
  match v3Of (w 0) (w 1) (w 2), v3Of (w 3) (w 4) (w 5) with
  | some o, some d =>
    if t0 == .nan || t1 == .nan || t0 == .inf false || t1 == .inf true || vlt t1 t0 || (d.x == 0 && d.y == 0 && d.z == 0) then none
    else some { o := o, d := d, lo := ratOf (w 6), hi := ratOf (w 7) }
  | _, _ => none

/-- Is `t` inside the segment? -/
def onSeg (lo hi : Option Rat) (t : Rat) : Bool :=
  (match lo with | some l => decide (l ≤ t) | none => true) && (match hi with | some h => decide (t ≤ h) | none => true)

/-- Cuts a segment to one axis of a box. -/
def cutAxis (o d blo bhi : Rat) (seg : Option Rat × Option Rat) : Option (Option Rat × Option Rat) :=
  if d == 0 then (if blo ≤ o ∧ o ≤ bhi then some seg else none)
  else
    let a := (blo - o) / d
    let b := (bhi - o) / d
    let t1 := if d < 0 then b else a
    let t2 := if d < 0 then a else b
    some (match seg.1 with | some l => some (if l ≤ t1 then t1 else l) | none => some t1,
          match seg.2 with | some h => some (if t2 ≤ h then t2 else h) | none => some t2)

/-- The least t of the segment that lies in a box (R318). -/
def boxMeets (r : Ray) (lo hi : V3) : Option Rat :=
  let s := ((cutAxis r.o.x r.d.x lo.x hi.x (r.lo, r.hi)).bind (cutAxis r.o.y r.d.y lo.y hi.y)).bind (cutAxis r.o.z r.d.z lo.z hi.z)
  match s with
  | some (some l, some h) => if l ≤ h then some l else none
  | _ => none

/-- Why a traversal or a sample cannot go on: a fault with its address, or a line that a peer must send. -/
inductive Halt where
  | fault (f : XFault)
  | far (p : Piece) (va : Nat)

/-- Reads a translated piece for an engine of the RY path (R200, R211, R214, R241), in single-copy-atomic pieces of 16 bytes (R320). -/
def readFor (s : State) (o : Op) (va : Nat) (p : Piece) : Except Halt Nat × State :=
  if inFaulted s p.pa then (.error (.fault (2, va)), s)
  else if isFar s p then
    match (if p.borrow && p.kind != .so then drayRead s o.part (lineOf p.pa) else none) with
    | some v => (.ok (bits v (8 * (p.pa % 128)) (8 * p.n)), s)
    | none =>
      match o.accs.find? (fun a => a.pieces.any (fun q => lineOf q.pa == lineOf p.pa)) with
      | some a => if a.fkind != 0 then (.error (.fault (a.fkind, va)), s) else (.ok (bits a.data (8 * (p.pa % 128)) (8 * p.n)), s)
      | none => (.error (.far p va), s)
  else
    let r := homeRead (recallOwner s (lineOf p.pa) none) p.pa p.n
    match r.1 with
    | some v =>
      if 16 ≤ p.n && p.pa % 16 == 0 then
        let q := (List.range (ceilDiv p.n 16)).foldl (fun acc k =>
          let n := min 16 (p.n - 16 * k)
          let w := readOver acc.2 o [] (isWhole (p.pa + 16 * k) n) (p.pa + 16 * k) n (bits v (128 * k) (8 * n))
          (putBytes acc.1 (16 * k) n w.1, w.2)) (v, r.2)
        (.ok q.1, q.2)
      else
        let q := readOver r.2 o [] (isWhole p.pa p.n) p.pa p.n v
        (.ok q.1, q.2)
    | none => (.error (.fault (3, va)), lineError (some o.part) p.pa r.2)

/-- Reads the translated pieces of an access at `va`. -/
def readPieces (s : State) (o : Op) (va : Nat) (ps : List Piece) : Except Halt Nat × State :=
  ps.foldl (fun acc p =>
    match acc.1 with
    | .error e => (.error e, acc.2)
    | .ok v =>
      let r := readFor acc.2 o ((va + p.off) % 2 ^ 64) p
      (match r.1 with | .ok w => .ok (putBytes v p.off p.n w) | .error e => .error e, r.2)) (.ok 0, s)

/-- Reads `n` bytes at a virtual address for an operation; `note` is what becomes of the operation when the access has been translated. -/
def readWith (note : List Piece → Op → Op) (s : State) (o : Op) (va n : Nat) : Except Halt Nat × State :=
  let t := xlateVa s (opCore s o) o.part o.service .rd false (va % 2 ^ 64) n
  match t.1 with
  | .error e => (.error (.fault e), t.2)
  | .ok ps => readPieces (modOp o.oid (note ps) t.2) o va ps

def readVa (s : State) (o : Op) (va n : Nat) : Except Halt Nat × State := readWith (fun _ e => e) s o va n

/-- Reads a record or a texel: the operation keeps what it has read, for later accesses of its group to the same bytes (R221). -/
def readRec (s : State) (o : Op) (va n : Nat) : Except Halt Nat × State :=
  readWith (fun ps e => { e with accs := e.accs ++ [{ act := 1, lane := 0, va := va % 2 ^ 64, n := n, pieces := ps, st := ps.map (fun _ => .done) }] }) s o va n

/-- A candidate of a traversal (R318, R319): its t, 0 for a triangle or 1 for a portal, its record's address, and the words
that RTRAV returns for it. -/
structure Cand where
  t : Rat
  cls : Nat
  at_ : Nat
  words : List Nat

/-- The order of `.CLOSEST` (R319); candidates of one record stand in slot order already. -/
def Cand.lt (a b : Cand) : Bool :=
  decide (a.t < b.t) || (a.t == b.t && (decide (a.cls < b.cls) || (a.cls == b.cls && decide (a.at_ < b.at_))))

/-- Tests a triangle record (R315, R318). -/
def triHit (r : Ray) (at_ rec : Nat) : Option Cand :=
  let w := fun (i : Nat) => bits rec (32 * i) 32
  match v3Of (w 0) (w 1) (w 2), v3Of (w 3) (w 4) (w 5), v3Of (w 6) (w 7) (w 8) with
  | some v0, some v1, some v2 =>
    let e1 := v1.sub v0
    let e2 := v2.sub v0
    let n := e1.cross e2
    let pv := r.d.cross e2
    let det := e1.dot pv
    if det == 0 then none
    else
      let tv := r.o.sub v0
      let qv := tv.cross e1
      let u := tv.dot pv / det
      let v := r.d.dot qv / det
      let t := e2.dot qv / det
      let back := decide (0 < n.dot r.d)
      if u < 0 || v < 0 || decide (1 < u + v) || !onSeg r.lo r.hi t || (bit (w 11) 0 && back) || (bit (w 11) 1 && !back) then none
      else some { t := t, cls := 0, at_ := at_
                  words := [1 + (if back then 4 else 0), f32Of t, f32Of u, f32Of v, w 9, w 10, at_ % 2 ^ 32, at_ / 2 ^ 32] }
  | _, _, _ => none

/-- What a traversal has found. -/
abbrev Found := Except Halt (List Cand) × State

/-- The triangles of a leaf (R314). -/
def leafHits (o : Op) (r : Ray) (base : Nat) : List Nat → List Cand → State → Found
  | [], cs, s => (.ok cs, s)
  | k :: ks, cs, s =>
    let at_ := (base + 48 * k) % 2 ^ 64
    let q := readRec s o at_ 48
    match q.1 with
    | .error e => (.error e, q.2)
    | .ok rec =>
      if bits rec 354 30 != 0 then (.error (.fault (3, at_)), q.2)
      else leafHits o r base ks (match triHit r at_ rec with | some c => cs ++ [c] | none => cs) q.2

/-- 2^e for a signed exponent. -/
def ratScale (e : Int) : Rat :=
  match e with
  | .ofNat j => ((2 ^ j : Nat) : Rat)
  | .negSucc j => 1 / ((2 ^ (j + 1) : Nat) : Rat)

/-- Child `c` of a node whose 128 bytes are `nd` (R313, R314, R318). `inner` enters a child node. A portal's PKG, which R316 returns and R317's
table places nowhere, reaches no register (log 87). -/
def childHits (o : Op) (r : Ray) (org : V3) (at_ nd c : Nat) (inner : Nat → List Cand → State → Found) (cs : List Cand) (s : State) : Found :=
  let kind := bits nd (128 + 2 * c) 2
  let ref := bits nd (320 + 32 * c) 32
  let lbase := bits nd 256 64
  if !bit nd (120 + c) || kind == 0 then (.ok cs, s)
  else if kind == 3 && decide (2 ^ 28 ≤ ref) then (.error (.fault (3, at_)), s)
  else
    let b := fun (k : Nat) => bits nd (576 + 48 * c + 8 * k) 8
    let sc := fun (k : Nat) => ratScale (toSigned 8 (bits nd (96 + 8 * k) 8))
    let box := fun (j : Nat) => (⟨org.x + (b j : Rat) * sc 0, org.y + (b (j + 1) : Rat) * sc 1, org.z + (b (j + 2) : Rat) * sc 2⟩ : V3)
    let emptyBox := decide (b 3 < b 0) || decide (b 4 < b 1) || decide (b 5 < b 2)
    match (if emptyBox then none else boxMeets r (box 0) (box 3)) with
    | none => (.ok cs, s)
    | some t =>
      if kind = 1 then inner ((bits nd 192 64 + 128 * ref) % 2 ^ 64) cs s
      else
        let a := (lbase + 16 * (ref % 2 ^ 28)) % 2 ^ 64
        if kind = 2 then leafHits o r a (List.range (ref / 2 ^ 28 + 1)) cs s
        else
          let q := readRec s o a 16
          match q.1 with
          | .error e => (.error e, q.2)
          | .ok rec =>
            if bits rec 32 32 != 0 then (.error (.fault (3, a)), q.2)
            else (.ok (cs ++ [{ t := t, cls := 1, at_ := a
                                words := [2 + 2 ^ 16 * bits rec 0 16, f32Of t, 0, 0, bits rec 64 32, bits rec 96 32, a % 2 ^ 32, a / 2 ^ 32] }]), q.2)

/-- Enters a node (R313, R318). `fuel` is how many inner nodes the path may still hold (R320). -/
def nodeHits (o : Op) (r : Ray) : Nat → Nat → List Cand → State → Found
  | 0, at_, _, s => (.error (.fault (3, at_)), s)
  | fuel + 1, at_, cs, s =>
    if at_ % 128 != 0 then (.error (.fault (3, at_)), s)
    else
      let q := readRec s o at_ 128
      match q.1 with
      | .error e => (.error e, q.2)
      | .ok nd =>
        match v3Of (bits nd 0 32) (bits nd 32 32) (bits nd 64 32) with
        | none => (.error (.fault (3, at_)), q.2)
        | some org =>
          if bits nd 144 48 != 0 || bits nd 960 64 != 0 || bits nd 192 7 != 0 || bits nd 256 4 != 0 then (.error (.fault (3, at_)), q.2)
          else (List.range 8).foldl (fun acc c =>
            match acc.1 with
            | .error e => (.error e, acc.2)
            | .ok cs => childHits o r org at_ nd c (nodeHits o r fuel) cs acc.2) (.ok cs, q.2)

/-- The least of the candidates. -/
def bestOf (cs : List Cand) : Option Cand :=
  cs.foldl (fun m c => match m with | some b => if c.lt b then some c else some b | none => some c) none

/-- A lane's eight result words (R317 to R319). Which triangle `.ANY` returns is free (log 15). -/
def traverse (s : State) (o : Op) (fn root : Nat) (ws : List Nat) : Except Halt (List Nat) × State :=
  let miss := List.replicate 8 0
  match rayOf ws with
  | none => (.ok miss, s)
  | some r =>
    let f := nodeHits o r 64 root [] s
    match f.1 with
    | .error e => (.error e, f.2)
    | .ok cs =>
      let tris := cs.filter (fun c => c.cls == 0)
      if fn = 1 && !tris.isEmpty then
        (.ok (((tris[Config.freeChoice f.2.fresh % tris.length]?).map (fun c => c.words)).getD miss), { f.2 with fresh := f.2.fresh + 1 })
      else (.ok (((bestOf cs).map (fun c => c.words)).getD miss), f.2)

/-- A surface record (R321). -/
structure Surf where
  base : Nat
  w : Nat
  h : Nat
  pitch : Nat
  fmt : Nat
  amu : Nat
  amv : Nat
  nearest : Bool
  border : Nat

def surfOf (v : Nat) : Surf :=
  { base := bits v 0 64, w := bits v 64 16 + 1, h := bits v 80 16 + 1, pitch := bits v 96 32, fmt := bits v 128 3
    amu := bits v 131 2, amv := bits v 133 2, nearest := bit v 135, border := bits v 160 64 }

/-- Bytes per texel. -/
def texelBytes (fmt : Nat) : Nat :=
  match fmt with
  | 0 => 4 | 1 => 8 | 2 => 16 | 3 => 8 | _ => 4

/-- The checks of a surface record (R321). -/
def surfBad (v : Nat) : Option Cause :=
  let f := surfOf v
  if bits v 136 24 != 0 || bits v 224 32 != 0 then some .reserved
  else if 5 ≤ f.fmt ∨ f.base % 16 ≠ 0 ∨ f.pitch % 16 ≠ 0 ∨ f.pitch < f.w * texelBytes f.fmt then some .operandForm
  else none

/-- The index an axis uses for `i` among `n`, none where the border stands (R322). -/
def texIndex (mode n : Nat) (i : Int) : Option Nat :=
  match mode with
  | 0 => some (i % (n : Int)).toNat
  | 1 => some (max 0 (min i ((n : Int) - 1))).toNat
  | 2 =>
    let m := (i % (2 * (n : Int))).toNat
    some (if m < n then m else 2 * n - 1 - m)
  | _ => if 0 ≤ i ∧ i < (n : Int) then some i.toNat else none

/-- The four channel values of a texel's bytes (R322). -/
def texelVals (fmt w : Nat) : List Val :=
  match fmt with
  | 0 => (List.range 4).map (fun k => .fin false (bits w (8 * k) 8) 255)
  | 1 => (List.range 4).map (fun k => fval .f16 (bits w (16 * k) 16))
  | 2 => (List.range 4).map (fun k => fval .f32 (bits w (32 * k) 32))
  | 3 => (List.range 4).map (fun k => fval .bf16 (bits w (16 * k) 16))
  | _ => [fval .f32 w, .fin false 0 1, .fin false 0 1, .fin false 1 1]

/-- The texels of a sample with their weights in 1/65536 (R322). -/
def sampleTexels (f : Surf) (u v : Val) : List ((Int × Int) × Nat) :=
  if f.nearest then [((roundInt (vmul u (.ofInt f.w)) .rdn 0, roundInt (vmul v (.ofInt f.h)) .rdn 0), 65536)]
  else
    let x := vsub .rne (vmul u (.ofInt f.w)) (.fin false 1 2)
    let y := vsub .rne (vmul v (.ofInt f.h)) (.fin false 1 2)
    let i := roundInt x .rdn 0
    let j := roundInt y .rdn 0
    let a := (roundInt (vscale (vsub .rne x (.ofInt i)) 8) .rne 0).toNat
    let b := (roundInt (vscale (vsub .rne y (.ofInt j)) 8) .rne 0).toNat
    [((i, j), (256 - a) * (256 - b)), ((i + 1, j), a * (256 - b)), ((i, j + 1), (256 - a) * b), ((i + 1, j + 1), a * b)]

/-- The channel values of the texels that count, with their weights (R322). -/
def texels (o : Op) (f : Surf) : List ((Int × Int) × Nat) → State → Except Halt (List (Nat × List Val)) × State
  | [], s => (.ok [], s)
  | ((i, j), w) :: rest, s =>
    if w = 0 then texels o f rest s
    else
      let here : Except Halt (List Val) × State :=
        match texIndex f.amu f.w i, texIndex f.amv f.h j with
        | some a, some b =>
          let q := readRec s o ((f.base + b * f.pitch + a * texelBytes f.fmt) % 2 ^ 64) (texelBytes f.fmt)
          (match q.1 with | .ok t => .ok (texelVals f.fmt t) | .error e => .error e, q.2)
        | _, _ => (.ok ((List.range 4).map (fun k => fval .bf16 (bits f.border (16 * k) 16))), s)
      match here.1 with
      | .error e => (.error e, here.2)
      | .ok t =>
        let r := texels o f rest here.2
        (match r.1 with | .ok ts => .ok ((w, t) :: ts) | .error e => .error e, r.2)

/-- A lane's four colour words (R322). -/
def sample (s : State) (o : Op) (f : Surf) (u v : Nat) : Except Halt (List Nat) × State :=
  let vu := fval .f32 u
  let vv := fval .f32 v
  if vu.notFinite || vv.notFinite then (.ok (List.replicate 4 0x7FC00000), s)
  else
    let r := texels o f (sampleTexels f vu vv) s
    match r.1 with
    | .error e => (.error e, r.2)
    | .ok ts => (.ok ((List.range 4).map (fun ch =>
        roundTo (match ts.map (fun e => vmul (.fin false e.1 65536) (e.2.getD ch .nan)) with
          | [] => .fin false 0 1
          | p :: ps => ps.foldl (vadd .rne) p) .f32 .rne false 0)), r.2)

/-- What each lane of a traversal or sample comes to. -/
def renderLanes (s : State) (o : Op) : List (Nat × Except Halt (List Nat)) × State :=
  match o.kind with
  | .rtrav fn _ root rays => rays.foldl (fun acc e =>
      let r := traverse acc.2 o fn root e.2
      (acc.1 ++ [(e.1, r.1)], r.2)) ([], s)
  | .texf _ surf uv => uv.foldl (fun acc e =>
      let r := sample acc.2 o (surfOf (wordsNum surf)) e.2.1 e.2.2
      (acc.1 ++ [(e.1, r.1)], r.2)) ([], s)
  | _ => ([], s)

/-- The lines that lanes still need from peers, as accesses. -/
def renderNeeds (rs : List (Nat × Except Halt (List Nat))) : List Access :=
  ((rs.filterMap (fun e => match e.2 with
    | .error (.far p va) => some (lineOf p.pa, (p, va))
    | _ => none)).foldl (fun (m : List (Nat × (Piece × Nat))) e => if (mfind e.1 m).isSome then m else minsert e.1 e.2 m) []).map
      (fun (line, p, va) => { act := 1, lane := 0, va := va, n := 128, pieces := [{ p with pa := line * 128, n := 128, off := 0 }], st := [.todo] })

end Sys2Proof.Machine
end

