-- ==== Sys2Proof/Machine/Engine.lean ====
section
/-! DEFINITION. What the haul engine does (spec/17 R283 to R300, spec/05 R106 to R110): its descriptors, the places its bytes
come from and go to, their faults, and the writes. What lies in a peer's HBM travels by packets (Fabric); everything else
of an operation is performed at its completion event (log 8). -/

namespace Sys2Proof.Machine

/-- A haul descriptor (R283). `mbz` says that a bit which must be zero for every instruction is not. -/
structure Desc where
  saddr : Nat
  daddr : Nat
  rowb : Nat
  rows : Nat
  spad : Bool
  dpad : Bool
  tagged : Bool
  aben : Bool
  sten : Bool
  cnten : Bool
  sstr : Int
  dstr : Int
  aboff : Nat
  ringoff : Nat
  stage : Nat
  aux : Nat
  mbz : Bool
deriving DecidableEq, Repr

def descOf (ws : List Nat) : Desc :=
  let v := wordsNum ws
  { saddr := bits v 0 64, daddr := bits v 64 64, rowb := bits v 128 24, rows := bits v 160 16
    spad := bit v 176, dpad := bit v 177, tagged := bit v 178, aben := bit v 179, sten := bit v 180, cnten := bit v 181
    sstr := toSigned 32 (bits v 192 32), dstr := toSigned 32 (bits v 224 32)
    aboff := bits v 256 21, ringoff := bits v 288 21, stage := bits v 309 11, aux := bits v 320 64
    mbz := bits v 152 8 != 0 || bits v 182 10 != 0 || bits v 277 11 != 0 }

/-- A format-block record (R106, R107); `p` is the plane count after its default. -/
structure FmtBlk where
  fmt : Nat
  blk : Nat
  p : Nat
  pbase : Nat
  sbase : Nat
  rows : Nat
deriving DecidableEq, Repr

/-- The floating format of an FMT code. -/
def fmtFloat (fmt : Nat) : FFmt :=
  match fmt with
  | 0x10 => .bf16 | 0x11 => .f16 | 0x12 => .f8a | 0x13 => .f8b | _ => .f32

/-- Is FMT a block format (R107)? -/
def isBlockFmt (fmt : Nat) : Bool := decide (fmt < 16)

/-- The default plane count (R107). -/
def defPlanes (fmt : Nat) : Nat :=
  match fmt with
  | 0x10 => 12 | 0x11 => 14 | 0x12 => 8 | 0x13 => 8 | 0x14 => 16 | _ => fmtBits fmt

def fbOf (w : Nat) : FmtBlk :=
  { fmt := bits w 0 5, blk := bits w 5 2, p := if bits w 7 5 = 0 then defPlanes (bits w 0 5) else bits w 7 5
    pbase := bits w 16 17, sbase := bits w 33 17, rows := bits w 50 7 }

/-- The record's checks (R108): the trap, if any. -/
def fbBad (w : Nat) : Option Cause :=
  if bits w 12 4 != 0 || bits w 57 7 != 0 then some .reserved
  else
    let fmt := bits w 0 5
    let pl := bits w 7 5
    let okFmt := fmt != 8 && decide (fmt ≤ 0x14)
    let okPl := pl == 0 || (if isBlockFmt fmt then pl == fmtBits fmt else decide (2 ≤ pl ∧ pl ≤ 16))
    if okFmt && okPl && decide (1 ≤ bits w 50 7 ∧ bits w 50 7 ≤ 96) then none else some .operandForm

/-- The bytes of one chunk of one row (R293). -/
def chunkBytes (f : FmtBlk) : Nat :=
  if isBlockFmt f.fmt then 16 * (120 / perContainer f.fmt) else 120 * ((fmtFloat f.fmt).width / 8)

/-- A byte's place: in pad, in memory (a piece of one byte, its virtual address in `off`), a constant, or none with its
FKIND. -/
inductive Loc where
  | pad (o : Nat)
  | mem (p : Piece)
  | lit (v : Nat)
  | bad (kind va : Nat)
deriving DecidableEq, Repr

/-- The bytes of translated pieces of an access at `va`. -/
def pieceLocs (va : Nat) (ps : List Piece) : List Loc :=
  ps.flatMap (fun p => (List.range p.n).map (fun i => .mem { p with pa := p.pa + i, n := 1, off := (va + p.off + i) % 2 ^ 64 }))

/-- The places of `k` bytes in one line, translated at the current page table for each need (R285). -/
def chunkLocs (core : Nat) (o : Op) (mc : Bool) (va k : Nat) : List Need → State → List Loc × State
  | [], s => ([], s)
  | nd :: rest, s =>
    let r := xlateVa s core o.part o.service nd mc va k
    match r.1 with
    | .error e => ((List.range k).map (fun i => .bad e.1 ((va + i) % 2 ^ 64)), r.2)
    | .ok ps => if rest.isEmpty then (pieceLocs va ps, r.2) else chunkLocs core o mc va k rest r.2

/-- An endpoint: `rows` rows of `n` bytes. -/
structure Ends where
  pad : Bool
  addr : Nat
  stride : Int
  rows : Nat
  n : Nat
deriving DecidableEq, Repr

/-- The address of row `r` (R285). -/
def Ends.row (e : Ends) (r : Nat) : Int := (e.addr : Int) + e.stride * (r : Int)

/-- The places of an endpoint's bytes, row by row. -/
def endsLocs (core : Nat) (o : Op) (mc : Bool) (needs : List Need) (e : Ends) (s : State) : List Loc × State :=
  (List.range e.rows).foldl (fun acc r =>
    if e.pad then (acc.1 ++ (List.range e.n).map (fun i => .pad ((e.row r).toNat + i)), acc.2)
    else
      let va := wrap 64 (e.row r)
      (chunks (e.n / 128 + 2) va e.n 0).foldl (fun acc c =>
        let q := chunkLocs core o mc ((va + c.1) % 2 ^ 64) c.2 needs acc.2
        (acc.1 ++ q.1, q.2)) acc) ([], s)

/-- The bytes an operation reads and the bytes it writes, in the order of R288. -/
structure Plan where
  src : List Loc := []
  dst : List Loc := []
deriving DecidableEq, Repr

/-- What an HXPOSE reads: element rows, and for a block format scale rows (R293). -/
def xposeEnds (d : Desc) (f : FmtBlk) : List Ends :=
  let e : Ends := { pad := d.spad, addr := d.saddr, stride := d.sstr, rows := f.rows, n := d.rows * chunkBytes f }
  if isBlockFmt f.fmt then [e, { pad := d.dpad, addr := d.daddr, stride := d.dstr, rows := f.rows, n := d.rows * (120 / blkLen f.blk) }] else [e]

/-- A step record (R302). -/
structure StepRec where
  ksteps : Nat
  pincA : Nat
  pincB : Nat
  sincA : Nat
  sincB : Nat
  sparse : Bool
  mbz : Bool
deriving DecidableEq, Repr

def stepOf (w : Nat) : StepRec :=
  { ksteps := bits w 0 8, pincA := bits w 8 17, pincB := bits w 25 17, sincA := bits w 42 10, sincB := bits w 52 10, sparse := bit w 62, mbz := bit w 63 }

/-- The plane and scale bytes of one step (R303). -/
def mloopExtents (fa fb : FmtBlk) (st : StepRec) (c : Nat) : List (Nat × Nat) :=
  let kc := if st.sparse then 240 else 120
  let nb := kc / blkLen fa.blk
  [((fa.pbase + c * st.pincA) * 16, fa.p * fa.rows * 16 + (if st.sparse then fa.rows * 32 else 0)),
   ((fb.pbase + c * st.pincB) * 16, (if st.sparse then 2 else 1) * fb.p * fb.rows * 16),
   (fa.sbase * 16 + c * st.sincA, fa.rows * nb), (fb.sbase * 16 + c * st.sincB, fb.rows * nb)]

/-- The operation's places at the current page table. -/
def planOf (s : State) (o : Op) : Plan × State :=
  let core := opCore s o
  match o.kind with
  | .haul kind ws fn _ pat =>
    let d := descOf ws
    let dst : Ends := { pad := d.dpad, addr := d.daddr, stride := d.dstr, rows := d.rows, n := d.rowb }
    if kind = 1 then
      let r := (xposeEnds d (fbOf pat)).foldl (fun (acc : List Loc × State) e =>
        let q := endsLocs core o false [.rd] e acc.2
        (acc.1 ++ q.1, q.2)) ([], s)
      ({ src := r.1 }, r.2)
    else
      let b := endsLocs core o (fn == 0) (if fn = 0 then [.wr] else [.wr, .at]) dst s
      if kind = 2 then ({ src := (List.range (d.rows * d.rowb)).map (fun i => .lit (bits pat (8 * (i % d.rowb % 4)) 8)), dst := b.1 }, b.2)
      else
        let a := endsLocs core o false [.rd] { pad := d.spad, addr := d.saddr, stride := d.sstr, rows := d.rows, n := d.rowb } b.2
        ({ src := a.1, dst := b.1 }, a.2)
  | .hrem ws _ _ =>
    let d := descOf ws
    let b := endsLocs core o true [.wr] { pad := false, addr := d.daddr, stride := d.dstr, rows := d.rows, n := d.rowb } s
    let a := endsLocs core o false [.rd] { pad := d.spad, addr := d.saddr, stride := d.sstr, rows := d.rows, n := d.rowb } b.2
    ({ src := a.1, dst := b.1 }, a.2)
  | _ => ({}, s)

/-- Bytes that an operation touches: memory by physical address, pad at its place; with the kind of the page. -/
structure Span where
  at_ : Nat
  n : Nat
  kind : PageKind := .rc
deriving DecidableEq, Repr

def Span.isPad (r : Span) : Bool := decide (2 ^ 64 ≤ r.at_)

/-- Do two spans share a byte? -/
def Span.meets (a b : Span) : Bool := decide (a.at_ < b.at_ + b.n ∧ b.at_ < a.at_ + a.n)

/-- The spans of translated pieces, and of an access. -/
def pieceSpans (ps : List Piece) : List Span := ps.map (fun p => { at_ := p.pa, n := p.n, kind := p.kind })
def accSpans (o : Op) (a : Access) : List Span := if a.pad then [{ at_ := padPlace o.bid a.va, n := a.n }] else pieceSpans a.pieces

/-- The spans of an endpoint, row by row; bytes that do not translate are not reached. -/
def endsSpans (s : State) (o : Op) (mc : Bool) (nd : Need) (e : Ends) : List Span :=
  (List.range e.rows).flatMap (fun r =>
    if e.n = 0 then []
    else if e.pad then [{ at_ := padPlace o.bid (e.row r).toNat, n := e.n }]
    else
      let va := wrap 64 (e.row r)
      (chunks (e.n / 128 + 2) va e.n 0).flatMap (fun c =>
        match (xlateVa s (opCore s o) o.part o.service nd mc ((va + c.1) % 2 ^ 64) c.2).1 with
        | .ok ps => pieceSpans ps
        | .error _ => []))

/-- Any byte of memory. -/
def anySpans : List Span := [{ at_ := 0, n := 2 ^ 64 }, { at_ := 0, n := 2 ^ 64, kind := .so }]

/-- The bytes that a traversal or a sample reads as its records stand now; where a record lies in a peer, what follows it may lie
anywhere. -/
def renderSpans (s : State) (o : Op) : List Span :=
  let r := renderLanes s o
  ((findOp r.2 o.oid).map (fun e => e.accs.flatMap (accSpans e))).getD [] ++ (if (renderNeeds r.1).isEmpty then [] else anySpans)

/-- The bytes that an operation is to read, and those it is to write (R221, R239). -/
def readSpans (s : State) (o : Op) : List Span :=
  match o.kind with
  | .haul 1 ws _ _ pat => (xposeEnds (descOf ws) (fbOf pat)).flatMap (endsSpans s o false .rd)
  | .haul 0 ws _ _ _ | .hrem ws _ _ =>
    let d := descOf ws
    endsSpans s o false .rd { pad := d.spad, addr := d.saddr, stride := d.sstr, rows := d.rows, n := d.rowb }
  | .gather _ _ => o.accs.flatMap (accSpans o)
  | .scatter fn ty p => o.accs.map (fun a => { at_ := padPlace o.bid (p + a.lane * redBytes fn ty), n := redBytes fn ty })
  | .mloop _ wa wb wc c _ =>
    ((List.range ((stepOf wc).ksteps - c)).flatMap (fun i => mloopExtents (fbOf wa) (fbOf wb) (stepOf wc) (c + i))).map (fun e => { at_ := padPlace o.bid e.1, n := e.2 })
  | .tileOp 3 _ off str _ ty _ _ _ => (List.range 96).map (fun i => { at_ := padPlace o.bid (off + i * str), n := 96 * (if ty = 4 then 4 else 2) })
  | .load _ _ _ _ => o.accs.flatMap (accSpans o)
  | .rtrav _ _ _ _ | .texf _ _ _ => renderSpans s o
  | _ => []

def writeSpans (s : State) (o : Op) : List Span :=
  match o.kind with
  | .haul 1 ws _ _ pat =>
    let d := descOf ws
    let f := fbOf pat
    let nb := 120 / blkLen f.blk
    if d.rows = 0 then []
    else [{ at_ := padPlace o.bid (f.pbase * 16), n := d.rows * 16 * f.p * f.rows }, { at_ := padPlace o.bid (f.sbase * 16), n := d.rows * f.rows * nb }]
  | .haul _ ws fn _ _ =>
    let d := descOf ws
    endsSpans s o (fn == 0) .wr { pad := d.dpad, addr := d.daddr, stride := d.dstr, rows := d.rows, n := d.rowb }
  | .hrem ws _ _ =>
    let d := descOf ws
    endsSpans s o true .wr { pad := false, addr := d.daddr, stride := d.dstr, rows := d.rows, n := d.rowb } ++ o.accs.flatMap (accSpans o)
  | .gather _ p => o.accs.map (fun a => { at_ := padPlace o.bid (p + a.lane * a.n), n := a.n })
  | .scatter _ _ _ | .hsig _ _ | .store | .atomic _ _ _ _ => o.accs.flatMap (accSpans o)
  | .tileOp 4 _ off str _ ty _ _ _ => (List.range 96).map (fun i => { at_ := padPlace o.bid (off + i * str), n := 96 * (if ty = 4 then 4 else 2) })
  | _ => []

/-- An entry of a trigger queue as the operation it will be (R217). -/
def trigOp (s : State) (g : Group) (e : Trig) : Op :=
  { oid := s.nextOp, gid := g.gid, bid := g.bid, part := partOf s g, seq := e.seq, path := .hl, pc := e.pc
    kind := .haul 0 e.desc e.fn e.ty 0, service := e.service, fenced := e.fenced }

/-- The group's operations before `seq` that are not yet finished, with the copies that wait for their trigger, which stand at the issue of
their HTRIG (R217, R298). -/
def started (s : State) (gid seq : Nat) : List Op :=
  s.ops.filter (fun e => e.gid == gid && decide (e.seq < seq) && !e.finished && !e.isFence) ++
  (match mfind gid s.groups with
   | some g => (g.trigq.filter (fun t => decide (t.seq < seq))).map (trigOp s g)
   | none => [])

/-- Do spans share a byte that keeps the order of accesses: in pad and on RC and SO pages (R221, R258)? -/
def spansMeet (ws rs : List Span) : Bool := ws.any (fun w => (w.isPad || w.kind != .un) && rs.any w.meets)

/-- Are there accesses to SO pages in both? -/
def soBoth (ws rs : List Span) : Bool :=
  let so := fun (r : Span) => !r.isPad && r.kind == .so
  ws.any so && rs.any so

/-- Does an earlier operation of an engine stand in the way of an access on the LD and ST paths (R220, R221)? -/
def engineInWay (s : State) (o : Op) (a : Access) : Bool :=
  let es := (started s o.gid o.seq).filter (fun e => !e.onLdSt)
  if es.isEmpty then false
  else
    let sp := accSpans o a
    es.any (fun e => spansMeet sp (writeSpans s e) || (!o.isLoad && spansMeet sp (readSpans s e)) || soBoth sp (readSpans s e ++ writeSpans s e))

/-- Does a byte that is read travel by packet? One served by a valid dray sector does not (R211). -/
def isFarRead (s : State) (o : Op) (p : Piece) : Bool :=
  isFar s p && !(p.borrow && p.kind != .so && (drayRead s o.part (lineOf p.pa)).isSome)

def isHrem (o : Op) : Bool := match o.kind with | .hrem _ _ _ => true | _ => false
def isWsend (o : Op) : Bool := match o.kind with | .wsend => true | _ => false

/-- The operator and type of a reducing operation; FN 0 copies. -/
def redOf (o : Op) : Nat × Nat :=
  match o.kind with
  | .haul 0 _ fn ty _ => (fn, ty)
  | .scatter fn ty _ => (fn, ty)
  | _ => (0, 0)

/-- The fault of a byte that does not translate. An HREM's that lies in the pool lies outside what it may reach, whatever the state of the
region (R295). -/
def badFault (o : Op) (kind va : Nat) : Option XFault := some (if isHrem o && kind == 2 then 5 else kind, va)

/-- The fault of a source byte (R287, R295). -/
def srcFault (s : State) (o : Op) (b : Block) : Loc → Option XFault
  | .bad k va => badFault o k va
  | .pad x => if cget false x b.padErr then some (3, x) else none
  | .lit _ => none
  | .mem p =>
    if isHrem o && decide (2 ^ 42 ≤ p.pa) then some (5, p.off)
    else if inFaulted s p.pa then some (2, p.off)
    else if !isFar s p && lineBad s p.pa then some (3, p.off)
    else none

/-- The package of a peer address. -/
def peerOf (s : State) (pa : Nat) : Option Nat :=
  match paKind s pa with
  | .peer q _ => some q
  | _ => none

/-- Does an address belong to a package, this one or another: in its HBM, or in the multicast aperture with the package in the group's tree (R358)? -/
def reachesPkg (s : State) (q pa : Nat) : Bool :=
  match paKind s pa with
  | .peer r _ => r == q
  | .hbm _ => s.pkg == q
  | .mcast g _ => (mcEntry s g).any (fun e => e.tree.any (fun t => bits t 0 9 == q))
  | _ => false

/-- The fault of a destination byte; `peer` is the package of an HREM's first byte (R287, R295). -/
def dstFault (s : State) (o : Op) (b : Block) (peer : Option Nat) : Loc → Option XFault
  | .bad k va => badFault o k va
  | .pad x => if (redOf o).1 != 0 && cget false x b.padErr then some (3, x) else none
  | .lit _ => none
  | .mem p =>
    if isHrem o && (peer.isNone || peerOf s p.pa != peer) then some (5, p.off)
    else if inFaulted s p.pa then some (2, p.off)
    else if (redOf o).1 != 0 && p.kind == .un then some (4, p.off)
    else if (redOf o).1 != 0 && !isFar s p && lineBad s p.pa then some (3, p.off)
    else none

/-- The package an HREM writes to. -/
def hremPeer (s : State) (pl : Plan) : Option Nat :=
  match pl.dst.head? with
  | some (.mem p) => peerOf s p.pa
  | _ => none

/-- A fault that ends an operation, with the place of a data error in this package (R186, R200). -/
abbrev Trouble := XFault × Option Loc

/-- The fault of a byte as the operation's. -/
def troubleAt (f : Loc → Option XFault) (l : Loc) : Option Trouble := (f l).map (fun x => (x, if x.1 = 3 then some l else none))

/-- A fault that came back from a peer, which reports a data error itself. -/
def farFault (o : Op) : Option Trouble := (o.accs.find? (fun a => a.fkind != 0)).map (fun a => ((a.fkind, a.va), none))

/-- The first fault of a plan, in the order of its bytes; a fault that came back from a peer comes first. -/
def planFault (s : State) (o : Op) (b : Block) (pl : Plan) : Option Trouble :=
  match farFault o with
  | some f => some f
  | none =>
    let f := srcFault s o b
    let g := dstFault s o b (hremPeer s pl)
    let i := pl.src.findIdx (fun l => (f l).isSome)
    let j := pl.dst.findIdx (fun l => (g l).isSome)
    if i < pl.src.length ∧ (i ≤ j ∨ pl.dst.length ≤ j) then (pl.src[i]?).bind (troubleAt f) else (pl.dst[j]?).bind (troubleAt g)

/-- A byte read from a peer. -/
def farByte (o : Op) (pa : Nat) : Nat :=
  match o.accs.find? (fun a => a.act == 1 && a.pieces.any (fun p => decide (p.pa ≤ pa ∧ pa < p.pa + p.n))) with
  | some a => bits a.data (8 * (pa % 128)) 8
  | none => 0

/-- The value of a source byte. -/
def srcByte (s : State) (o : Op) (b : Block) : Loc → Nat
  | .pad x => (cget 0 x b.pad).toNat
  | .lit v => v
  | .bad _ _ => 0
  | .mem p =>
    if isFarRead s o p then farByte o p.pa
    else if (mfind p.pa o.view).isSome then cget 0 p.pa o.view
    else if isFar s p then bits ((drayRead s o.part (lineOf p.pa)).getD 0) (8 * (p.pa % 128)) 8
    else memByte s p.pa

/-- A key that tells places apart. -/
def locKey : Loc → Nat
  | .pad x => 2 ^ 60 + x
  | .mem p => p.pa
  | .lit _ => 2 ^ 61
  | .bad _ _ => 2 ^ 61

/-- A destination byte with the bytes it may receive. -/
abbrev DstTab := List (Nat × (Loc × List Loc))

def dstTab (pl : Plan) : DstTab :=
  (pl.src.zip pl.dst).foldl (fun m (a, d) =>
    minsert (locKey d) (d, (((mfind (locKey d) m).map (fun e => e.2)).getD []) ++ [a]) m) []

/-- The byte that a destination receives (R285): of several writes one, and of a source byte that the operation also writes
either the original or what was written there; which, is free (log 16). -/
def pickByte (s : State) (o : Op) (b : Block) (tab : DstTab) : Nat → Nat → List Loc → Nat
  | 0, _, cs => srcByte s o b (cs.headD (.lit 0))
  | fuel + 1, at_, cs =>
    let c := (cs[Config.freeChoice (s.fresh + 2 * at_) % cs.length]?).getD (.lit 0)
    match mfind (locKey c) tab with
    | some (_, ds) => if Config.freeChoice (s.fresh + 2 * at_ + 1) % 2 = 0 then srcByte s o b c
        else pickByte s o b tab fuel (tab.findIdx (fun e => e.1 == locKey c)) ds
    | none => srcByte s o b c

/-- Places written, with their bytes. -/
abbrev Writes := List (Loc × Nat)

/-- Is the byte on an SO page? -/
def onSoPage : Loc → Bool
  | .mem p => p.kind == .so
  | _ => false

/-- A copy to SO pages, byte after byte (R285). -/
def soCopy (s : State) (o : Op) (b : Block) (pl : Plan) : Writes :=
  ((pl.src.zip pl.dst).foldl (fun (acc : Writes × List (Nat × Nat)) (a, d) =>
    let v := (mfind (locKey a) acc.2).getD (srcByte s o b a)
    (acc.1 ++ [(d, v)], minsert (locKey d) v acc.2)) ([], [])).1

/-- What a copy, fill or HREM writes. A byte of an SO page keeps the last of several writes to it (R285). -/
def copyWrites (s : State) (o : Op) (b : Block) (pl : Plan) : Writes × State :=
  if pl.dst.all onSoPage then (soCopy s o b pl, s) else
  let tab := (dstTab pl).map (fun e => if onSoPage e.2.1 then (e.1, (e.2.1, e.2.2.drop (e.2.2.length - 1))) else e)
  if tab.any (fun e => decide (1 < e.2.2.length) || e.2.2.any (fun c => (mfind (locKey c) tab).isSome)) then
    (((List.range tab.length).zip tab).map (fun (i, e) => (e.2.1, pickByte s o b tab tab.length i e.2.2)),
     { s with fresh := s.fresh + 2 * tab.length })
  else (tab.map (fun e => (e.2.1, srcByte s o b (e.2.2.headD (.lit 0)))), s)

/-- Makes the homes ready for an engine's access to the places: host halves come back and exclusive owners are recalled. -/
def claimLocs (s : State) (ls : List Loc) : State :=
  let halves := (ls.filterMap (fun l => match l with | .mem p => if isFar s p then none else some (p.pa / 64) | _ => none)).eraseDups
  halves.foldl (fun t h => recallOwner (claimHalf t (h * 64) 64) (lineOf (h * 64)) none) s

/-- An engine's write of bytes of one line (R200, R201, R265). Copies in L1 are dropped, which an eviction may do at any
time. -/
def lineWrite (s : State) (part line : Nat) (bs : List (Nat × Nat)) (cmp : Bool) : State :=
  let whole := (List.range 128).all (fun i => bs.any (fun e => e.1 == i))
  let s1 := l1Drop (recallOwner (bs.foldl (fun t e => claimHalf t (line * 128 + e.1) 1) s) line none) line (fun _ => true)
  if lineBad s1 (line * 128) && !whole then lineError (some part) (line * 128) s1
  else
    let s2 := bs.foldl (fun t e => memPut t (line * 128 + e.1) e.2) s1
    let s3 := retag { s2 with lineErr := merase line s2.lineErr } line cmp
    forgetPast (bs.foldl (fun t e => drayWrite t part (line * 128 + e.1) [e.2]) s3) (bs.map (fun e => line * 128 + e.1))

/-- The place of a byte here, in pad or memory. -/
def locPlace (s : State) (o : Op) : Loc → Option Nat
  | .pad x => some (padPlace o.bid x)
  | .mem p => if isFar s p then none else some p.pa
  | _ => none

/-- What an operation's writes replace, noted for readers that may miss it (R222, R241); `un` picks the bytes of UN pages. -/
def noteLocs (s t : State) (o : Op) (b : Block) (un : Bool) (ws : Writes) : State :=
  let isUn := fun (l : Loc) => match l with | .mem p => p.kind == .un | _ => false
  let ks := ws.filterMap (fun (l, v) => match locPlace s o l with
    | some k => if isUn l == un then toNote s k (srcByte s { o with view := [] } b l) v else none
    | none => none)
  if ks.isEmpty then t else notePast t o 0 un ks

/-- Writes bytes at their places; those in a peer's HBM went by packet. They carry the releases of FENCEs before the operation (R235);
`rmw` says that the bytes were read first. -/
def writeLocs (s : State) (o : Op) (rmw : Bool) (ws : Writes) : State :=
  let pads := ws.filterMap (fun (l, v) => match l with | .pad x => some (x, v) | _ => none)
  let lines := ws.foldl (fun (m : List (Nat × (Bool × List (Nat × Nat)))) (l, v) => match l with
    | .mem p => if isFar s p then m else
        let e := (mfind (lineOf p.pa) m).getD (p.cmp, [])
        minsert (lineOf p.pa) (e.1, e.2 ++ [(p.pa % 128, v)]) m
    | _ => m) []
  let s1 := modBlock o.bid (fun b => pads.foldl (fun b e => padPut e.1 1 e.2 b) b) s
  let s2 := lines.foldl (fun t e => poolMark (lineWrite t o.part e.1 e.2.2 e.2.1) o.gid (e.1 * 128)) s1
  match getBlock s o.bid with
  | some b =>
    let t := noteLocs s (noteLocs s { s2 with past := s.past, relAt := s.relAt } o b false ws) o b true ws
    trigNote o.bid (carry t rmw (carriedBy t o) (ws.filterMap (fun w => locPlace s o w.1)))
  | none => s2

/-- The bytes an operation reads here as it may see them (R239, R241): its view of memory and its pad. -/
def viewOf (s : State) (o : Op) (b : Block) (ls : List Loc) : Op × Block × State :=
  if s.past.isEmpty then (o, b, s)
  else
    let us := (ls.filter (fun l => match locPlace s o l with | some k => (mfind k s.past).isSome | none => false)).eraseDups
    let r := readPast s o [] false (us.map (fun l => ((locPlace s o l).getD 0, srcByte s o b l)))
    (us.zip r.1).foldl (fun acc (l, v) => match l with
      | .pad x => (acc.1, { acc.2.1 with pad := cset 0 x (BitVec.ofNat 8 v) acc.2.1.pad }, acc.2.2)
      | .mem p => ({ acc.1 with view := minsert p.pa v acc.1.view }, acc.2.1, acc.2.2)
      | _ => acc) (o, b, r.2)

/-- The block whose pad an engine's operation sees in the ranges it reads (R241). -/
def padView (s : State) (o : Op) (b : Block) (rs : List (Nat × Nat)) : Block × State :=
  let r := viewOf s o b (s.past.filterMap (fun e =>
    let off := e.1 - padPlace o.bid 0
    if padPlace o.bid 0 ≤ e.1 ∧ rs.any (fun x => decide (x.1 ≤ off ∧ off < x.1 + x.2)) then some (Loc.pad off) else none))
  (r.2.1, r.2.2)

/-- Splits a list into elements of `w` bytes. -/
def elems (w : Nat) : Nat → List Loc → List (List Loc)
  | 0, _ => []
  | fuel + 1, ls => if ls.isEmpty then [] else ls.take w :: elems w fuel (ls.drop w)

/-- Is a reducing step on the element performed near: in the pool or host memory (R193, R289)? Its first byte, if so. -/
def nearStep (s : State) : List Loc → Option Piece
  | .mem p :: _ => if 2 ^ 42 ≤ p.pa && !isFar s p then some p else none
  | _ => none

/-- Makes an element ready for a reducing step: its home, or near, where the core takes ownership (R193, R289). -/
def stepReady (s : State) (o : Op) (dst : List Loc) : State :=
  match nearStep s dst with
  | some p => takeOwner (claimHalf s p.pa dst.length) (lineOf p.pa) (opCore s o) false
  | none => claimLocs s dst

/-- Writes the result of a reducing step; near, into the copy that the core owns, and a dray sector of the line is invalidated (R211,
R289). -/
def stepInto (s : State) (o : Op) (ws : Writes) : State :=
  match nearStep s (ws.map (fun w => w.1)) with
  | some p =>
    let line := lineOf p.pa
    let bs := ws.map (fun w => w.2)
    let t := publishOwn (poolMark (homeWrite s (some o.part) p.pa bs p.cmp false) o.gid p.pa) o.oid (opCore s o) p.pa bs
    drayDrop (setDir (noteWrite s t o 0 (p.kind == .un) true p.pa bs) line { dirOf t line with ownAtoms := (dirOf t line).ownAtoms + 1 }) o.part line
  | none => writeLocs s o true ws

/-- A reducing step on one local element (R288, R289). The source is as it was when the operation started or as an earlier
step left it; which, is free (R285). -/
def reduceStep (s0 : State) (b0 : Block) (o : Op) (s : State) (e : List Loc × List Loc) : State :=
  match getBlock s o.bid with
  | none => s
  | some b =>
    let was := ofBytes (e.1.map (srcByte s0 o b0))
    let now := ofBytes (e.1.map (srcByte s o b))
    let v := if was = now then was else if Config.freeChoice s.fresh % 2 = 0 then was else now
    let s1 := if was = now then s else { s with fresh := s.fresh + 1 }
    let s2 := stepReady s1 o e.2
    let r := redStep (redOf o).1 (redOf o).2 (ofBytes (e.2.map (srcByte s2 { o with view := [] } b))) v
    stepInto s2 o (e.2.zip (bytesOf e.2.length r))

/-- Is an element outside this package? -/
def farElem (s : State) (e : List Loc) : Bool := e.any (fun l => match l with | .mem p => isFar s p | _ => false)

/-- The bytes an HXPOSE writes (R294), from the values of its sources; `ok` says which source bytes could be read, `own` which of them it
writes too. The places of a chunk that reads such a byte stand apart: what they receive depends on whether the byte was read as it was or
as already written, which is not determined (R285, log 82). Bad containers are counted. -/
def xposeWrites (d : Desc) (f : FmtBlk) (vals : List Nat) (ok own : List Bool) : Writes × List Loc × Nat :=
  let C := d.rows
  let cb := chunkBytes f
  let L := blkLen f.blk
  let nb := 120 / L
  let rowN := C * cb
  let scales := vals.drop (f.rows * rowN)
  let work := (List.range f.rows).flatMap (fun i => (List.range C).map (fun c => (i, c)))
  work.foldl (fun (acc : Writes × List Loc × Nat) (i, c) =>
    let mine := fun (l : List Bool) => (l.drop (i * rowN + c * cb)).take cb ++ (l.drop (f.rows * rowN + i * C * nb + c * nb)).take nb
    let here := (vals.drop (i * rowN + c * cb)).take cb
    if !((mine ok).all id) then acc
    else
      let chunk := ofBytes here
      let per := perContainer f.fmt
      let badC := fun (m : Nat) => containerBad f.fmt (bits chunk (128 * m) 128)
      let blocks : List (List Int × Nat) := (List.range nb).map (fun j =>
        if isBlockFmt f.fmt then
          let qs := (List.range L).map (fun k => containerElem f.fmt (bits chunk (128 * ((j * L + k) / per)) 128) ((j * L + k) % per))
          if (List.range L).any (fun k => badC ((j * L + k) / per)) then (qs.map (fun _ => 0), 0x80)
          else (qs, scales.getD (i * C * nb + c * nb + j) 0)
        else
          let e := (fmtFloat f.fmt).width
          alignBlock ((List.range L).map (fun k => fval (fmtFloat f.fmt) (bits chunk (e * (j * L + k)) e))) f.p)
      let qs := blocks.flatMap (fun x => x.1)
      let planes := ((List.range f.p).zip (planesOf f.p qs)).flatMap (fun (u, w) =>
        ((List.range 16).zip (bytesOf 16 (planeWord w))).map (fun (k, v) => (Loc.pad ((f.pbase + c * f.p * f.rows) * 16 + (u * f.rows + i) * 16 + k), v)))
      let sc := ((List.range nb).zip blocks).map (fun (j, x) => (Loc.pad (f.sbase * 16 + c * f.rows * nb + i * nb + j), x.2))
      let bads := if isBlockFmt f.fmt then ((List.range (120 / per)).filter badC).length else 0
      if (mine own).any id then (acc.1, acc.2.1 ++ (planes ++ sc).map (fun w => w.1), acc.2.2 + bads)
      else (acc.1 ++ planes ++ sc, acc.2.1, acc.2.2 + bads)) ([], [], 0)

/-- Of several writes to one place one remains, whichever (R285). -/
def oneOfEach (s : State) (ws : Writes) : Writes × State :=
  let tab := ws.foldl (fun (m : List (Nat × (Loc × List Nat))) (l, v) => minsert (locKey l) (l, ((mfind (locKey l) m).map (fun e => e.2)).getD [] ++ [v]) m) []
  if tab.length = ws.length then (ws, s)
  else (((List.range tab.length).zip tab).map (fun (i, e) => (e.2.1, (e.2.2[Config.freeChoice (s.fresh + i) % e.2.2.length]?).getD 0)), { s with fresh := s.fresh + tab.length })

/-- What an HXPOSE writes, with its soft-error events for bad containers, whose unit is the core's (log 81). -/
def xposeAll (s : State) (o : Op) (b : Block) (d : Desc) (f : FmtBlk) (src : List Loc) (ok : Loc → Bool) : Writes × State :=
  let outs := (writeSpans s o).map (fun r => (r.at_ - padPlace o.bid 0, r.n))
  let own := src.map (fun l => match l with | .pad x => outs.any (fun r => decide (r.1 ≤ x ∧ x < r.1 + r.2)) | _ => false)
  let r := xposeWrites d f (src.map (srcByte s o b)) (src.map ok) own
  let s1 := (List.range r.2.2).foldl (fun t _ => softError t 8 (some o.part) (coreUnit b.core) 0) s
  let free := ((List.range r.2.1.length).zip r.2.1).map (fun (i, l) => (l, (Config.freeByte (s1.fresh + i)).toNat))
  let s2 := { s1 with fresh := s1.fresh + r.2.1.length }
  if (writeSpans s o).any (fun a => (writeSpans s o).any (fun c => a != c && a.meets c)) then oneOfEach s2 (r.1 ++ free) else (r.1 ++ free, s2)

/-- Each byte is written or not, freely (R287). -/
def keepSome (s : State) (ws : Writes) : Writes × State :=
  ((((List.range ws.length).zip ws).filter (fun (i, _) => Config.freeChoice (s.fresh + i) % 2 = 1)).map (fun e => e.2), { s with fresh := s.fresh + ws.length })

/-- The bytes an operation delivers (R286). -/
def delivered (o : Op) : Nat :=
  match o.kind with
  | .haul 1 ws _ _ pat => (descOf ws).rows * (fbOf pat).rows * (16 * (fbOf pat).p + 120 / blkLen (fbOf pat).blk)
  | .haul _ ws _ _ _ => (descOf ws).rows * (descOf ws).rowb
  | .hrem ws _ _ => (descOf ws).rows * (descOf ws).rowb
  | _ => 0

/-- The operation's descriptor. -/
def opDesc (o : Op) : Option Desc :=
  match o.kind with
  | .haul _ ws _ _ _ => some (descOf ws)
  | .hrem ws _ _ => some (descOf ws)
  | _ => none

/-- Does the operation move nothing (R284)? -/
def movesNothing (o : Op) : Bool :=
  match o.kind with
  | .haul 1 ws _ _ _ => (descOf ws).rows == 0
  | .haul _ ws _ _ _ => (descOf ws).rows == 0 || (descOf ws).rowb == 0
  | .hrem ws _ _ => (descOf ws).rows == 0 || (descOf ws).rowb == 0
  | _ => false

/-- The completion actions (R286): none where the stage post fails. -/
def doneActs (b : Block) (d : Desc) (n : Nat) : Option Block :=
  let b1 := if d.aben then padPut d.aboff 16 (abWord (abDeliver n (abOf (padGet b d.aboff 16)))) b else b
  let ring := padGet b1 d.ringoff 8
  let b2 := if d.sten then (if stgBad ring then none else (stgPost true ring d.stage).map (fun w => padPut d.ringoff 8 w b1)) else some b1
  b2.map (fun b2 =>
    let at_ := bits d.aux 0 21
    if d.cnten then padPut at_ 4 ((padGet b2 at_ 4 + 1) % 2 ^ 32) b2 else b2)

/-- Records a haul fault (R287): only the first until the trap is taken. -/
def recordFault (o : Op) (f : XFault) (s : State) : State :=
  modGroup o.gid (fun g => { g with hfault := match g.hfault with
    | some h => some h
    | none => some { fkind := f.1, addr := f.2, pc := o.pc, path := o.path } }) s

/-- Reports the data error that ended an operation (R186, R200, R432). -/
def reportAt (o : Op) (s : State) : Option Loc → State
  | some (.pad _) => softError s 2 (some o.part) (coreUnit (opCore s o)) 0
  | some (.mem p) => lineError (some o.part) p.pa s
  | _ => s

/-- Ends an operation faulted. -/
def endFaulted (o : Op) (t : Trouble) (s : State) : State := endOp o.oid (recordFault o t.1 (reportAt o s t.2))

/-- The pad words that an operation's completion actions change (R286). -/
def doneWords (d : Desc) : List (Nat × Nat) :=
  (if d.aben then [(d.aboff, 16)] else []) ++ (if d.sten then [(d.ringoff, 8)] else []) ++ (if d.cnten then [(bits d.aux 0 21, 4)] else [])

/-- What stands for an engine's operation where a group is named. -/
def engineGid (o : Op) : Nat := 2 ^ 40 + o.oid

/-- The release at a scope that an operation's completion is, of its own writes: at BLOCK scope for one of the haul engine (R286), at SYSTEM
scope for a Landau job (R339). -/
def doneRelease (scope : Nat) (o : Op) (s : State) : State × Tok :=
  let t : Tok := { seat := { seatOf s o.gid with gid := engineGid o }, scope := scope }
  (releasePast s o.gid (some t) (fun e => e.gid == o.gid && e.seq == o.seq && e.path == o.path), t)

/-- Completes a haul operation: its completion actions, a release at BLOCK scope of its writes (R286). It ends faulted where the post fails, with an
address that the spec does not say (log 41), and where an action would read an uncorrectable word (R186, log 83). -/
def endHaul (o : Op) (d : Desc) (s : State) : State :=
  match getBlock s o.bid with
  | none => s
  | some b =>
    let ws := doneWords d
    match ws.find? (fun w => padBad b w.1 w.2), doneActs b d (delivered o) with
    | some w, _ => endFaulted o ((3, w.1), some (.pad w.1)) s
    | none, some b1 =>
      if ws.isEmpty then endOp o.oid s
      else
        let r := doneRelease 1 o s
        let s1 := padDone r.1 (setBlock b1 r.1) o 0 true ws
        endOp o.oid (carry s1 true [r.2] (ws.flatMap (fun w => (List.range w.2).map (fun i => padPlace o.bid (w.1 + i)))))
    | none, none => endFaulted o ((6, Config.freeChoice s.fresh % 2 ^ 64), none) { s with fresh := s.fresh + 1 }

/-- Does a multicast line of an operation still wait for a package (R357, R358)? -/
def mcPending (s : State) (oid line q : Nat) : Bool :=
  s.fab.tags.any (fun t => t.2.1 == oid && t.2.2.2 == line && (mfind t.1 s.fab.mcWait).any (fun es => es.any (fun x => bits x 0 9 == q && !bit x 15)))

/-- Has an operation a write to a package's HBM that its home has not acknowledged (R247, R358)? -/
def reaches (s : State) (q : Nat) (e : Op) : Bool :=
  let open_ := fun (a : Access) => ((List.range a.pieces.length).zip a.pieces).any (fun (j, p) =>
    match a.st[j]? with
    | some .todo => reachesPkg s q p.pa
    | some .sent => if isMcast p.pa then mcPending s e.oid (lineOf p.pa) q else reachesPkg s q p.pa
    | _ => false)
  (!e.isLoad && e.accs.any (fun a => a.act != 1 && open_ a)) ||
  (!e.onLdSt && !(e.accs.any (fun a => decide (2 ≤ a.act) && a.lane == 0)) && (writeSpans s e).any (fun r => !r.isPad && reachesPkg s q r.at_))

/-- Is a release access to a peer held for the group's earlier stores, non-returning atomics and haul and HREM writes to that peer,
at every scope (R247)? -/
def peerHeld (s : State) (o : Op) (a : Access) : Bool :=
  rel o.order && a.pieces.any (fun p => match peerOf s p.pa with
    | some q => (started s o.gid o.seq).any (reaches s q)
    | none => false)

/-- May an access of the LD or ST path be performed now? A prefetch waits for no access (R278). -/
def mayPerform (s : State) (o : Op) (a : Access) : Bool :=
  if o.isPref then xfenceOk s o else ldStMay s o a && !engineInWay s o a && !peerHeld s o a

/-- Is an earlier operation of the group in the way of an engine's (R220, R221, R239)? A later one may read before an earlier has
written; its writes keep their place. -/
def orderHeld (s : State) (o : Op) : Bool :=
  let es := (started s o.gid o.seq).filter (fun e => !e.onLdSt || e.isOpen)
  if es.isEmpty then false
  else
    let w := writeSpans s o
    let all := w ++ readSpans s o
    es.any (fun e =>
      let old := readSpans s e ++ writeSpans s e
      spansMeet w old || soBoth all old)

/-- Must an engine's operation wait: for XFENCEs and FENCEs, for earlier operations on its bytes, and as a release for the accesses
before it (R231, R234, R240, R247)? -/
def engineHeld (s : State) (o : Op) : Bool :=
  !engineMay s o || blockStalls s o.bid || orderHeld s o ||
  (rel o.order && (releaseHeld s o || o.accs.any (peerHeld s o) ||
    (before s o).any (fun e => e.isFence || (e.annotated && e.pending))))

/-- May the `k`th access of an engine's operation, which is not held, leave for a peer? A write waits for the group's earlier accesses to its bytes
(R246), and for a lower lane's to the same bytes (R218, R300); accesses to SO pages leave one after another (R220, R285). -/
def engineMaySend (s : State) (o : Op) (k : Nat) (a : Access) : Bool :=
  decide (a.act < 4) &&
  !((o.accs.take k).any (fun b => b.isOpen && ((b.onSO && a.onSO) || (a.act != 1 && overlaps a b)))) &&
  (a.act == 1 || !((before s o).any (fun e => !e.finished && !e.isPref && e.accs.any (fun b => b.isOpen && overlaps a b.rest))))

/-- The tile a matrix operation names. -/
def opTile (o : Op) : Option Nat :=
  match o.kind with
  | .mloop t _ _ _ _ _ => some t
  | .tileOp _ t _ _ _ _ _ _ _ => some t
  | .coll t _ _ _ _ _ _ => some t
  | _ => none

/-- Must a tile operation wait: for its turn on the tile (R301), for earlier operations on pad bytes it writes (R239), for XFENCEs,
or for a waking bank? -/
def tileHeld (s : State) (o : Op) : Bool :=
  !engineMay s o || blockStalls s o.bid || orderHeld s o ||
  s.ops.any (fun e => e.bid == o.bid && !e.finished && decide (e.oid < o.oid) && (opTile e).isSome && opTile e == opTile o)

/-- The bytes of a line that go to a peer, as an access; `p` is the first of them. -/
def farWrite (p : Piece) (bs : List (Nat × Nat)) : Access :=
  { act := 2, lane := 0, va := p.off, n := 128, pieces := [{ pa := lineOf p.pa * 128, n := 128, off := 0, kind := p.kind }], st := [.todo]
    data := bs.foldl (fun d e => putBytes d e.1 1 e.2) 0
    away := (List.range 128).filter (fun i => !(bs.any (fun e => e.1 == i))) }

/-- Has an operation read the byte from its peer? -/
def farRead (o : Op) (p : Piece) : Bool := o.accs.any (fun a => a.act == 1 && a.pieces.any (fun q => decide (q.pa ≤ p.pa ∧ p.pa < q.pa + q.n)))

/-- The accesses by which an operation reads from peers the bytes that it has not read: one for each line, on SO pages one for each run of
bytes in a line, in their order (R285). -/
def farReads (s : State) (o : Op) (pl : Plan) : List Access :=
  let line := fun (a : Access) => (a.pieces.head?.map (fun p => lineOf p.pa)).getD 0
  (pl.src.foldl (fun (m : List Access) l => match l with
    | .mem p =>
      let old := if p.kind == .so then m.head?.any (fun a => line a == lineOf p.pa) else m.any (fun a => line a == lineOf p.pa)
      if old || !isFarRead s o p || farRead o p then m
      else { act := 1, lane := 0, va := p.off, n := 128, pieces := [{ p with pa := lineOf p.pa * 128, n := 128, off := 0 }], st := [.todo] } :: m
    | _ => m) []).reverse

/-- The accesses by which an operation writes to peers: one for each line, or for each element that it changes. -/
def farWrites (s : State) (o : Op) (b : Block) (pl : Plan) : List Access × State :=
  if (redOf o).1 = 0 then
    let us := (pl.src.zip pl.dst).filter (fun e => farElem s [e.2])
    let r := copyWrites s o b { src := us.map (fun e => e.1), dst := us.map (fun e => e.2) }
    let lines := r.1.foldl (fun (m : List (Nat × (Piece × List (Nat × Nat)))) (l, v) => match l with
      | .mem p =>
        let e := (mfind (lineOf p.pa) m).getD (p, [])
        minsert (lineOf p.pa) (e.1, e.2 ++ [(p.pa % 128, v)]) m
      | _ => m) []
    (lines.map (fun e => farWrite e.2.1 e.2.2), r.2)
  else
    let w := redBytes (redOf o).1 (redOf o).2
    let es := ((elems w pl.src.length pl.src).zip (elems w pl.dst.length pl.dst)).filter (fun e => farElem s e.2)
    (es.filterMap (fun (a, d) => match d.head? with
      | some (.mem p) => some { act := 3, lane := 0, va := p.off, n := w, pieces := [{ p with n := w, off := 0 }], st := [.todo], data := ofBytes (a.map (srcByte s o b)) }
      | _ => none), s)

/-- Does an operation go on byte after byte, because some of its bytes lie on SO pages in a peer (R285)? Its accesses then have lane 1. -/
def inTurn (s : State) (o : Op) (pl : Plan) : Bool :=
  match o.accs.head? with
  | some a => decide (1 ≤ a.lane)
  | none => !pl.dst.isEmpty && (pl.src ++ pl.dst).any (fun l => onSoPage l && farElem s [l])

/-- How many bytes such an operation has read and written. -/
def turnDone (o : Op) : Nat := sumOf ((o.accs.filter (fun a => a.lane == 1 && a.act != 1)).map (fun a => a.n))

/-- Do two bytes lie in one line, or both in pad, or neither in memory? -/
def oneLine : Loc → Loc → Bool
  | .mem p, .mem q => lineOf p.pa == lineOf q.pa
  | .pad _, .pad _ => true
  | .lit _, .lit _ => true
  | _, _ => false

/-- How many bytes follow in one run: in one line at each end, none of which is read where the run has written. -/
def runLen (f : Loc × Loc) : List Loc → List (Loc × Loc) → Nat
  | _, [] => 0
  | out, (a, d) :: rest => if oneLine f.1 a && oneLine f.2 d && !(out.any (fun x => locKey x == locKey a)) then 1 + runLen f (d :: out) rest else 0

/-- The next access of an operation that goes on byte after byte: the read of a run from its peer, its write to a peer, or what is done
here, which the operation keeps as an access without pieces (R285). -/
def turnNext (s : State) (o : Op) (b : Block) (pl : Plan) : List Access × State :=
  match (pl.src.zip pl.dst).drop (turnDone o) with
  | [] => ([], s)
  | f :: es =>
    let r := (f :: es).take (if (redOf o).1 = 0 then runLen f [] (f :: es) else redBytes (redOf o).1 (redOf o).2)
    let run : Plan := { src := r.map (fun e => e.1), dst := r.map (fun e => e.2) }
    let now := { o with accs := (o.accs.drop (o.accs.length - 1)).filter (fun a => a.act == 1) }
    match farReads s now run with
    | a :: _ => ([{ a with lane := 1 }], s)
    | [] =>
      let w := viewOf (claimLocs s run.src) now b run.src
      if farElem s run.dst then
        let q := farWrites w.2.2 w.1 w.2.1 run
        (q.1.map (fun a => { a with lane := 1, n := r.length }), q.2)
      else
        ([{ act := 2, lane := 1, va := 0, n := r.length }],
         if (redOf o).1 = 0 then writeLocs w.2.2 w.1 false (run.dst.zip (run.src.map (srcByte w.2.2 w.1 w.2.1)))
         else reduceStep w.2.2 w.2.1 w.1 w.2.2 (run.src, run.dst))

/-- How far an operation's packets have come: what it must do next, or nothing. One that is found faulted before its packets leave sends none
(R287, log 85). -/
def farNext (s : State) (o : Op) (b : Block) : List Access × State :=
  if o.isOpen || o.accs.any (fun a => decide (2 ≤ a.act) && a.lane == 0) then ([], s)
  else
    let p := planOf s o
    if (planFault p.2 o b p.1).isSome then ([], p.2)
    else if inTurn p.2 o p.1 then turnNext p.2 o b p.1
    else
      let rs := farReads p.2 o p.1
      if rs.isEmpty then
        let w := viewOf (claimLocs p.2 p.1.src) o b p.1.src
        farWrites w.2.2 w.1 w.2.1 p.1
      else (rs, p.2)

/-- Performs what an operation still does here: the whole of it, or after a fault what had been written by then (R287). -/
def performPlan (s : State) (o0 : Op) (b0 : Block) (whole : Plan) (faulted : Bool) : State :=
  let n := if inTurn s o0 whole then turnDone o0 else 0
  let pl : Plan := { src := whole.src.drop n, dst := whole.dst.drop n }
  let w := viewOf (claimLocs s pl.src) o0 b0 pl.src
  let o := w.1
  let b := w.2.1
  let s0 := w.2.2
  let okS := fun (l : Loc) => (srcFault s0 o b l).isNone
  let okD := fun (l : Loc) => (dstFault s0 o b (hremPeer s0 pl) l).isNone
  match o.kind with
  | .haul 1 ws _ _ pat =>
    let r := xposeAll s0 o b (descOf ws) (fbOf pat) pl.src okS
    let k := if faulted then keepSome r.2 r.1 else r
    writeLocs k.2 o false k.1
  | _ =>
    if (redOf o).1 = 0 then
      let us := (pl.src.zip pl.dst).filter (fun e => okS e.1 && okD e.2)
      let r := copyWrites s0 o b { src := us.map (fun e => e.1), dst := us.map (fun e => e.2) }
      let k := if faulted then keepSome r.2 r.1 else r
      writeLocs k.2 o false k.1
    else
      let w := redBytes (redOf o).1 (redOf o).2
      let es := ((elems w pl.src.length pl.src).zip (elems w pl.dst.length pl.dst)).filter (fun e => e.1.all okS && e.2.all okD && !farElem s0 e.2)
      if faulted then
        let s1 := { s0 with fresh := s0.fresh + es.length }
        (((List.range es.length).zip es).filter (fun (i, _) => Config.freeChoice (s0.fresh + i) % 2 = 1)).foldl (fun t e => reduceStep s0 b o t e.2) s1
      else es.foldl (reduceStep s0 b o) s0

end Sys2Proof.Machine
end

