-- ==== Sys2Proof/Machine/Landau.lean ====
section
/-! DEFINITION. The Landau compositor (spec/19 R331 to R340, spec/21 R370, R372): how two lines combine, the exchanges of a
job, and a job's course from its start to its DONE word. -/

namespace Sys2Proof.Machine

/-- Is a pixel covered (R331)? -/
def covered (p : Nat) : Bool := bit p 112

/-- The order of depths (R333): NaN above +∞, both zeros equal. -/
def depthLt (x y : Val) : Bool :=
  match x, y with
  | .nan, _ => false
  | _, .nan => true
  | a, b => vlt a b

def pixDepth (p : Nat) : Val := fval .f32 (bits p 0 32)
def pixCh (p k : Nat) : Val := fval .bf16 (bits p (32 + 16 * k) 16)
def pixCount (p : Nat) : Nat := bits p 96 16

/-- A pixel of its parts. -/
def pixel (depth : Nat) (ch : Nat → Nat) (count flags : Nat) : Nat :=
  depth + ((List.range 4).foldl (fun a k => a + ch k % 2 ^ 16 * 2 ^ (32 + 16 * k)) 0) + count * 2 ^ 96 + flags * 2 ^ 112

/-- A pixel with the rank it comes from. -/
abbrev RPix := Nat × Nat

/-- Combines two pixels of an image kind (R333); `a` is the front one. Of depths that compare equal COUNT keeps the front pixel's bits
(log 88). -/
def combinePix (kind : Nat) (a b : RPix) : RPix :=
  let ca := covered a.1
  let cb := covered b.1
  let x := if ca then a.1 else 0
  let y := if cb then b.1 else 0
  if !ca && !cb then (0, min a.2 b.2)
  else if kind = 0 then
    if !ca then (y, b.2) else if !cb then (x, a.2)
    else if depthLt (pixDepth x) (pixDepth y) then (x, a.2)
    else if depthLt (pixDepth y) (pixDepth x) then (y, b.2)
    else if a.2 ≤ b.2 then (x, a.2) else (y, b.2)
  else
    let r16 := fun (v : Val) => roundTo v .bf16 .rne false 0
    let flags := bits x 112 16 ||| bits y 112 16
    if kind = 1 then
      let rest := vsub .rne (.fin false 1 1) (pixCh x 3)
      (pixel (if ca then bits x 0 32 else bits y 0 32) (fun k => r16 (vadd .rne (pixCh x k) (vmul rest (pixCh y k))))
        (min (pixCount x + pixCount y) 65535) flags, a.2)
    else
      let wa := if ca then max (pixCount x) 1 else 0
      let wb := if cb then max (pixCount y) 1 else 0
      let front := !cb || (ca && !depthLt (pixDepth y) (pixDepth x))
      (pixel (if front then bits x 0 32 else bits y 0 32)
        (fun k => r16 (vdiv (vadd .rne (vmul (.ofInt wa) (pixCh x k)) (vmul (.ofInt wb) (pixCh y k))) (.ofInt (wa + wb : Nat))))
        (min (wa + wb) 65535) flags, a.2)

/-- A line with the ranks of its eight pixels. -/
abbrev RLine := Nat × List Nat

/-- Combines two lines of a job (R333, R334). -/
def combineLine (kind : Nat) (a b : RLine) : RLine :=
  if kind < 3 then
    let ps := (List.range 8).map (fun k => combinePix kind (bits a.1 (128 * k) 128, a.2.getD k 0) (bits b.1 (128 * k) 128, b.2.getD k 0))
    (((List.range 8).zip ps).foldl (fun v (k, p) => v + p.1 * 2 ^ (128 * k)) 0, ps.map (fun p => p.2))
  else
    let f : FFmt := if kind = 3 then .bf16 else .f32
    ((List.range (1024 / f.width)).foldl (fun v k =>
      v + roundTo (vadd .rne (fval f (bits a.1 (f.width * k) f.width)) (fval f (bits b.1 (f.width * k) f.width))) f .rne false 0 * 2 ^ (f.width * k)) 0, a.2)

/-- The fields of a job record (R335). -/
structure JobRec where
  kind : Nat
  algo : Nat
  n : Nat
  rank : Nat
  out : Nat
  ports : Nat
  buf : Nat
  lines : Nat
  root : Nat
  ranktab : Nat
  scratch : Nat
  done : Nat
  jtag : Nat
  zero : Bool

def jobRec (v : Nat) : JobRec :=
  { kind := bits v 0 8, algo := bits v 8 8, n := bits v 16 16, rank := bits v 32 16, out := bits v 48 8, ports := bits v 56 8
    buf := bits v 64 64, lines := bits v 128 32, root := bits v 160 16, ranktab := bits v 192 64, scratch := bits v 256 64
    done := bits v 320 64, jtag := bits v 384 64, zero := bits v 176 16 == 0 && bits v 448 64 == 0 }

/-- The refusal of a record (R336, codes 2 to 4); `at_` is its address. -/
def recRefused (r : JobRec) (at_ : Nat) : Option Nat :=
  if 4 < r.kind ∨ 1 < r.algo ∨ 2 < r.out ∨ !r.zero then some 2
  else if r.n < 2 ∨ 512 < r.n ∨ (r.algo = 0 ∧ 2 ^ r.n.log2 ≠ r.n) ∨ r.n ≤ r.rank ∨ r.buf % 128 ≠ 0 ∨ r.lines = 0 ∨ r.lines % r.n ≠ 0 ∨
      r.n ≤ r.root ∨ r.scratch % 128 ≠ 0 ∨ r.done % 8 ≠ 0 ∨ at_ % 64 ≠ 0 then some 3
  else if r.kind = 1 ∧ r.algo = 1 then some 4
  else none

/-- One exchange of a job: its number, the rank it sends to and the lines it sends, the rank it receives from and the lines
it receives, and whether they replace (0), come behind (1) or come in front of (2) its own. -/
structure Exch where
  stage : Nat
  sendTo : Option Nat
  send : Nat × Nat
  from_ : Option Nat
  recv : Nat × Nat
  mode : Nat
deriving DecidableEq, Repr

/-- The lines of segment `i` modulo N. -/
def segment (r : JobRec) (i : Nat) : Nat × Nat := (i % r.n * (r.lines / r.n), i % r.n * (r.lines / r.n) + r.lines / r.n)

/-- The bits of `x` reversed among `m`. -/
def brev : Nat → Nat → Nat
  | 0, _ => 0
  | m + 1, x => (x % 2) * 2 ^ m + brev m (x / 2)

/-- The segment a rank ends holding (R336). -/
def ownedBy (r : JobRec) (x : Nat) : Nat × Nat := if r.algo = 0 then segment r (brev r.n.log2 x) else segment r x

/-- BINSWAP's rounds from round `k`, on the range [lo, hi) (R336). -/
def swapRounds (rank : Nat) : Nat → Nat → Nat → Nat → List Exch
  | 0, _, _, _ => []
  | fuel + 1, k, lo, hi =>
    let mid := (lo + hi) / 2
    let clear := !bit rank k
    let keep := if clear then (lo, mid) else (mid, hi)
    let give := if clear then (mid, hi) else (lo, mid)
    let peer := rank ^^^ (2 ^ k)
    { stage := k, sendTo := some peer, send := give, from_ := some peer, recv := keep, mode := if clear then 1 else 2 } ::
      swapRounds rank fuel (k + 1) keep.1 keep.2

/-- BINSWAP's rounds in reverse (R337), from holding [lo, hi); `k` counts down. -/
def gatherRounds (rank m : Nat) : Nat → Nat → Nat → List Exch
  | 0, _, _ => []
  | k + 1, lo, hi =>
    let size := hi - lo
    let other := if bit rank k then (lo - size, lo) else (hi, hi + size)
    let peer := rank ^^^ (2 ^ k)
    { stage := 2 * m - k, sendTo := some peer, send := (lo, hi), from_ := some peer, recv := other, mode := 0 } ::
      gatherRounds rank m k (min lo other.1) (max hi other.2)

/-- The exchanges of a job at this rank (R336, R337). -/
def exchanges (r : JobRec) : List Exch :=
  let m := r.n.log2
  let next := (r.rank + 1) % r.n
  let prev := (r.rank + r.n - 1) % r.n
  let first :=
    if r.algo = 0 then swapRounds r.rank m 0 0 r.lines
    else (List.range (r.n - 1)).map (fun t =>
      { stage := t, sendTo := some next, send := segment r (r.rank + r.n - (t + 1)), from_ := some prev
        recv := segment r (r.rank + 2 * r.n - (t + 2)), mode := 2 })
  let own := ownedBy r r.rank
  let rest :=
    if r.out = 1 then
      (if r.algo = 0 then gatherRounds r.rank m m own.1 own.2
       else (List.range (r.n - 1)).map (fun t =>
        { stage := r.n + t, sendTo := some next, send := segment r (r.rank + r.n - t), from_ := some prev
          recv := segment r (r.rank + r.n - (t + 1)), mode := 0 }))
    else if r.out = 2 then
      (if r.rank = r.root then ((List.range r.n).filter (fun x => x != r.rank)).map (fun x =>
        { stage := 4096, sendTo := none, send := (0, 0), from_ := some x, recv := ownedBy r x, mode := 0 })
       else [{ stage := 4096, sendTo := some r.root, send := own, from_ := none, recv := (0, 0), mode := 0 }])
    else []
  first ++ rest

/-- The lines this rank ends holding (R337). -/
def endsHolding (r : JobRec) : Nat × Nat := if r.out = 1 ∨ (r.out = 2 ∧ r.rank = r.root) then (0, r.lines) else ownedBy r r.rank

/-- Changes a job. -/
def modJob (part handle : Nat) (f : Job → Job) (s : State) : State :=
  modPart part (fun p => { p with jobs := p.jobs.map (fun j => if j.handle == handle then f j else j) }) s

def getJob (s : State) (part handle : Nat) : Option Job := (getPart s part).jobs.find? (fun j => j.handle == handle)

def Job.running (j : Job) : Bool := decide (1 ≤ j.phase ∧ j.phase ≤ 3)
def Job.ended (j : Job) : Bool := decide (4 ≤ j.phase)

/-- The stored sectors of a line with its tag, as bytes (R198). -/
def storedSectors (tag v : Nat) : List Nat :=
  let w := fun (i : Nat) => bits v (32 * i) 32
  let delta := fun (i : Nat) => wrap 32 ((w i : Int) - w 0)
  if tag = 1 then []
  else if tag = 2 then bytesOf 32 (w 0)
  else if tag = 3 then bytesOf 4 (w 0) ++ (List.range 32).map (fun i => delta i % 256) ++ List.replicate 28 0
  else if tag = 4 then bytesOf 4 (w 0) ++ (List.range 32).flatMap (fun i => bytesOf 2 (delta i)) ++ List.replicate 28 0
  else bytesOf 128 v

/-- The bytes of a tag's stored sectors, and the line that they give (R198). -/
def sectorBytes (tag : Nat) : Nat := if tag = 1 then 0 else if tag = 2 then 32 else if tag = 3 then 64 else if tag = 4 then 96 else 128

def fromSectors (tag : Nat) (bs : List Nat) : Nat :=
  let base := ofBytes (bs.take 4)
  let line := fun (f : Nat → Int) => (List.range 32).foldl (fun v i => v + wrap 32 ((base : Int) + f i) * 2 ^ (32 * i)) 0
  if tag = 1 then 0
  else if tag = 2 then line (fun _ => 0)
  else if tag = 3 then line (fun i => toSigned 8 (bs.getD (4 + i) 0))
  else if tag = 4 then line (fun i => toSigned 16 (bs.getD (4 + 2 * i) 0 + bs.getD (5 + 2 * i) 0 * 256))
  else ofBytes bs

/-- The form of a line that the compositor writes to a page whose CMP bit is given (R199, R332): its tag, and 8 where CMP is set. -/
def formOf (cmp : Bool) (v : Nat) : Nat := if cmp then 8 + bestTag ((List.range 32).map (fun i => bits v (32 * i) 32)) else 0

/-- The form of a line of BUF as it is stored (R198, R332); outside the package's own HBM lines have no tag and count as RAW (log 23). -/
def storedForm (s : State) (o : Op) (va : Nat) : Nat :=
  match (xlateVa s (opCore s o) o.part o.service .rd false va 128).1 with
  | .ok (p :: _) => (if p.pa < 2 ^ 42 then cget 0 (lineOf p.pa) s.tags % 8 else 0) + (if p.cmp then 8 else 0)
  | _ => 0

/-- The tag of a line of a job (R332). -/
def Job.tag (j : Job) (line : Nat) : Nat := cget 0 line j.forms % 8

/-- The `i`th line of a message. -/
def msgLine (m : UetMsg) (i : Nat) : Nat :=
  let at_ := sumOf ((List.range i).map (fun k => sectorBytes (bits m.tags (3 * k) 3)))
  let t := bits m.tags (3 * i) 3
  fromSectors t ((m.sectors.drop at_).take (sectorBytes t)) % 2 ^ 1024

/-- The messages that carry a range of lines (R370): at most 32 lines each. `pid` is the PIDonFEP that serves the job. -/
def messagesOf (r : JobRec) (pid : Nat) (j : Job) (e : Exch) (sendTo : Nat) : Nat → Nat → List UetMsg
  | 0, _ => []
  | fuel + 1, at_ =>
    if e.send.2 ≤ at_ then []
    else
      let n := min 32 (e.send.2 - at_)
      let ls := (List.range n).map (fun i => (j.tag (at_ + i), (mfind (at_ + i) j.buf).getD (0, [])))
      { src := r.rank, dst := sendTo, jobId := r.jtag % 2 ^ 24, pid := pid, jtag := r.jtag, kind := r.kind, algo := r.algo, nranks := r.n
        lines := r.lines, round := e.stage, first := at_, run := n
        tags := ((List.range n).zip ls).foldl (fun t (i, l) => t + l.1 * 2 ^ (3 * i)) 0
        sectors := ls.flatMap (fun l => storedSectors l.1 l.2.1), origin := ls.map (fun l => l.2.2) } :: messagesOf r pid j e sendTo fuel (at_ + n)

/-- A line that a message of an exchange brings. -/
def lineFrom (j : Job) (e : Exch) (src line : Nat) : Option RLine :=
  (j.got.find? (fun m => m.src == src && m.round == e.stage && decide (m.first ≤ line ∧ line < m.first + m.run))).map
    (fun m => (msgLine m (line - m.first), m.origin.getD (line - m.first) []))

/-- Takes an exchange's received lines into the job's, when all have come. -/
def takeLines (r : JobRec) (j : Job) (e : Exch) : Option Job :=
  match e.from_ with
  | none => some j
  | some src =>
    let ls := (List.range (e.recv.2 - e.recv.1)).map (fun i => e.recv.1 + i)
    if ls.all (fun l => (lineFrom j e src l).isSome) then
      let news := ls.map (fun l =>
        let own := (mfind l j.buf).getD (0, [])
        let got := (lineFrom j e src l).getD (0, [])
        (l, if e.mode = 0 then got else if e.mode = 1 then combineLine r.kind own got else combineLine r.kind got own))
      some { j with
        buf := news.foldl (fun m e => minsert e.1 e.2 m) j.buf
        forms := news.foldl (fun m e => minsert e.1 (formOf (decide (8 ≤ cget 0 e.1 j.forms)) e.2.1) m) j.forms
        got := j.got.filter (fun m => !(m.src == src && m.round == e.stage)) }
    else none

/-- Runs exchanges until one waits (R336). A cancelled job stops at the end of an exchange (R340). `sent` says that the
exchange it stands at has sent its lines. -/
def runExchanges (r : JobRec) (pid now : Nat) : List Exch → Job → List UetMsg → Job × List UetMsg
  | [], j, out => ({ j with phase := 3 }, out)
  | e :: rest, j, out =>
    let sent := j.begun
    let out1 := if sent then out else out ++ (match e.sendTo with | some t => messagesOf r pid j e t (e.send.2 - e.send.1 + 1) e.send.1 | none => [])
    match takeLines r j e with
    | none => ({ j with begun := true, since := if sent then j.since else now }, out1)
    | some j1 =>
      let j2 := { j1 with step := j1.step + 1, begun := false, since := now }
      if j2.cancel then (j2, out1) else runExchanges r pid now rest j2 out1

/-- Every byte of `n` bytes at an address that translates to this package's own memory takes a free value (R337, R338, log
19). -/
def freeBytes (s : State) (o : Op) (va : Nat) : Nat → State
  | 0 => s
  | n + 1 =>
    let at_ := (va + n) % 2 ^ 64
    let t := xlateVa s (opCore s o) o.part o.service .wr false at_ 1
    let s1 := match t.1 with
      | .ok ps => ps.foldl (fun u p => if isFar u p || inFaulted u p.pa then u
          else lineWrite { u with fresh := u.fresh + 1 } o.part (lineOf p.pa) [(p.pa % 128, (Config.freeByte u.fresh).toNat)] p.cmp) t.2
      | .error _ => t.2
    freeBytes s1 o va n

/-- Writes bytes of a line of this package for an operation: readers may miss them (R241), and they carry the releases given (R233). -/
def writePiece (s : State) (o : Op) (ts : List Tok) (p : Piece) (v : Nat) : State :=
  let bs := (List.range p.n).map (fun i => bits v (8 * (p.off + i)) 8)
  let t := poolMark (lineWrite s o.part (lineOf p.pa) ((List.range p.n).map (fun i => (p.pa % 128 + i, bits v (8 * (p.off + i)) 8))) p.cmp) (engineGid o) p.pa
  carry (noteWrite s { t with past := s.past, relAt := s.relAt } o 0 (p.kind == .un) false p.pa bs) true ts ((List.range p.n).map (fun i => p.pa + i))

/-- Writes bytes at a virtual address for an operation, with the releases they carry: the state with those of this package written, and the
accesses by which the others go to peers. -/
def writeVa (s : State) (o : Op) (ts : List Tok) (va n v : Nat) : Except XFault (List Access) × State :=
  let t := xlateVa s (opCore s o) o.part o.service .wr false va n
  match t.1 with
  | .error e => (.error e, t.2)
  | .ok ps =>
    match ps.find? (fun p => inFaulted t.2 p.pa || isMcast p.pa) with
    | some p => (.error (if isMcast p.pa then 1 else 2, (va + p.off) % 2 ^ 64), t.2)
    | none => ps.foldl (fun acc p =>
        let bs := (List.range p.n).map (fun i => (p.pa % 128 + i, bits v (8 * (p.off + i)) 8))
        if isFar acc.2 p then (acc.1.map (fun l => l ++ [farWrite { p with off := (va + p.off) % 2 ^ 64 } bs]), acc.2)
        else (acc.1, writePiece acc.2 o ts p v)) (.ok [], t.2)

/-- LANDAU_PID takes a deferred write once no job of the partition is left (R371). -/
def settlePid (part : Nat) (s : State) : State :=
  modPart part (fun p => match p.pidNext with
    | some v => if p.jobs.all Job.ended then { p with pid := v, pidNext := none } else p
    | none => p) s

/-- The lines of BUF that a job has begun to write (R338): those that the exchanges it has come to receive, and at the end all that it
holds (log 71). -/
def begunLines (r : JobRec) (j : Job) : List (Nat × Nat) :=
  if j.phase < 2 then []
  else if j.phase = 2 then ((exchanges r).take (j.step + 1)).map (fun e => e.recv)
  else (exchanges r).map (fun e => e.recv) ++ [endsHolding r]

/-- Lines of BUF take free values. -/
def freeLines (o : Op) (r : JobRec) (rs : List (Nat × Nat)) (s : State) : State :=
  rs.foldl (fun t e => freeBytes t o (r.buf + 128 * e.1) (128 * (e.2 - e.1))) s

/-- A fault of the DONE access (R339): the job has failed with FAULT, and its group records the fault. -/
def doneFault (o : Op) (j : Job) (f : XFault) (s : State) : State :=
  settlePid o.part (endOp o.oid (recordFault o f (modJob o.part j.handle (fun j => { j with phase := 5, err := 4 }) s)))

/-- Ends a job (R337 to R339): every byte of SCRATCH, the lines of BUF that it does not end holding and, of a failed job, those that it had
begun to write become free, DONE is written as a release at SYSTEM scope of the job's writes, and the operation ends when that write is
acknowledged. -/
def endJobNow (o : Op) (j : Job) (err : Nat) (s : State) : State :=
  let r := jobRec j.record
  let s1 := freeBytes s o r.scratch (64 * r.lines)
  let keep := endsHolding r
  let s2 := freeLines o r (if err = 0 then [(0, keep.1), (keep.2, r.lines)] else begunLines r j) s1
  let s3 := modJob o.part j.handle (fun j => { j with phase := if err = 0 then 4 else 5, err := err, got := [], buf := [], forms := [], first := [], watch := [] }) s2
  let q := doneRelease 7 o (poolClean { s3 with bufHit := s3.bufHit.filter (fun pa => bufWatched s3 (lineOf pa)) } (engineGid o))
  let w := writeVa q.1 o [q.2] r.done 8 ((if err = 0 then 2 else 3) + err * 4 + j.handle * 2 ^ 16)
  match w.1 with
  | .error e => doneFault o j e w.2
  | .ok as_ =>
    if as_.isEmpty then settlePid o.part (endOp o.oid w.2)
    else settlePid o.part (modOp o.oid (fun o => { o with accs := as_ }) w.2)

/-- Ends a job once its writes are acknowledged, for DONE releases them (R339): one that fails before that keeps why. -/
def endJob (o : Op) (j : Job) (err : Nat) (s : State) : State :=
  if j.running && o.accs.any (fun a => a.act == 2 && a.isOpen) then modJob o.part j.handle (fun j => { j with err := if j.err = 0 then err else j.err }) s
  else endJobNow o j (if j.err = 0 then err else j.err) s

/-- What a job writes to a line of BUF that it ends holding: a byte that a core has written since CMPJ keeps that value or takes the job's
(R338). -/
def keptLine (s : State) (o : Op) (j : Job) (line : Nat) : Nat × State :=
  let v := ((mfind line j.buf).map (fun l => l.1)).getD 0
  let t := xlateVa s (opCore s o) o.part o.service .wr false (((jobRec j.record).buf + 128 * line) % 2 ^ 64) 128
  match t.1 with
  | .error _ => (v, s)
  | .ok ps => ps.foldl (fun acc p => if isFar acc.2 p then acc else (List.range p.n).foldl (fun acc i =>
      let k := p.off + i
      let cur := memByte acc.2 (p.pa + i)
      if cur = bits v (8 * k) 8 ∨ (cur = bits (cget 0 line j.first) (8 * k) 8 ∧ !acc.2.bufHit.contains (p.pa + i)) then acc
      else (if Config.freeChoice acc.2.fresh % 2 = 0 then putBytes acc.1 k 1 cur else acc.1, { acc.2 with fresh := acc.2.fresh + 1 })) acc) (v, s)

/-- Does the job meet a fault on SCRATCH (R338)? Which of its bytes it reaches is the compositor's own: where some fault and others do not,
whether it meets one is free (log 19). -/
def scratchFault (o : Op) (r : JobRec) (s : State) : Bool × State :=
  let q := (List.range (ceilDiv r.lines 2)).foldl (fun (acc : Nat × State) i =>
    let t := xlateVa acc.2 (opCore s o) o.part o.service .wr false ((r.scratch + 128 * i) % 2 ^ 64) 128
    (match t.1 with
     | .ok ps => if ps.any (fun p => inFaulted t.2 p.pa || isMcast p.pa) then acc.1 + 1 else acc.1
     | .error _ => acc.1 + 1, t.2)) (0, s)
  if q.1 = 0 then (false, q.2)
  else if q.1 = ceilDiv r.lines 2 then (true, q.2)
  else (Config.freeChoice q.2.fresh % 2 == 1, { q.2 with fresh := q.2.fresh + 1 })

/-- Reads a job's BUF lines and RANKTAB that no peer must still send: the lines, after the table, or the fault. -/
def readBuf (o : Op) (r : JobRec) (s : State) : List (Nat × Except Halt (List Nat)) × State :=
  (List.range r.lines).foldl (fun acc l =>
    let q := readVa acc.2 o (r.buf + 128 * l) 128
    (acc.1 ++ [(l, q.1.map (fun v => [v]))], q.2))
    (let q := readVa s o r.ranktab (16 * r.n)
     ([(r.lines, q.1.map (fun v => [v]))], q.2))

/-- Is the RANKTAB entry of this rank one of the package's ports that PORTS names (R372)? -/
def rankHere (s : State) (r : JobRec) (tab : Nat) : Bool :=
  (List.range 8).any (fun k => bit r.ports k && mfind k s.fab.ethAddr == some (bits tab (128 * r.rank) 128))

/-- The number a read gave. -/
def readNum (e : Nat × Except Halt (List Nat)) : Nat := match e.2 with | .ok ws => ws.headD 0 | .error _ => 0

/-- The lines that lanes of a traversal, or a job, still need from peers, as accesses. -/
def farNeeds (rs : List (Nat × Except Halt (List Nat))) : List Access := renderNeeds rs

/-- The first fault among reads. -/
def firstFault (rs : List (Nat × Except Halt (List Nat))) : Option XFault :=
  rs.findSome? (fun e => match e.2 with | .error (.fault f) => some f | _ => none)

/-- Takes a running job on as far as it goes. -/
def jobAdvance (s : State) (o : Op) (j : Job) : State :=
  let r := jobRec j.record
  if j.running && (j.err != 0 || o.accs.any (fun a => a.fkind != 0)) then endJob o j 4 s
  else if o.isOpen then s
  else if j.phase = 1 then
    let q := readBuf o r s
    let needs := farNeeds q.1
    if (firstFault q.1).isSome then endJob o j 4 q.2
    else if !needs.isEmpty then modOp o.oid (fun o => { o with accs := o.accs ++ needs }) q.2
    else if !rankHere s r ((q.1.head?.map readNum).getD 0) then endJob o j 1 q.2
    else
      let f := scratchFault o r q.2
      if f.1 then endJob o j 4 f.2
      else
        modJob o.part j.handle (fun j => { j with
          phase := 2, since := s.cycle
          buf := (q.1.drop 1).map (fun e => (e.1, (readNum e, List.replicate 8 r.rank)))
          forms := (q.1.drop 1).map (fun e => (e.1, storedForm s o ((r.buf + 128 * e.1) % 2 ^ 64)))
          first := (q.1.drop 1).map (fun e => (e.1, readNum e)) })
          (modOp o.oid (fun o => { o with accs := [] }) f.2)
  else if j.phase = 2 then
    let x := runExchanges r (bits (getPart s o.part).pid 0 12) s.cycle ((exchanges r).drop j.step) j []
    let s1 := modJob o.part j.handle (fun _ => x.1) { s with fab := { s.fab with uetOut := s.fab.uetOut ++ x.2 } }
    if x.1.cancel && (x.1.step != j.step || x.1.phase == 3) then endJob o x.1 5 s1 else s1
  else if j.phase = 3 && !j.begun then
    let keep := endsHolding r
    let w := (List.range (keep.2 - keep.1)).foldl (fun (acc : Except XFault (List Access) × State) i =>
      match acc.1 with
      | .error e => (.error e, acc.2)
      | .ok as_ =>
        let u := keptLine acc.2 o j (keep.1 + i)
        let q := writeVa u.2 o [] ((r.buf + 128 * (keep.1 + i)) % 2 ^ 64) 128 u.1
        (q.1.map (fun l => as_ ++ l), q.2)) (.ok [], s)
    match w.1 with
    | .error _ => endJob o j 4 w.2
    | .ok as_ => modJob o.part j.handle (fun j => { j with begun := true }) (modOp o.oid (fun o => { o with accs := as_ }) w.2)
  else if j.phase = 3 then endJob o j (if j.cancel then 5 else 0) s
  else if j.ended then
    (match o.accs.find? (fun a => a.fkind != 0) with
     | some a => doneFault o j (a.fkind, a.va) s
     | none => endOp o.oid s)
  else s

/-- Takes a job on through its phases: reading, exchanging, writing and ending follow each other when nothing waits. -/
def jobRun (s : State) (oid : Nat) : Nat → State
  | 0 => s
  | fuel + 1 =>
    match findOp s oid with
    | none => s
    | some o =>
      match o.kind with
      | .job part handle =>
        (match getJob s part handle with
         | some j => if o.finished || j.phase == 0 then s else jobRun (jobAdvance s o j) oid fuel
         | none => s)
      | _ => s

/-- The jobs of a partition that have not ended. -/
def openJobs (p : Part) : List Job := p.jobs.filter (fun j => !j.ended)

/-- The state word of a job (R340). -/
def jobState (j : Job) : Nat :=
  (if j.phase = 0 then 0 else if j.phase ≤ 3 then 1 else if j.phase = 4 then 2 else 3) + j.err * 4

end Sys2Proof.Machine
end

