-- ==== Sys2Proof/Machine/Coll.lean ====
section
/-! DEFINITION. Collectives over member blocks (spec/19 R341 to R344) and the wagons that leave a package (R323 to R330). -/

namespace Sys2Proof.Machine

/-- The fields of a COLL record (R341). -/
structure CollRec where
  ranktab : Nat
  n : Nat
  me : Nat
  tag : Nat
  stage : Nat
  mbz : Bool

def collRec (ws : List Nat) : CollRec :=
  let v := wordsNum ws
  { ranktab := bits v 0 64, n := bits v 64 9 + 1, me := bits v 73 9, tag := bits v 82 14, stage := bits v 96 21, mbz := bits v 117 11 != 0 }

/-- The least m with 2^m - 1 ≥ N (R342). -/
def treeHeight (n : Nat) : Nat := n.log2 + 1

/-- The lowest set bit of `j`, from bit `i` up. -/
def lowBit : Nat → Nat → Nat → Nat
  | 0, _, _ => 0
  | fuel + 1, i, j => if bit j i then 2 ^ i else lowBit fuel (i + 1) j

/-- The first node at or below N on the chain of ancestors of node `j` (R342); 0 when there is none. -/
def treeParent (n : Nat) : Nat → Nat → Nat
  | 0, _ => 0
  | fuel + 1, j =>
    let h := lowBit (treeHeight n + 1) 0 j
    let p := if bit j (h.log2 + 1) then j - h else j + h
    if j = 2 ^ (treeHeight n - 1) then 0 else if p ≤ n then p else treeParent n fuel p

/-- A member's position in a tree (R342); tree 0 is A, tree 1 is B. Ranks count from 0, positions from 1. -/
def treePos (n tree rank : Nat) : Nat :=
  if tree = 0 then rank + 1 else if n % 2 = 0 then n - rank else (rank + 1) % n + 1

/-- The rank at a position. -/
def treeRank (n tree pos : Nat) : Option Nat := (List.range n).find? (fun r => treePos n tree r == pos)

/-- The rank of a member's parent; none for the root. -/
def collParent (n tree rank : Nat) : Option Nat :=
  match treeParent n (treeHeight n + 1) (treePos n tree rank) with
  | 0 => none
  | p => treeRank n tree p

/-- The rank of a member's left (0) or right (1) child, if any. -/
def collChild (n tree rank side : Nat) : Option Nat :=
  (List.range n).find? (fun r => collParent n tree r == some rank && (if side = 0 then decide (treePos n tree r < treePos n tree rank)
    else decide (treePos n tree rank < treePos n tree r)))

/-- The words of a tile's half for a tree (R342): rows 0 to 47 or 48 to 95. -/
def ownHalf (b : Block) (t tree : Nat) : List Nat :=
  (List.range 4608).map (fun k => (cget 0 (t * 9216 + tree * 4608 + k) b.tiles).toNat)

/-- The pad offset of a staging quarter (R343, log 24). -/
def quarterAt (r : CollRec) (q : Nat) : Nat := r.stage + 18432 * q

/-- The quarters of a tree whose child exists. -/
def treeQuarters (r : CollRec) (tree : Nat) : List Nat :=
  [0, 1].filterMap (fun side => (collChild r.n tree r.me side).map (fun _ => 2 * tree + side))

/-- What a member computes for a tree (R343): its half with its children's, or free words after a block access to the
staging (R344, log 22). -/
def combineTree (s : State) (o : Op) (b : Block) (t fn tree : Nat) (r : CollRec) (got : List (Nat × List Nat)) : List Nat × State :=
  if o.poisoned then ((List.range 4608).map (fun k => (Config.freeWord (s.fresh + k)).toNat), { s with fresh := s.fresh + 4608 })
  else ((treeQuarters r tree).foldl (fun acc q => (acc.zip ((mfind q got).getD [])).map (fun e => redStep fn 4 e.1 e.2)) (ownHalf b t tree), s)

/-- Takes a collective on: reads its RANKTAB once its turn on the tile has come, and sends its part of each tree to the
parent once the children's have come. -/
def collAdvance (s : State) (o : Op) (b : Block) : State :=
  match o.kind with
  | .coll t fn obj ws ranks got up =>
    if tileHeld s o || o.isOpen then s
    else
      let r := collRec ws
      if ranks.isEmpty then
        let q := readVa s o r.ranktab (2 * r.n)
        (match q.1 with
         | .ok v => modOp o.oid (fun o => { o with kind := .coll t fn obj ws ((List.range r.n).map (fun i => bits v (16 * i) 16)) got up }) q.2
         | .error h => modOp o.oid (fun o => { o with accs := o.accs ++ renderNeeds [(0, .error h)] }) q.2)
      else if ranks[r.me]? != some s.pkg then s
      else
        [0, 1].foldl (fun s tree =>
          match findOp s o.oid with
          | none => s
          | some o => match o.kind with
            | .coll _ _ _ _ _ got up =>
              if (mfind tree up).isSome || !((treeQuarters r tree).all (fun q => (mfind q got).isSome)) then s
              else
                let c := combineTree s o b t fn tree r got
                let s1 := modOp o.oid (fun o => { o with kind := .coll t fn obj ws ranks got (minsert tree c.1 up) }) c.2
                (match collParent r.n tree r.me with
                 | some p => { s1 with fab := { s1.fab with collOut := s1.fab.collOut ++ [(r.tag, ranks.getD p 0, tree, c.1)] } }
                 | none => s1)
            | _ => s) s
  | _ => s

/-- May a partition of the package accept a wagon on a channel (R347, R330)? The owner with a free bay, if so. `local_` is the
sending partition of a wagon of the package's own. -/
def wagonOwner (s : State) (fdom : Nat) (local_ : Option Nat) (chan : Nat) : Option Nat :=
  (s.parts.find? (fun e => bit e.2.wchan chan)).bind (fun e =>
    match mfind chan e.2.chans with
    | some c =>
      if decide (c.wagons.length < c.total) && ((fdom != 0 && e.2.fdom == fdom) || local_ == some e.1) then some e.1 else none
    | none => none)

/-- A wagon lands (R325), with the releases that it carries (R329). -/
def landWagon (part chan wagon src : Nat) (ts : List Tok) (s : State) : State :=
  modPart part (fun p => { p with chans := mmodify chan (fun c => { c with wagons := c.wagons ++ [(wagon, src)], toks := c.toks ++ [ts] }) p.chans }) s

/-- Is a release WSEND held for earlier writes and wagons of the group to the wagon's package (R329)? -/
def wagonHeld (s : State) (o : Op) (dst : Nat) : Bool :=
  rel o.order && (started s o.gid o.seq).any (fun e => reaches s dst e || (isWsend e && e.accs.any (fun a => a.isOpen && bits a.va 0 9 == dst)))

/-- The partition that owns a channel on this package. -/
def chanOwner (s : State) (chan : Nat) : Option Nat := (s.parts.find? (fun e => bit e.2.wchan chan)).map (fun e => e.1)

/-- The key of a credit count (R324). -/
def creditKey (pkg chan : Nat) : Nat := pkg * 64 + chan

def creditsOf (p : Part) (pkg chan : Nat) : Nat := cget 0 (creditKey pkg chan) p.credits

/-- Changes a credit count, which stays within 0 to 1,024. -/
def setCredits (pkg chan n : Nat) (p : Part) : Part := { p with credits := cset 0 (creditKey pkg chan) (min 1024 n) p.credits }

/-- A grant, or the return of one wagon's bay, reaches the sender (R325). -/
def creditArrives (from_ chan n : Nat) (s : State) : State :=
  match chanOwner s chan with
  | some p => modPart p (fun q => setCredits from_ chan (creditsOf q from_ chan + n) q) s
  | none => s

/-- Credits given back reach the receiver (R325). -/
def returnArrives (chan k : Nat) (s : State) : State :=
  match chanOwner s chan with
  | some p => modPart p (fun q => { q with chans := mmodify chan (fun c => { c with total := max c.wagons.length (c.total - k) }) q.chans }) s
  | none => s

/-- Sends credits to a package (R325): a grant or wagon's return to the sender of wagons, or credits given back to their
receiver (`back`). Its own it reaches at once (log 21). -/
def sendCredits (part : Nat) (cls : Nat) (pkg chan n : Nat) (back : Bool) (s : State) : State :=
  if pkg = s.pkg then (if back then returnArrives chan n s else creditArrives s.pkg chan n s)
  else if (getPart s part).fdom = 0 ∨ !isMember s pkg then s
  else
    queuePackets [{ kind := 8, src := s.pkg, dst := pkg, cls := cls, fdom := (getPart s part).fdom, opnd := chan + n * 2 ^ 16 + (if back then 2 ^ 32 else 0) }] s

/-- Sends the wagons of an operation (R327, R330): those to this package land at once, tested like any other (R347, log 21). -/
def sendWagons (s : State) (o : Op) (cls : Nat) : State :=
  ((List.range o.accs.length).zip o.accs).foldl (fun s (k, a) =>
    let dst := bits a.va 0 9
    if a.act != 5 || a.st[0]? != some .todo || wagonHeld s o dst then s
    else
      let fdom := (getPart s o.part).fdom
      let put := fun (st : AccSt) (fk : Nat) (s : State) => modOp o.oid (fun o => { o with accs := ((List.range o.accs.length).zip o.accs).map (fun (j, b) =>
        if j = k then { b with st := [st], fkind := fk } else b) }) s
      if dst = s.pkg then
        (match wagonOwner s fdom (some o.part) (bits a.va 16 6) with
         | some p => put .done 0 (landWagon p (bits a.va 16 6) a.data s.pkg (carriedBy s o) (opRelease s o))
         | none =>
           let same := (chanOwner s (bits a.va 16 6)).any (fun q => q == o.part || (fdom != 0 && (getPart s q).fdom == fdom))
           put .done 8 (if same then s else errCount 3 1 s))
      else if !isMember s dst then put .done 7 s
      else if fdom = 0 then put .done 8 s
      else
        let tag := s.fab.nextTag
        put .sent 0 (queuePackets [{ kind := 7, src := s.pkg, dst := dst, cls := cls, tag := tag, fdom := fdom, mask := 2 ^ 64 - 1, opnd := bits a.va 16 6, data := a.data }]
          { opRelease s o with fab := { s.fab with
            nextTag := (tag + 1) % 2 ^ 32
            tags := minsert tag (o.oid, 1024 + k, lineOf ((a.pieces.head?.map (fun p => p.pa)).getD 0)) s.fab.tags } })) s

end Sys2Proof.Machine
end

