-- ==== Sys2Proof/Machine/Fabric.lean ====
section
/-! DEFINITION. Requests to peer packages (spec/21 R346 to R358, spec/13 R246, R247): packets leave when their accesses may be
performed, and answers complete them. -/

namespace Sys2Proof.Machine

/-- The traffic class of an operation (R352). -/
def classOfOp (s : State) (o : Op) : Nat :=
  if o.service then 0
  else match getBlock s o.bid with
    | some b => ((mfind b.grid s.grids).map (fun r => r.cls)).getD 0
    | none => 0

/-- An operation of the haul engine goes on with its packets; one that goes byte after byte may do several things here in turn (R285). -/
def haulStart : Nat → State → Nat → State
  | 0, s, _ => s
  | fuel + 1, s, oid =>
    match opWithBlock s oid with
    | none => s
    | some (o, b) =>
      let r := farNext s o b
      if r.1.isEmpty then s else haulStart fuel (modOp oid (fun o => { o with accs := o.accs ++ r.1 }) r.2) oid

/-- An operation that has reached a peer starts its next round of packets. -/
def engineStart (s : State) (oid : Nat) : State :=
  match findOp s oid with
  | none => s
  | some o =>
    match getBlock s o.bid with
    | none => s
    | some b =>
      if o.finished || engineHeld s o then s
      else match o.kind with
        | .haul _ _ _ _ _ | .hrem _ _ _ => if movesNothing o then s else haulStart ((opDesc o).elim 0 (fun d => d.rows * d.rowb + 1)) s oid
        | .scatter fn ty p =>
          let w := redBytes fn ty
          if o.accs.any (fun a => a.act == 4) && !(o.accs.any (fun a => padBad b (p + a.lane * w) w)) then
            modOp oid (fun o => { o with accs := o.accs.map (fun a => { a with act := if fn = 0 then 2 else 3, data := padGet b (p + a.lane * w) w }) }) s
          else s
        | .rtrav _ _ _ _ | .texf _ _ _ =>
          if o.isOpen || s.fab.members.isEmpty then s
          else
            let r := renderLanes s o
            let ns := renderNeeds r.1
            if ns.isEmpty then s else modOp oid (fun e => { e with accs := o.accs ++ ns }) r.2
        | .coll _ _ _ _ _ _ _ => collAdvance s o b
        | .job part handle => if (getJob s part handle).any (fun j => j.phase == 0) then s else jobRun s oid 8
        | .wsend => sendWagons s o (classOfOp s o)
        | _ => s

/-- One part of a peer access that may leave: lane, access index, piece index, piece. -/
structure Send where
  lane : Nat
  acc : Nat
  idx : Nat
  piece : Piece
deriving DecidableEq, Repr

/-- Is the piece served from a valid dray sector (R211)? -/
def draySector (s : State) (o : Op) (p : Piece) : Bool :=
  o.isLoad && p.borrow && p.kind != .so && (drayRead s o.part (lineOf p.pa)).isSome

/-- Must a read of a peer wait for a store of the group's own to the same byte (R221)? -/
def readAfterStore (s : State) (o : Op) (a : Access) : Bool :=
  o.isLoad && !o.isPref && (before s o).any (fun e => e.isStore && e.accs.any (fun b => b.isOpen && overlaps a b.rest))

/-- Does an access read, write, or change an element? -/
def accReads (o : Op) (a : Access) : Bool := a.act == 1 || (a.act == 0 && o.isLoad)
def accWrites (o : Op) (a : Access) : Bool := a.act == 2 || (a.act == 0 && o.isStore)

/-- Marks parts of an operation. -/
def markParts (oid : Nat) (t : AccSt) (ps : List (Nat × Nat)) (s : State) : State :=
  modOp oid (fun o => { o with accs := ((List.range o.accs.length).zip o.accs).map (fun (k, a) =>
    { a with st := ((List.range a.st.length).zip a.st).map (fun (j, x) => if ps.contains (k, j) then t else x) }) }) s

/-- The bytes of a part that a store writes: those its lane did not lose to another (R218, R222). -/
def partBytes (a : Access) (p : Piece) : List (Nat × Nat) :=
  ((List.range p.n).filter (fun i => !a.away.contains (p.off + i))).map (fun i => (i, bits a.data (8 * (p.off + i)) 8))

/-- The atomic operand field of a packet (R349): operation and type, or a signal's value (log 20). -/
def opndOf (o : Op) (a : Access) : Nat :=
  match o.kind with
  | .atomic fn ty ret wide => fn + 16 * ty + (if wide then 256 else 0) + (if ret.isSome then 512 else 0)
  | .hsig fn val => val % 2 ^ 64 + 2 ^ 64 * fn
  | .hrem _ fn val => val % 2 ^ 64 + 2 ^ 64 * (fn - 1)
  | _ => if a.act = 3 then redFn (redOf o).1 + 16 * (redOf o).2 else 0

/-- The first of the accesses to SO pages that reach one line from one beat and follow one another up to the `k`th: in their order
they share a packet (R220, R351). -/
def soRun (o : Op) (k : Nat) : Nat :=
  (List.range k).foldl (fun h j => match o.accs[j]?, o.accs[j + 1]? with
    | some a, some b => match a.pieces, b.pieces with
      | [p], [q] => if a.onSO && b.onSO && lineOf p.pa == lineOf q.pa && a.lane / 32 == b.lane / 32 then h else j + 1
      | _, _ => j + 1
    | _, _ => j + 1) 0

/-- Is the operation of the LD, ST or GA path, one access for each lane? -/
def byLane (o : Op) (a : Access) : Bool := a.act == 0 || o.path == .ga

/-- The key of the packet in which an access leaves (R351): its beat; on SO pages, where lanes keep their order, its beat or a run of lanes
in it, which is free (log 68). A wagon and a reducing step of HCOPY or HREM leave on their own. -/
def sendKey (o : Op) (k : Nat) (a : Access) : Nat :=
  if (a.act == 3 && !byLane o a) || a.act == 5 || (a.act == 2 && a.onSO && !byLane o a) then 1024 + k
  else if a.onSO && Config.freeChoice (2 ^ 64 + o.oid) % 2 == 1 then 2 ^ 20 + soRun o k
  else a.lane / 32

/-- The parts of an operation that are still to leave for peers, by their packets. -/
def waiting (s : State) (o : Op) : List ((Nat × Nat) × Send) :=
  ((List.range o.accs.length).zip o.accs).flatMap (fun (k, a) =>
    if a.act = 5 then [] else (((List.range a.pieces.length).zip a.pieces).filter (fun (j, p) =>
      (isPeer s p.pa || isMcast p.pa) && a.st[j]? == some .todo && !draySector s o p)).map (fun (j, p) =>
        ((sendKey o k a, lineOf p.pa), { lane := a.lane, acc := k, idx := j, piece := p })))

/-- May a packet leave: may every access that it carries be performed (R351)? Of the issue's lanes those below its first stand before it. -/
def packetMay (s : State) (o : Op) (held : Bool) (xs : List Send) : Bool :=
  let first := xs.foldl (fun m x => min m x.acc) ((xs.headD { lane := 0, acc := 0, idx := 0, piece := { pa := 0, n := 0, off := 0, kind := .rc } }).acc)
  let rest := o.without (xs.map (fun x => (x.acc, x.idx)))
  let low := { rest with accs := rest.accs.take first }
  xs.all (fun x => match o.accs[x.acc]? with
    | some a =>
      let one := a.part x.piece
      if a.act = 0 then mayPerform s low one && !readAfterStore s rest one else !held && engineMaySend s rest (if byLane o a then first else x.acc) one
    | none => false)

/-- Does the access leave as a signal packet (R295, R296)? -/
def isSignal (o : Op) (a : Access) : Bool :=
  match o.kind with
  | .hsig _ _ => true
  | .hrem _ _ _ => a.act == 3
  | _ => false

/-- The copies of a multicast packet that a switch makes: one per top-level entry of the tree (R355). -/
def mcCopies (p : Packet) : Nat → List Nat → List Packet
  | 0, _ => []
  | fuel + 1, t => match t with
    | [] => []
    | e :: rest =>
      let span := bits e 9 6
      { p with dst := bits e 0 9, tree := rest.take (span - 1) } :: mcCopies p fuel (rest.drop (span - 1))

/-- Can a member of a tree not be reached: is it fenced or unreachable (R346, R357)? -/
def cutOff (s : State) (q : Nat) : Bool := q != s.pkg && !isMember s q

/-- The branch NACK that a package or switch sends for a subtree. -/
def nackPacket (p : Packet) (root span reason : Nat) : Packet :=
  { kind := 10, src := p.src, dst := p.src, cls := p.cls, echo := p.mark, tag := p.tag, offset := p.offset, group := p.group, fdom := p.fdom
    opnd := root + span * 2 ^ 16, reason := reason }

/-- The parts that a tag stands for. -/
def tagParts (o : Op) (key line : Nat) : List (Nat × Nat) :=
  ((List.range o.accs.length).zip o.accs).flatMap (fun (k, a) =>
    if sendKey o k a == key then
      ((List.range a.pieces.length).zip a.pieces).filterMap (fun (j, p) =>
        if lineOf p.pa == line && a.st[j]? == some .sent then some (k, j) else none)
    else [])

/-- A multicast line is complete when every package of its tree has answered (R357). -/
def mcSettle (tag : Nat) (s : State) : State :=
  match mfind tag s.fab.mcWait with
  | none => s
  | some t =>
    if t.all (fun e => bit e 15) then
      let s1 := { s with fab := { s.fab with mcWait := merase tag s.fab.mcWait, tags := merase tag s.fab.tags } }
      (match mfind tag s.fab.tags with
       | some (oid, key, line) => (match findOp s1 oid with
          | some o => markParts oid .done (tagParts o key line) s1
          | none => s1)
       | none => s1)
    else s

/-- Marks `span` entries of a tree from the one of package `q` on as answered. -/
def mcMark (q span : Nat) (t : List Nat) : List Nat :=
  let i := t.findIdx (fun e => bits e 0 9 == q && !bit e 15)
  ((List.range t.length).zip t).map (fun (j, e) => if i ≤ j ∧ j < i + span ∧ !bit e 15 then e + 2 ^ 15 else e)

def mcAnswer (tag q span : Nat) (s : State) : State :=
  mcSettle tag { s with fab := { s.fab with mcWait := mmodify tag (mcMark q span) s.fab.mcWait } }

/-- Writes bytes of one line of local memory for the package itself. -/
def deviceWrite (pa n v : Nat) (s : State) : State :=
  lineWrite s ((partOfLine s pa).getD 0) (lineOf pa) ((List.range n).map (fun i => (pa % 128 + i, bits v (8 * i) 8))) false

/-- Writes bytes at a physical address for the package (R348). -/
def physWrite (pa n v : Nat) (s : State) : State :=
  match paKind s pa with
  | .hbm a => deviceWrite a n v s
  | .pooled _ | .host => memSet (l1Drop (recallOwner (poolNote s pa) (lineOf pa) none) (lineOf pa) (fun _ => true)) pa n v
  | _ => s

/-- The shadow add of a TLB entry that goes: one read-modify-write at the home (R209, R390). One whose word lies outside the
partition's own channel groups, or in the reserved area, is discarded (R378). -/
def shadowAdd (e : TlbEnt) (s : State) : State :=
  let r := (getPart s e.part).shadowOff
  if bit r 0 && e.hits != 0 then
    match paKind s (e.pte + bits r 3 49 * 8) with
    | .hbm a =>
      let at_ := homePa s e.part a
      if ownsRange (getPart s e.part) a 2 then physWrite at_ 2 (min 65535 (memGet s at_ 2 + e.hits)) s else s
    | _ => s
  else s

/-- A TLB drops the entries that pass, and adds their counts (R209). -/
def tlbEvict (p : TlbEnt → Bool) (s : State) : State :=
  (s.tlb.filter p).foldl (fun t e => shadowAdd e t) { s with tlb := s.tlb.filter (fun e => !p e) }

/-- Logs a branch NACK at its source (R357): in the ring, or in FAB_ERRLOG while EN is clear. -/
def nackLog (group root span reason offset : Nat) (s : State) : State :=
  let l := s.fab.nacklog
  if !bit l 0 then errCount 1 1 s
  else
    let ring := bits l 12 40 * 4096
    let base := hostAt s ring
    let n := memGet s base 8
    let at_ := hostAt s (ring + 32 + 32 * (n % 2 ^ (bits l 1 5 + 6)))
    deviceWrite base 8 (n + 1) (deviceWrite at_ 32 (group + root * 2 ^ 16 + span * 2 ^ 32 + reason * 2 ^ 40 + offset * 2 ^ 64 + s.ptp.ns % 2 ^ 64 * 2 ^ 128) s)

/-- Sends the packet of one key and line (R351). A read that fills a dray sector asks for the whole line (R211); the lanes of an
atomic travel with their operands. A subtree that cannot be reached gets no copy and a NACK with REASON 2, and with no package in the tree
the line is complete (R357). -/
def sendGroup (s : State) (o : Op) (key line : Nat) (xs : List Send) : State :=
  match xs.head? with
  | none => s
  | some x0 =>
    let tag := s.fab.nextTag
    let acc := fun (x : Send) => (o.accs[x.acc]?).getD { lane := 0, va := 0, n := 0 }
    let a0 := acc x0
    let parts := xs.flatMap (fun x =>
      if accReads o (acc x) then (List.range x.piece.n).map (fun i => (x.piece.pa % 128 + i, 0))
      else (partBytes (acc x) x.piece).map (fun e => (x.piece.pa % 128 + e.1, e.2)))
    let sector := xs.any (fun x => accReads o (acc x) && x.piece.borrow && x.piece.kind != .so) && drayOn s o.part && o.hint != 3
    let pa := x0.piece.pa / 128 * 128
    let base : Packet :=
      { src := s.pkg, cls := classOfOp s o, tag := tag, fdom := (getPart s o.part).fdom
        mask := if sector then 2 ^ 128 - 1 else parts.foldl (fun m e => m ||| 2 ^ e.1) 0
        data := parts.foldl (fun d e => putBytes d e.1 1 e.2) 0 }
    let tree := match paKind s pa with
      | .mcast g _ => ((mcEntry s g).map (fun e => e.tree)).getD []
      | _ => []
    let ps : List Packet := match paKind s pa with
      | .peer q off =>
        let k := if isSignal o a0 then 6 else if accReads o a0 then 0 else if accWrites o a0 then 2 else 3
        [{ base with kind := k, dst := q, offset := off, opnd := opndOf o a0
                     lanes := if k = 3 then xs.map (fun (x : Send) => (x.piece.pa % 128, (acc x).data, (acc x).cmpv)) else [] }]
      | .mcast g off => mcCopies { base with kind := 9, offset := off, group := g } 33 tree
      | _ => []
    let lost := ps.filter (fun p => p.kind == 9 && cutOff s p.dst)
    let s1 := queuePackets (ps.filter (fun p => !(p.kind == 9 && cutOff s p.dst))) { s with fab := { s.fab with
      nextTag := (tag + 1) % 2 ^ 32
      tags := if ps.isEmpty then s.fab.tags else minsert tag (o.oid, key, line) s.fab.tags
      mcWait := if tree.isEmpty then s.fab.mcWait else minsert tag tree s.fab.mcWait } }
    let s2 := if accReads o a0 then s1 else opRelease s1 o
    let s3 := if accReads o a0 then s2
              else if accWrites o a0 then xs.foldl (fun t x => (partBytes (acc x) x.piece).foldl (fun t e => drayWrite t o.part (x.piece.pa + e.1) [e.2]) t) s2
              else drayDrop s2 o.part line
    lost.foldl (fun t (p : Packet) => mcAnswer tag p.dst (p.tree.length + 1) (nackLog p.group p.dst (p.tree.length + 1) 2 p.offset t))
      (markParts o.oid (if ps.isEmpty then .done else .sent) (xs.map (fun (x : Send) => (x.acc, x.idx))) s3)

/-- Sends every packet of an operation that may leave. -/
def pumpOp (s : State) (oid : Nat) : State :=
  match findOp s oid with
  | none => s
  | some o =>
    if o.finished then s
    else
      let xs := waiting s o
      if xs.isEmpty then s
      else
        let held := o.accs.any (fun a => a.act != 0) && engineHeld s o
        ((xs.map (fun x => x.1)).eraseDups).foldl (fun t k =>
          let ys := (xs.filter (fun x => x.1 == k)).map (fun x => x.2)
          if packetMay s o held ys then sendGroup t o k.1 k.2 ys else t) s

/-- Engines that reach the staging area of a collective of their block (R344). -/
def collTouch (s : State) : State :=
  if !(s.ops.any (fun o => (stageAt o.kind).isSome)) then s
  else (s.ops.filter (fun e => !e.onLdSt && !e.finished)).foldl (fun t e =>
    ((readSpans s e ++ writeSpans s e).filter (fun r => padPlace e.bid 0 ≤ r.at_ && r.at_ < padPlace (e.bid + 1) 0)).foldl
      (fun t r => stageTouch e.bid (r.at_ - padPlace e.bid 0) r.n t) t) s

/-- Sends what may leave now. -/
def pump (s0 : State) : State :=
  let s := collTouch s0
  (s.ops.map (fun o => o.oid)).foldl (fun t i => pumpOp (engineStart t i) i) s

/-- Does a store that has applied every part, with every update acknowledged, end now (R189 step 5)? -/
def storeReady (s : State) (o : Op) : Bool := !o.finished && (o.isStore || o.isAtomic) && !o.isOpen && !(s.updates.any (fun u => u.oid == o.oid))

end Sys2Proof.Machine
end

