-- ==== Sys2Proof/Machine/Lane.lean ====
section
/-! DEFINITION. The conversion and lane class (spec/09 R164 to R176). -/

namespace Sys2Proof.Machine

/-- The exact value of a source in a type (R165). -/
def valOf (t : OTy) (w : Nat) : Val :=
  match t with
  | .flt f => fval f w
  | .int k => .ofInt (ival k w)
  | _ => .ofInt (w : Int)

/-- CVT of one value (R165). -/
def cvtOut (src dst : OTy) (rnd : Rnd) (sat : Bool) (b w : Nat) : Nat :=
  match dst with
  | .flt f => roundTo (valOf src w) f rnd sat b
  | .int k => (match src with
    | .flt f => widenResult dst (cvtInt (fval f w) k rnd b)
    | _ => intOut dst sat (intOf src w))
  | _ => w % 2 ^ 32

def bodyCvt (x : Ctx) : Res :=
  laneOp x x.ty.regs x.isSR (fun l =>
    let b := srcB x l
    (cvtOut (tyOf .pairI x.r.fn) x.ty x.rnd x.r.sat (x.sr l 0) b.1, b.2))

/-- The block descriptor's contents, or the POISON trap of the lanes that read it (R166, R418); the conditions on its bits stand
with the checks before (descBad). -/
def descCheck (x : Ctx) (k : Nat → Res) : Res :=
  let d := srcB x x.lo
  if d.2 && !(workLanes x).isEmpty then trapLanes .poison (workLanes x) else k d.1

/-- QBLK of the block that begins at lane `lo` (R167): the integers, the scale byte and the poison. -/
def qblkBlock (x : Ctx) (desc lo L : Nat) : List Int × Nat × Bool :=
  let a := (List.range L).map (fun k => srcA x (lo + k))
  let q := quantBlock (a.map (fun v => fval x.fmt v.1)) (desc % 16) x.rnd ((List.range L).map (fun k => x.sr (lo + k) 0))
  (q.1, q.2, a.any (fun v => v.2))

def bodyQblk (x : Ctx) : Res :=
  descCheck x (fun desc =>
    let L := blkLen (bits desc 4 2)
    let nb := 96 / L
    let ls := (workLanes x).filter (fun l => decide (l / L < nb))
    let blks := ((List.range nb).filter (fun b => ls.any (fun l => l / L == b))).map (fun b => (b, qblkBlock x desc (b * L) L))
    let out := ls.map (fun l =>
      let q := (mfind (l / L) blks).getD ([], 0, false)
      (l, (if x.r.fn = 0 then wrap 32 (q.1.getD (l % L) 0) else q.2.1), q.2.2 || (predOf x l).2))
    let g := out.foldl (fun g e => writeDst x g x.r.d 1 e.1 e.2.1 e.2.2) x.g
    .ok (setGroup g x.s) { poisoned := out.any (fun e => e.2.2), sr := x.isSR })

/-- DQBLK of one lane (R168). -/
def dqblkOut (x : Ctx) (desc l : Nat) : Nat :=
  let code := desc % 16
  let n := fmtBits code
  let a := (srcA x l).1
  let sc := bits (srcC x l).1 0 8
  let q : Int := if fmtSigned code then toSigned n a else ((bits a 0 n : Nat) : Int)
  x.round l (if sc = 0x80 then .nan else dqVal q (scaleOf sc))

def bodyDqblk (x : Ctx) : Res :=
  descCheck x (fun desc => laneOp x 1 x.isSR (fun l => (dqblkOut x desc l, (srcA x l).2 || (srcC x l).2)))

/-- The lane that SHFL reads (R170); none outside 0 to 95. -/
def shflLane (fn l k : Nat) : Option Nat :=
  let m := match fn with
    | 0 => k
    | 1 => if k ≤ l then l - k else 96
    | 2 => l + k
    | _ => l ^^^ k
  if m < 96 then some m else none

def bodyShfl (x : Ctx) : Res :=
  laneOp x x.ty.regs false (fun l =>
    let k := srcB x l
    match shflLane x.r.fn l (k.1 % 2 ^ 32) with
    | some m =>
      let a := srcA x m
      (a.1, a.2 || k.2)
    | none => (0, k.2))

/-- The participating lanes (R171). -/
def partSet (x : Ctx) : List Nat := enLanes x

/-- P is unknown when a lane's predicate is poisoned. -/
def partPoison (x : Ctx) : Bool := !(ppLanes x).isEmpty

/-- Writes one result to the lanes of P, or once to a uniform destination (R171, R176). When a predicate is poisoned the
lanes that are written are those of P and those whose predicate is poisoned (R57). -/
def partWrite (x : Ctx) (n : Nat) (sr : Bool) (f : Nat → Nat × Bool) : Res :=
  let ls := (workLanes x)
  let ls1 := if isV x.r.d then ls else ls.take 1
  let out := ls1.map (fun l => (l, (f l).1, (f l).2 || partPoison x))
  let g := out.foldl (fun g e => writeDst x g x.r.d n e.1 e.2.1 e.2.2) x.g
  .ok (setGroup g x.s) { poisoned := out.any (fun e => e.2.2), sr := sr }

/-- The lanes whose values count as P's: with a poisoned predicate the result is computed as if its lane were enabled. -/
def contrib (x : Ctx) : List (Nat × Nat × Bool) := (workLanes x).map (fun l => (l, srcB x l))

def bodyMatch (x : Ctx) : Res :=
  let cs := contrib x
  let p := cs.any (fun e => e.2.2)
  partWrite x (if x.r.fn = 0 then 3 else 1) false (fun l =>
    let v := (srcB x l).1
    let same := (cs.filter (fun e => e.2.1 == v)).map (fun e => e.1)
    (if x.r.fn = 0 then (maskOf same).toNat else same.headD l, p))

def bodyBallot (x : Ctx) : Res :=
  let cs := contrib x
  let m := (maskOf ((cs.filter (fun e => e.2.1 % 2 == 1)).map (fun e => e.1))).toNat
  partWrite x 3 false (fun _ => (m, cs.any (fun e => e.2.2)))

def bodyVote (x : Ctx) : Res :=
  let cs := contrib x
  let bs := cs.map (fun e => e.2.1 % 2)
  let r := match x.r.fn with
    | 0 => bs.all (fun b => b == 1)
    | 1 => bs.any (fun b => b == 1)
    | _ => bs.all (fun b => b == 1) || bs.all (fun b => b == 0)
  partWrite x 1 false (fun _ => (condWord r, cs.any (fun e => e.2.2)))

/-- The exact sum of a list of values with R174's zeros: a zero of one sign when every value is one. -/
def sumVals (rnd : Rnd) (vs : List Val) : Val :=
  match vs with
  | [] => .fin false 0 1
  | v :: rest =>
    if vs.all (fun w => w.isZero && w.neg == v.neg) then v
    else
      let t := rest.foldl (fun a b => match a, b with
        | .fin sa na da, .fin sb nb db =>
          let s := signedNum sa (na * db) + signedNum sb (nb * da)
          .fin (decide (s < 0)) s.natAbs (da * db)
        | a, b => vadd rnd a b) v
      if t.isZero then .fin (rnd == .rdn) 0 1 else t

/-- A reduction of contents by an operator of R174; `b` are the random bits of its rounding. -/
def reduceOf (x : Ctx) (op b : Nat) (vs : List Nat) : Nat :=
  let t := x.ty
  let w := t.width
  match op with
  | 0 => intOut t x.r.sat (vs.foldl (fun a v => a + intOf t v) 0)
  | 1 => intOut t false ((vs.map (intOf t)).foldl (fun a v => if v < a then v else a)
      (match t with | .int k => k.maxVal | _ => (2 ^ 32 : Nat) - 1))
  | 2 => intOut t false ((vs.map (intOf t)).foldl (fun a v => if a < v then v else a) (match t with | .int k => k.minVal | _ => 0))
  | 3 => vs.foldl (fun a v => a &&& v) (2 ^ w - 1) % 2 ^ w
  | 4 => vs.foldl (fun a v => a ||| v) 0 % 2 ^ w
  | 5 => vs.foldl (fun a v => a ^^^ v) 0 % 2 ^ w
  | 6 => roundTo (sumVals x.rnd (vs.map (fval x.fmt))) x.fmt x.rnd x.r.sat b
  | 7 => (match vs with | [] => 0 | v :: r => r.foldl (minMax x.fmt false false) (minMax x.fmt false false v v))
  | _ => (match vs with | [] => 0 | v :: r => r.foldl (minMax x.fmt true false) (minMax x.fmt true false v v))

def bodyRedu (x : Ctx) : Res :=
  let cs := contrib x
  let m0 := (cs.head?.map (fun e => e.1)).getD 0
  let v := reduceOf x x.r.fn (x.sr m0 0) (cs.map (fun e => e.2.1))
  partWrite x x.ty.regs x.isSR (fun _ => (v, cs.any (fun e => e.2.2)))

def bodyScan (x : Ctx) : Res :=
  let cs := contrib x
  partWrite x x.ty.regs x.isSR (fun l =>
    let mine := cs.filter (fun e => decide (e.1 < l ∨ (x.r.fn < 8 ∧ e.1 = l)))
    (reduceOf x (x.r.fn % 8) (x.sr l 0) (mine.map (fun e => e.2.1)), mine.any (fun e => e.2.2)))

/-- CVT (R165). -/
def execCvt (f : Form) (s : State) : Host.Outcome State Fault Refusal := runWord (rawOf 0x40 f) bodyCvt s

/-- QBLK (R167). -/
def execQblk (f : Form) (s : State) : Host.Outcome State Fault Refusal := runWord (rawOf 0x41 f) bodyQblk s

/-- DQBLK (R168). -/
def execDqblk (f : Form) (s : State) : Host.Outcome State Fault Refusal := runWord (rawOf 0x42 f) bodyDqblk s

/-- SHFL (R170). -/
def execShfl (f : Form) (s : State) : Host.Outcome State Fault Refusal := runWord (rawOf 0x43 f) bodyShfl s

/-- MATCH (R173). -/
def execMatchOp (f : Form) (s : State) : Host.Outcome State Fault Refusal := runWord (rawOf 0x44 f) bodyMatch s

/-- BALLOT (R172). -/
def execBallot (f : Form) (s : State) : Host.Outcome State Fault Refusal := runWord (rawOf 0x45 f) bodyBallot s

/-- VOTE (R172). -/
def execVote (f : Form) (s : State) : Host.Outcome State Fault Refusal := runWord (rawOf 0x46 f) bodyVote s

/-- REDU (R174). -/
def execRedu (f : Form) (s : State) : Host.Outcome State Fault Refusal := runWord (rawOf 0x47 f) bodyRedu s

/-- SCAN (R175). -/
def execScan (f : Form) (s : State) : Host.Outcome State Fault Refusal := runWord (rawOf 0x48 f) bodyScan s

end Sys2Proof.Machine
end

