-- ==== Sys2Proof/Machine/Mem.lean ====
section
/-! DEFINITION. The memory class (spec/15 R255 to R280). An instruction checks and translates at issue and leaves an
operation; events perform what is not performed at once. -/

namespace Sys2Proof.Machine

/-- A lane's address (R258): a pad offset, or a virtual address with the translation register it goes through. -/
structure Where where
  lane : Nat
  pad : Bool := false
  off : Int := 0
  va : Nat := 0
  xr : Option XReg := none
  bad : Bool := false
deriving DecidableEq, Repr

/-- Reads the address of lane `l`; `bad` when the base or the offset is poisoned. -/
def whereOf (x : Ctx) (l : Nat) : Where :=
  let o := srcB x l
  let off := toSigned 32 o.1
  if x.r.a = 1022 then { lane := l, pad := true, off := off, bad := o.2 }
  else if isX x.r.a then
    let xr := (mfind (x.r.a - 928) x.g.xregs).getD {}
    { lane := l, off := off, va := wrap 64 (((xr.vbase + xr.vhi * 2 ^ 57 : Nat) : Int) + off), xr := some xr, bad := o.2 }
  else
    let a := srcA x l
    { lane := l, off := off, va := wrap 64 ((a.1 : Int) + off), bad := a.2 || o.2 }

/-- Translates a lane's access. -/
def xlateWhere (x : Ctx) (s : State) (need : Need) (mc : Bool) (w : Where) (n : Nat) : Except XFault (List Piece) × State :=
  match w.xr with
  | some xr => xlateX s x.b.core x.part x.g.service need mc xr w.off n
  | none => xlateVa s x.b.core x.part x.g.service need mc w.va n

/-- Translates the accesses of the lanes in turn. -/
def xlateLanes (x : Ctx) (need : Need) (mc : Bool) (n : Nat) : List Where → State → List (Where × Except XFault (List Piece)) × State
  | [], s => ([], s)
  | w :: ws, s =>
    if w.pad then
      let r := xlateLanes x need mc n ws s
      ((w, .ok []) :: r.1, r.2)
    else
      let t := xlateWhere x s need mc w n
      let r := xlateLanes x need mc n ws t.2
      ((w, t.1) :: r.1, r.2)

/-- The lanes that perform an access: those enabled, under UNI the lowest alone (R264). -/
def accLanes (x : Ctx) : List Nat := if x.r.uni then (if (enLanes x).isEmpty then [] else [x.lo]) else enLanes x

/-- The pad-extent trap (R185, R259 step 1). A lane whose offset is poisoned is not judged by the bits that it holds (log 78). -/
def padExtent (x : Ctx) (ws : List Where) (n : Nat) : Option Res :=
  let out := ws.filter (fun w => w.pad && !w.bad && !padIn x.b w.off n)
  match out.head? with
  | some w => some (.trap { cause := .padExtent, lanes := maskOf (out.map (fun w => w.lane)), addr := wrap 64 w.off })
  | none => none

/-- The data-compare trap (R426): the lanes that match any entry, with the lowest entry that one matches (log 39). `kind` is 1
for a load, 2 otherwise. -/
def dataBreak (x : Ctx) (kind : Nat) (ws : List Where) (n : Nat) : Option Res :=
  if x.g.service then none
  else
    let c := getCore x.s x.b.core
    let hits := fun (k : Nat) =>
      let e := cget 0 k c.dbgCmp
      let ml := bits e 60 4
      let lo := bits e 0 57 / 2 ^ ml * 2 ^ ml
      if bit e 57 && (bits e 58 2 == kind || bits e 58 2 == 3) then
        ws.filter (fun w => !w.pad && !w.bad && decide (w.va % 2 ^ 57 < lo + 2 ^ ml ∧ lo < w.va % 2 ^ 57 + n))
      else []
    match (List.range 8).find? (fun k => !(hits k).isEmpty) with
    | some k => some (.trap { cause := .dataCompare, lanes := maskOf (((List.range 8).flatMap hits).map (fun w => w.lane)), code := k })
    | none => none

/-- Bytes of the group's own stores that a read of some lanes sees before their update has reached the core (R190): those not yet
applied at their home, and, for a read of the L1 copy, those whose update is on its way. Of a UN page a lane is sure to see only its
own (R222). -/
def ownBytes (s : State) (gid seq core : Nat) (lanes : List Nat) (pa n : Nat) (l1 : Bool) : List (Option Nat) :=
  let ops := s.ops.filter (fun e => e.gid == gid && decide (e.seq < seq) && e.isStore)
  ops.foldl (fun acc o => o.accs.foldl (fun acc a =>
    ((List.range a.pieces.length).zip a.pieces).foldl (fun acc (j, p) =>
      let live := (p.kind != .un || lanes.contains a.lane) && (a.st[j]? != some .done || (l1 && s.updates.any (fun u => u.oid == o.oid && u.core == core && decide (u.pa < p.pa + p.n ∧ p.pa < u.pa + u.bytes.length))))
      if live then
        ((List.range n).zip acc).map (fun (i, b) =>
          if decide (p.pa ≤ pa + i ∧ pa + i < p.pa + p.n) && !a.away.contains (p.off + (pa + i - p.pa)) then
            some (bits a.data (8 * (p.off + (pa + i - p.pa))) 8) else b)
      else acc) acc) acc) ((List.range n).map (fun _ => none))

/-- Lays the group's own bytes over a value. -/
def overlay (v : Nat) (own : List (Option Nat)) : Nat :=
  ((List.range own.length).zip own).foldl (fun w (i, b) => match b with | some c => putBytes w i 1 c | none => w) v

/-- The value of a piece that is present at issue: in the core's L1, or wholly the group's own (R187, R190). -/
def presentPiece (s : State) (gid seq core lane : Nat) (p : Piece) : Option Nat :=
  let own := ownBytes s gid seq core [lane] p.pa p.n true
  if own.all (fun b => b.isSome) then some (overlay 0 own)
  else (l1Read s core p.pa p.n).map (fun v => overlay v own)

/-- The value of an access present at issue; SO pages are read at their home (R220), and so is a UN page to which writes are not yet
seen by all (R222). -/
def presentAcc (s : State) (gid seq core : Nat) (a : Access) : Option Nat :=
  if a.onSO || (a.onUN && (!s.past.isEmpty || s.ops.any (fun e => e.isStore && e.accs.any Access.onUN))) then none
  else a.pieces.foldl (fun m p => match m, presentPiece s gid seq core a.lane p with
    | some v, some w => some (putBytes v p.off p.n w)
    | _, _ => none) (some 0)

/-- A loaded value as its registers hold it (R262); TYPE 15 stands for the words of LDP. -/
def ldValue (ty v : Nat) : Nat := if ty = 15 then v else widenResult (tyOf .pairI ty) (v : Int)

/-- A pad access. -/
def padAcc (w : Where) (n data cmpv : Nat) : Access :=
  { lane := w.lane, va := w.off.toNat, n := n, pad := true, st := [.todo], data := data, cmpv := cmpv }

/-- A memory access. -/
def memAcc (w : Where) (n data cmpv : Nat) (ps : List Piece) : Access :=
  { lane := w.lane, va := w.va, n := n, pieces := ps, st := ps.map (fun _ => .todo), data := data, cmpv := cmpv }

/-- Completes a lane of a load: its value or poison reaches its registers (R214, R262). A prefetch meets no fault (R278). -/
def landLoad (s : State) (o : Op) (k : Nat) (v : Nat) (fkind addr : Nat) : State :=
  let s1 := modOp o.oid (fun o => { o with accs := ((List.range o.accs.length).zip o.accs).map (fun (j, a) =>
    if j = k then { a with st := a.st.map (fun _ => .done), data := v, fkind := if o.isPref then 0 else fkind } else a) }) (padTouch s o k)
  match o.kind, o.accs[k]? with
  | .load d n ty _, some a =>
    if fkind = 0 then landReg o.gid d n a.lane (ldValue ty v) false s1
    else if o.service then partFatal o.part (opCore s o) (landReg o.gid d n a.lane 0 false s1)
    else ownPoison (landReg o.gid d n a.lane 0 true s1) o a.lane fkind addr false []
  | _, _ => s1

/-- Ends a load or returning atomic whose every access is performed, with every update acknowledged. -/
def endIfRead (oid : Nat) (s : State) : State :=
  match findOp s oid with
  | some o => if !o.finished && !o.isOpen && !(s.updates.any (fun u => u.oid == oid)) then endOp oid s else s
  | none => s

/-- Do two lanes of a load share a byte? -/
def sameByte (a b : Access) : Bool :=
  if a.pad || b.pad then a.pad && b.pad && decide (a.va < b.va + b.n ∧ b.va < a.va + a.n)
  else a.pieces.any (fun p => b.pieces.any (fun q => decide (p.pa < q.pa + q.n ∧ q.pa < p.pa + p.n)))

/-- The open lanes that read a byte with one of the given ones, and so on: they are read together, so that each byte has one value
(R218). -/
def readMates (o : Op) : Nat → List Nat → List Nat
  | 0, ks => ks
  | fuel + 1, ks =>
    let more := (List.range o.accs.length).filter (fun k => !ks.contains k && (o.accs[k]?).any (fun a => a.isOpen &&
      ks.any (fun j => (o.accs[j]?).any (fun b => sameByte a b))))
    if more.isEmpty then ks else readMates o fuel (ks ++ more)

/-- The accesses that are read with the `k`th. -/
def matesOf (o : Op) (k : Nat) : List (Nat × Access) :=
  (readMates o o.accs.length [k]).filterMap (fun j => (o.accs[j]?).map (fun a => (j, a)))

/-- May accesses of an operation be performed together, as far as their order with others goes? -/
def matesMay (s : State) (o : Op) (ms : List (Nat × Access)) : Bool :=
  let rest := { o with accs := o.accs.filter (fun a => !(ms.any (fun m => m.2 == a))) }
  ms.all (fun m => mayPerform s rest m.2.rest)

/-- Is an update on its way to the core's copy of the line? -/
def updInFlight (s : State) (core line : Nat) : Bool := s.updates.any (fun u => u.core == core && lineOf u.pa == line)

/-- Performs the lanes of a load that are present (R14, R187). -/
def takePresent (x : Ctx) (oid : Nat) (s : State) : State :=
  let n := ((findOp s oid).map (fun o => o.accs.length)).getD 0
  let s1 := (List.range n).foldl (fun s k =>
    match findOp s oid with
    | none => s
    | some o => match o.accs[k]? with
      | none => s
      | some a =>
        let ms := matesOf o k
        if !a.isOpen || !matesMay s o ms then s
        else if a.pad then
          match getBlock s o.bid with
          | some b =>
            if ms.any (fun m => padStalls s b m.2.va m.2.n) then s
            else if padBad b a.va a.n then landLoad (softError s 2 (some o.part) (coreUnit b.core) 0) o k 0 3 a.va
            else landLoad (meet s o (accToks s o a)) o k (padGet b a.va a.n) 0 0
          | none => s
        else if ms.any (fun m => (presentAcc s o.gid o.seq x.b.core m.2).isNone) then s
        else match presentAcc s o.gid o.seq x.b.core a with
          | some v => landLoad (if a.pieces.any (fun p => updInFlight s x.b.core (lineOf p.pa)) then s else meet s o (accToks s o a)) o k v 0 0
          | none => s) s
  endIfRead oid s1

/-- The lanes of a load in replay: those whose destination the first attempt poisoned (R255). -/
def reissue (x : Ctx) (ls : List Nat) : List Nat := if x.inReplay then ls.filter (x.wasBad x.r.d) else ls

/-- A release or acquire whose lanes are all disabled still orders the group's accesses (R254). -/
def bareOp (x : Ctx) : Res := .ok (pump (sweepOps (addOp x.s { opOf x .ld .bare with counted := false }))) {}

/-- Is the instruction a release or acquire whose lanes are all disabled? -/
def isBare (x : Ctx) : Bool := x.r.order != 0 && !x.inReplay && (enLanes x).isEmpty && (ppLanes x).isEmpty

/-- LD and LDP (R260 to R266): `n` registers, `bytes` per lane. -/
def loadBody (n bytes ty : Nat) (x : Ctx) : Res :=
  if isBare x then bareOp x else
  let ls := reissue x (accLanes x)
  let pp := reissue x (if x.r.uni then (ppLanes x).take 1 else ppLanes x)
  let ws := ls.map (whereOf x)
  match dataBreak x 1 ws bytes with
  | some t => t
  | none =>
    match padExtent x ws bytes with
    | some t => t
    | none =>
      let good := ws.filter (fun w => !w.bad)
      let tr := xlateLanes x .rd false bytes good x.s
      let faults := tr.1.filterMap (fun (w, r) => match r with | .error e => some (w.lane, e) | .ok _ => none)
      let f0 := faults.head?
      if x.g.service && f0.isSome then .trap { cause := .translation, lanes := maskOf (faults.map (fun f => f.1)) }
      else
        let badLanes := pp ++ (ws.filter (fun w => w.bad)).map (fun w => w.lane)
        let dead := badLanes ++ faults.map (fun f => f.1)
        let accs := tr.1.filterMap (fun (w, r) => match r with
          | .ok ps => some (if w.pad then padAcc w bytes 0 0 else memAcc w bytes 0 0 ps)
          | .error e => some { lane := w.lane, va := w.va, n := bytes, fkind := e.1 })
        let g1 := dead.foldl (fun g l => (List.range n).foldl (fun g k => putPoison (putReg g (x.r.d + k) l 0) (x.r.d + k) l true) g) x.g
        let g2 := (accs.filter (fun a => a.isOpen)).foldl (fun g a => pendReg x.r.d n a.lane g) g1
        let s1 := setGroup g2 tr.2
        if x.inReplay && accs.isEmpty then .ok s1 { own := if dead.isEmpty then none else some (0, 0, false) }
        else
          let oid := s1.nextOp
          let s2 := addOp s1 { opOf x .ld (.load x.r.d n ty x.r.uni) with accs := accs }
          .ok (pump (takePresent x oid s2))
            { poisoned := !dead.isEmpty
              own := if dead.isEmpty then none else some (match f0 with | some f => (f.2.1, f.2.2, false) | none => (0, 0, false)) }

def bodyLd (x : Ctx) : Res := loadBody (iTy x.r).regs (memBytes x.r.ty) x.r.ty x
def bodyLdp (x : Ctx) : Res := loadBody (2 ^ (x.r.fn + 1)) (4 * 2 ^ (x.r.fn + 1)) 15 x

/-- Puts elements into an order that is free (log 14). -/
def shuffle {α : Type} (s : State) (xs : List α) : List α × State :=
  if xs.length < 2 then (xs, s)
  else
    let place := fun (n : Nat) => Config.freeChoice (s.fresh + n) % (n + 1)
    ((((List.range xs.length).zip xs).foldl (fun (acc : List α) (e : Nat × α) => acc.take (place e.1) ++ e.2 :: acc.drop (place e.1)) []), { s with fresh := s.fresh + xs.length })

/-- Lanes of a scatter on UN pages that reach one byte: the value of one remains (R218, R222), that of the last in a free order, so that
an aligned element is written as a whole (R225). -/
def unWinners (s : State) (accs : List Access) : List Access × State :=
  let bytesOfAcc := fun (a : Access) => a.pieces.flatMap (fun p => if p.kind == .un then (List.range p.n).map (fun i => p.pa + i) else [])
  if !(accs.any (fun a => accs.any (fun b => a.lane != b.lane && a.onUN && sameByte a b))) then (accs, s)
  else
    let order := shuffle s (accs.map (fun a => a.lane))
    let rank := fun (l : Nat) => order.1.findIdx (fun k => k == l)
    (accs.map (fun a => { a with away := a.pieces.flatMap (fun p => (List.range p.n).filterMap (fun i =>
      if p.kind == .un && accs.any (fun b => decide (rank a.lane < rank b.lane) && (bytesOfAcc b).contains (p.pa + i)) then some (p.off + i) else none)) }), order.2)

/-- Does a lane's access reach a UN page (R259 step 5)? -/
def reachesUn (x : Ctx) (s : State) (w : Where) (n : Nat) : Bool :=
  let tlb := fun (off : Nat) => match (tlbLeaf s x.b.core x.part ((w.va + off) % 2 ^ 64)).1 with
    | some (leaf, _) => kindOf (bits leaf 7 2) == .un
    | none => false
  let cs := chunks (n / 128 + 2) w.va n 0
  if w.pad then false
  else match w.xr with
    | none => cs.any (fun c => tlb c.1)
    | some xr => (cs.flatMap (splitAt (Int.ofNat xr.limit) w.off)).any (fun c =>
        let o : Int := w.off + (c.1 : Int)
        if xr.valid && decide (0 ≤ o ∧ o < (xr.limit : Int)) then kindOf xr.ord == .un else tlb c.1)

/-- Steps 4 to 6 of R259, for the lanes that store, signal or change memory: the trap, or what follows with their pieces. `mask` gives
the mask of the lanes that meet a trap. -/
def reachChecks (x : Ctx) (need : Need) (mc atomic : Bool) (n : Nat) (mask : List Nat → LaneMask) (ws : List Where)
    (k : State → List (Where × List Piece) → Res) : Res :=
  let tr := xlateLanes x need mc n ws x.s
  let fails := fun (pool : Bool) => tr.1.filterMap (fun (e : Where × Except XFault (List Piece)) => match e.2 with
    | .error f => if (f.1 == 2) == pool then some (e.1.lane, f) else none
    | .ok _ => none)
  let fail := fun (c : Cause) (fs : List (Nat × XFault)) => match fs.head? with
    | some f => some (Res.trap { cause := c, lanes := mask (fs.map (fun (g : Nat × XFault) => g.1)), addr := f.2.2, fkind := f.2.1 })
    | none => none
  let un := if atomic then ws.filter (fun w => reachesUn x tr.2 w n) else []
  match fail .translation (fails false) with
  | some t => t
  | none =>
    if !un.isEmpty then .trap { cause := .pageKind, lanes := mask (un.map (fun w => w.lane)) }
    else match fail .poolRegion (fails true) with
      | some t => t
      | none => k tr.2 (tr.1.filterMap (fun (w, r) => match r with
          | .ok ps => some (w, ps)
          | .error _ => none))

/-- The checks of R259 on stores and atomics, in their order; `val` reads a lane's value with its poison. -/
def storeChecks (x : Ctx) (need : Need) (mc atomic : Bool) (n : Nat) (val : Nat → Nat × Bool) (k : State → List Access → Res) (cmp : Nat → Nat) : Res :=
  let ws := (accLanes x).map (whereOf x)
  match dataBreak x 2 (if x.inReplay then [] else ws) n with
  | some t => t
  | none =>
    match padExtent x ws n with
    | some t => t
    | none =>
      let pz := ppLanes x ++ (ws.filter (fun w => w.bad || (val w.lane).2)).map (fun w => w.lane)
      if !pz.isEmpty then trapLanes .poison pz
      else if x.inReplay then k x.s []
      else
        let odd := ws.filter (fun w => atomic && (if w.pad then w.off.toNat else w.va) % n != 0)
        if !odd.isEmpty then trapLanes .operandForm (odd.map (fun w => w.lane))
        else reachChecks x need mc atomic n maskOf ws (fun s es => k s (es.map (fun (w, ps) =>
          if w.pad then padAcc w n (val w.lane).1 (cmp w.lane) else memAcc w n (val w.lane).1 (cmp w.lane) ps)))

/-- Performs the pad accesses of a store or atomic that may go now. -/
def putPads (oid : Nat) (step : State → Op → Nat → Access → State) (s : State) : State :=
  let n := ((findOp s oid).map (fun o => o.accs.length)).getD 0
  (List.range n).foldl (fun s k =>
    match findOp s oid with
    | none => s
    | some o => match o.accs[k]? with
      | none => s
      | some a =>
        let stall := match getBlock s o.bid with | some b => padStalls s b a.va a.n | none => true
        if a.pad && a.isOpen && mayPerform s o a && !stall then step s o k a else s) s

/-- Marks an access performed. -/
def accDone (oid k : Nat) (s : State) : State :=
  modOp oid (fun o => { o with accs := ((List.range o.accs.length).zip o.accs).map (fun (j, a) => if j = k then { a with st := a.st.map (fun _ => .done) } else a) }) s

/-- Writes pad bytes of a lane of the LD and ST paths; `rmw` says that it changes what it has read. -/
def padWrite (s : State) (o : Op) (lane : Nat) (rmw : Bool) (off n v : Nat) : State := padDone s (modBlock o.bid (padPut off n v) s) o lane rmw [(off, n)]

/-- Writes a store's pad bytes. -/
def padStore (s : State) (o : Op) (k : Nat) (a : Access) : State := accDone o.oid k (padWrite (opRelease s o) o a.lane false a.va a.n a.data)

/-- Ends a store of which nothing is left to do and no event is due: one that reached only pad, or nothing. -/
def endIfPad (oid : Nat) (s : State) : State :=
  match findOp s oid with
  | some o => if storeReady s o && o.accs.all (fun a => a.pad) then endOp oid s else s
  | none => s

/-- ST and STP (R262 to R266). -/
def storeBody (bytes : Nat) (val : Nat → Nat × Bool) (x : Ctx) : Res :=
  storeChecks x .wr true false bytes val (fun s accs =>
    if x.inReplay then .ok s {}
    else if isBare x then bareOp { x with s := s }
    else
      let oid := s.nextOp
      let s1 := addOp s { opOf x .st .store with accs := accs }
      .ok (pump (endIfPad oid (putPads oid padStore s1))) {}) (fun _ => 0)

/-- The words of a register group as one number, with their poison. -/
def groupVal (x : Ctx) (code route l n : Nat) : Nat × Bool :=
  let ws := (List.range n).map (fun k => readSrc x tyU32 (code + k) route l)
  (((List.range n).zip ws).foldl (fun v (k, w) => v + w.1 * 2 ^ (32 * k)) 0, ws.any (fun w => w.2))

def bodySt (x : Ctx) : Res := storeBody (memBytes x.r.ty) (fun l => srcC x l) x
def bodyStp (x : Ctx) : Res := storeBody (4 * 2 ^ (x.r.fn + 1)) (fun l => groupVal x x.r.c x.r.rc l (2 ^ (x.r.fn + 1))) x

/-- An atomic is performed, and its old value reaches its destination; or its fault does, as 0 with poison (R268, R269, R411: at service level only a
load's own fault is a double trap). -/
def landAtom (s : State) (o : Op) (k old fkind addr : Nat) (noRepl : Bool) : State :=
  let s1 := modOp o.oid (fun o => { o with accs := ((List.range o.accs.length).zip o.accs).map (fun (j, a) =>
    if j = k then { a with st := a.st.map (fun _ => .done), old := old, fkind := fkind } else a) }) (padTouch s o k)
  match o.kind, o.accs[k]? with
  | .atomic _ _ (some (d, n)) _, some a =>
    if fkind = 0 then modGroup o.gid (fun g => (o.first.filter (fun e => e.1 == a.lane)).foldl (fun g e => clearBad e.2 e.1 g) g) (landReg o.gid d n a.lane old false s1)
    else if o.service then landReg o.gid d n a.lane 0 true s1
    else ownPoison (landReg o.gid d n a.lane 0 true s1) o a.lane fkind addr noRepl
      (if noRepl then (List.range n).map (fun i => regKey (d + i) a.lane) else [])
  | _, _ => s1

/-- Performs an atomic on pad, at the bank (R193, R273). -/
def padAtom (s : State) (o : Op) (k : Nat) (a : Access) : State :=
  match o.kind, getBlock s o.bid with
  | .atomic fn ty _ wide, some b =>
    if padBad b a.va a.n then landAtom (softError s 2 (some o.part) (coreUnit b.core) 0) o k 0 3 a.va false
    else
      let old := padGet b a.va a.n
      let s1 := meet (opRelease s o) o (accToks s o a)
      let s2 := match atomOf fn ty wide a.n old a.data a.cmpv with
        | some v => padWrite s1 o a.lane true a.va a.n v
        | none => s1
      landAtom s2 o k old 0 0 false
  | _, _ => s

/-- The lanes of a returning atomic that replay reissues (R255, R416): those that it poisoned itself on a data error and has not
performed since. -/
def atomRedo (x : Ctx) (ls : List Nat) : List Nat :=
  ls.filter (fun l => x.wasBad x.r.d l && !cget false (regKey x.r.d l) x.g.win.keep)

/-- The atomics (R267 to R273): `fn` as ATOM codes it, the path, the returned registers, the operand and what is compared. -/
def atomBody (fn : Nat) (path : Path) (ret : Option (Nat × Nat)) (wide : Bool) (bytes : Nat)
    (val : Nat → Nat × Bool) (cmp : Nat → Nat) (x : Ctx) : Res :=
  let again := atomRedo x (enLanes x)
  let redo := x.inReplay && ret.isSome && !again.isEmpty
  let y : Ctx := if redo then { x with mask := maskOf again, g := { x.g with replay := none } } else x
  let first := if redo then again.filterMap (fun l => (firstIssue x.g l).map (fun h => (l, h.seq))) else []
  storeChecks y .at false true bytes val (fun s accs =>
    if x.inReplay && !redo then .ok s {}
    else if isBare x then bareOp { x with s := s }
    else
      let s1 := match ret with
        | some (d, n) => setGroup (accs.foldl (fun g a => pendReg d n a.lane g) x.g) s
        | none => s
      let oid := s1.nextOp
      let s2 := addOp s1 { opOf x path (.atomic fn x.r.ty ret wide) with accs := accs, first := first }
      let s3 := putPads oid padAtom s2
      .ok (pump (if ret.isSome then endIfRead oid s3 else endIfPad oid s3)) {}) cmp

/-- Operand and compare values of a compare and swap: two register groups, the compared one first (R268). -/
def casVal (x : Ctx) (n : Nat) (l : Nat) : Nat × Bool :=
  let lo := groupVal x x.r.c x.r.rc l n
  let hi := groupVal x (x.r.c + n) x.r.rc l n
  (hi.1, lo.2 || hi.2)

def casCmp (x : Ctx) (n : Nat) (l : Nat) : Nat := (groupVal x x.r.c x.r.rc l n).1

/-- Registers of one operand of an atomic's type. -/
def atomRegs (x : Ctx) : Nat := (tyOf (.pairF .bf16) x.r.ty).regs

def atomFn (fn : Nat) (path : Path) (ret : Bool) (x : Ctx) : Res :=
  let n := atomRegs x
  if fn = 7 then atomBody fn path (if ret then some (x.r.d, n) else none) false (4 * n) (casVal x n) (casCmp x n) x
  else atomBody fn path (if ret then some (x.r.d, n) else none) false (4 * n) (fun l => srcC x l) (fun _ => 0) x

def bodyAtom (x : Ctx) : Res := atomFn x.r.fn .ld true x
def bodyAtomn (x : Ctx) : Res := atomFn x.r.fn .st false x

/-- ATOM's code of an ATOMP operation (R273). -/
def atompFn (o : Nat) : Nat := if o ≤ 4 then o else if o = 5 then 6 else if o = 6 then 7 else 10

def bodyAtomp (x : Ctx) : Res := atomFn (atompFn (x.r.fn % 8)) (if x.r.fn < 8 then .ld else .st) (x.r.fn < 8) x

def bodyAtomw (x : Ctx) : Res :=
  let ret := if x.r.fn = 2 then none else some (x.r.d, 4)
  let path : Path := if x.r.fn = 2 then .st else .ld
  if x.r.fn = 1 then atomBody 1 path ret true 16 (casVal x 4) (casCmp x 4) x
  else atomBody 0 path ret true 16 (fun l => groupVal x x.r.c x.r.rc l 4) (fun _ => 0) x

/-- The haul-fault trap of a recorded fault of the paths (R287). -/
def haulFault (x : Ctx) (paths : List Path) : Option Res :=
  match x.g.hfault with
  | some h => if paths.contains h.path then some (.trap { cause := .haulFault, lanes := x.mask, addr := h.addr, aux := h.pc, fkind := h.fkind }) else none
  | none => none

/-- The paths a path number of XFENCE names. -/
def namedPaths (n : Nat) : List Path := if n < 2 then [.ld, .st] else [pathOf n]

/-- FENCE (R274, R275). -/
def bodyFence (x : Ctx) : Res :=
  if !(ppLanes x).isEmpty then trapLanes .poison (ppLanes x)
  else
    let d := if x.r.fn = 1 && !x.inReplay && !(enLanes x).isEmpty then some x.r.d else none
    let g1 := match d with | some c => pendReg c 1 0 x.g | none => x.g
    let s1 := setGroup g1 x.s
    let s2 := addOp s1 { opOf x .ld (.fence d) with counted := false, poisoned := x.g.poolBad && !x.inReplay }
    .ok (pump (sweepOps s2)) {}

/-- XFENCE (R240, R276). -/
def bodyXfence (x : Ctx) : Res :=
  match haulFault x (namedPaths x.r.fn) with
  | some t => t
  | none => .ok (xfenceMark x.r.fn x.r.a x.s { x.g with xfences := x.g.xfences ++ [{ seq := x.g.seq, p := x.r.fn, q := x.r.a, scope := x.r.scope }] }) {}

/-- XLT (R277): the walk is an operation of the SV path; the register is pending until it is written. -/
def bodyXlt (x : Ctx) : Res :=
  let b := srcB x x.lo
  if b.2 then trapAll x .poison
  else
    let s1 := setGroup (putPend x.g x.r.d 0 true) x.s
    .ok (addOp s1 (opOf x .sv (.xlt x.r.d b.1))) { ctl := true }

/-- PREF (R278): whole lines; a lane whose line does not translate or whose level cannot hold it does nothing. -/
def bodyPref (x : Ctx) : Res :=
  if x.inReplay then .ok x.s {}
  else
    let ws := (accLanes x).map (whereOf x)
    match padExtent x ws 1 with
    | some t => t
    | none =>
      let good := ws.filter (fun w => !w.bad && !w.pad)
      let tr := xlateLanes x .rd false 1 good x.s
      let accs := tr.1.filterMap (fun (w, r) => match r with
        | .ok ps =>
          let keep := ps.all (fun p => !isPeer tr.2 p.pa || (x.r.fn == 2 && p.borrow))
          if keep then some (memAcc w 128 0 0 (ps.map (fun p => { p with pa := p.pa / 128 * 128, n := 128 }))) else none
        | .error _ => none)
      let oid := tr.2.nextOp
      let s1 := addOp tr.2 { opOf x .ld (.pref x.r.fn) with accs := accs }
      .ok (pump (endIfRead oid s1)) {}

/-- The physical ranges of a byte range widened to whole lines (R279); what does not translate is skipped. -/
def rangePieces (x : Ctx) (w : Where) : Nat → Nat → Nat → State → List (Nat × Nat) × State
  | 0, _, _, s => ([], s)
  | fuel + 1, at_, n, s =>
    if n = 0 then ([], s)
    else
      let o : Int := w.off + toSigned 64 (wrap 64 ((at_ : Int) - w.va))
      let k0 := min n (65536 - at_ % 65536)
      let k := match w.xr with
        | some xr => (((splitAt (Int.ofNat xr.limit) o (0, k0)).head?).map (fun c => c.2)).getD k0
        | none => k0
      let t := match w.xr with
        | some xr =>
          if xr.valid && decide (0 ≤ o ∧ o + k ≤ xr.limit) then
            (if bit xr.perm 0 && (paFault s x.part (xr.frame + o.toNat) false).isNone then
              ((.ok { pa := homePa s x.part (xr.frame + o.toNat), n := k, off := 0, kind := .rc } : Except XFault Piece), s) else (.error (1, at_), s))
          else xlatePiece s x.b.core x.part x.g.service .rd false at_ k 0
        | none => xlatePiece s x.b.core x.part x.g.service .rd false at_ k 0
      let r := rangePieces x w fuel ((at_ + k) % 2 ^ 64) (n - k) t.2
      (match t.1 with | .ok p => (p.pa, k) :: r.1 | .error _ => r.1, r.2)

/-- CFLUSH and CINV (R279, R280): the action is an operation of the SV path. -/
def cacheBody (inv : Bool) (x : Ctx) : Res :=
  let ls := enLanes x
  let ws := ls.map (whereOf x)
  let len := srcC x x.lo
  let pz := ppLanes x ++ (ws.filter (fun w => w.bad || len.2)).map (fun w => w.lane)
  if !pz.isEmpty then trapLanes .poison pz
  else if x.inReplay then .ok x.s {}
  else
    let n := len.1 % 2 ^ 32
    let r := if n = 0 then ([], x.s) else ws.foldl (fun (acc : List (Nat × Nat) × State) w =>
      let lo := w.va / 128 * 128
      let hi := (w.va + n + 127) / 128 * 128
      let q := rangePieces x w ((hi - lo) / 65536 + 4) lo (hi - lo) acc.2
      (acc.1 ++ q.1, q.2)) ([], x.s)
    .ok (addOp r.2 (opOf x .sv (.cache x.r.fn r.1 inv))) {}

def bodyCflush (x : Ctx) : Res := cacheBody false x
def bodyCinv (x : Ctx) : Res := cacheBody true x

/-- LD compact (R262). -/
def execLd (u : BitVec 1) (b a d : BitVec 7) (s : State) : Host.Outcome State Fault Refusal :=
  runWord (rawCompact 0x80 u.toNat b.toNat a.toNat d.toNat none) bodyLd s

/-- LD (R262). -/
def execLdExt (f : Form) (s : State) : Host.Outcome State Fault Refusal := runWord (rawOf 0x80 f) bodyLd s

/-- ST compact (R262). -/
def execSt (u : BitVec 1) (b a d : BitVec 7) (s : State) : Host.Outcome State Fault Refusal :=
  runWord (rawCompact 0x81 u.toNat b.toNat a.toNat d.toNat none) bodySt s

/-- ST (R262). -/
def execStExt (f : Form) (s : State) : Host.Outcome State Fault Refusal := runWord (rawOf 0x81 f) bodySt s

/-- LDP (R266). -/
def execLdp (f : Form) (s : State) : Host.Outcome State Fault Refusal := runWord (rawOf 0x82 f) bodyLdp s

/-- STP (R266). -/
def execStp (f : Form) (s : State) : Host.Outcome State Fault Refusal := runWord (rawOf 0x83 f) bodyStp s

/-- ATOM (R268). -/
def execAtom (f : Form) (s : State) : Host.Outcome State Fault Refusal := runWord (rawOf 0x84 f) bodyAtom s

/-- ATOMN (R270). -/
def execAtomn (f : Form) (s : State) : Host.Outcome State Fault Refusal := runWord (rawOf 0x85 f) bodyAtomn s

/-- ATOMW (R272). -/
def execAtomw (f : Form) (s : State) : Host.Outcome State Fault Refusal := runWord (rawOf 0x86 f) bodyAtomw s

/-- ATOMP (R273). -/
def execAtomp (f : Form) (s : State) : Host.Outcome State Fault Refusal := runWord (rawOf 0x87 f) bodyAtomp s

/-- FENCE (R274). -/
def execFence (f : Form) (s : State) : Host.Outcome State Fault Refusal := runWord (rawOf 0x88 f) bodyFence s

/-- XFENCE (R276). -/
def execXfence (f : Form) (s : State) : Host.Outcome State Fault Refusal := runWord (rawOf 0x89 f) bodyXfence s

/-- XLT (R277). -/
def execXlt (f : Form) (s : State) : Host.Outcome State Fault Refusal := runWord (rawOf 0x8a f) bodyXlt s

/-- PREF (R278). -/
def execPref (f : Form) (s : State) : Host.Outcome State Fault Refusal := runWord (rawOf 0x8b f) bodyPref s

/-- CFLUSH (R279). -/
def execCflush (f : Form) (s : State) : Host.Outcome State Fault Refusal := runWord (rawOf 0x8c f) bodyCflush s

/-- CINV (R280). -/
def execCinv (f : Form) (s : State) : Host.Outcome State Fault Refusal := runWord (rawOf 0x8d f) bodyCinv s

end Sys2Proof.Machine
end

