-- ==== Sys2Proof/Machine/Ctl.lean ====
section
/-! DEFINITION. The control class (spec/07 R127 to R150, spec/01 R22 to R35), but for SPAWN, which stands with launches. -/

namespace Sys2Proof.Machine

/-- A group-wide operand, read once (R127). -/
def uB (x : Ctx) : Nat × Bool := srcB x x.lo
def uC (x : Ctx) : Nat × Bool := srcC x x.lo

/-- The POISON trap of a poisoned predicate or group-wide operand (R127, R418). -/
def ctlPoison (x : Ctx) (p : Bool) (k : Res) : Res :=
  if !(ppLanes x).isEmpty then trapLanes .poison (ppLanes x)
  else if p then trapAll x .poison
  else k

/-- An instruction performed once per issue in which a lane is enabled: with none it only advances. -/
def oncePer (x : Ctx) (p : Bool) (k : Res) : Res :=
  if (ppLanes x).isEmpty && (enLanes x).isEmpty then .ok x.s {} else ctlPoison x p k

def bodyNop (x : Ctx) : Res := .ok x.s {}

/-- Branches to each enabled lane's target (R129); `link` writes the return address. A target that is not a multiple of 4 is a
condition of R70, which R71 puts before POISON; like R166's descriptor it is judged from the bits as they stand (log 57). -/
def branchTo (x : Ctx) (tgt : Nat → Nat × Bool) (leaves link : Bool) : Res :=
  let en := enLanes x
  let pz := ppLanes x ++ en.filter (fun l => (tgt l).2)
  if en.any (fun l => (tgt l).1 % 4 != 0) then trapAll x .operandForm
  else if !pz.isEmpty then trapLanes .poison pz
  else
    let g := if link then en.foldl (fun g l => writeDst x g x.r.d 2 l x.fall false) x.g else x.g
    .ok (setGroup g x.s) { next := some (en.foldl (fun m l => minsert l (tgt l).1 m) []), branch := leaves, ctl := true }

def bodyBra (x : Ctx) : Res := branchTo x (fun _ => (wrap 64 ((x.pc : Int) + 4 * x.r.off), false)) true false
def bodyCall (x : Ctx) : Res := branchTo x (fun _ => (wrap 64 ((x.pc : Int) + 4 * x.r.off), false)) false true
def bodyBrx (x : Ctx) : Res := branchTo x (fun l => srcB x l) true false
def bodyRet (x : Ctx) : Res := branchTo x (fun l => srcB x l) true false

/-- How the walk through a loop body by LEN fields ends (R130 steps 5, 6): a word that cannot be fetched leaves the state in which
its data error, if it was one, has been reported (R73). -/
inductive BodyEnd where
  | exact
  | broken
  | fetch (f : XFault) (s : State)
deriving DecidableEq, Repr

/-- Walks the instructions from `at_` to `stop`. -/
def walkBody : Nat → State → Group → Nat → Nat → BodyEnd
  | 0, _, _, at_, stop => if at_ = stop then .exact else .broken
  | fuel + 1, s, g, at_, stop =>
    if at_ = stop then .exact
    else if stop < at_ then .broken
    else
      let w := fetchBytes 1 s g at_
      match w.1 with
      | .error e => .fetch e w.2
      | .ok bs => walkBody fuel w.2 g (at_ + Sys2Proof.lenBytes (bs.headD 0)) stop

/-- LOOP (R130). -/
def bodyLoop (x : Ctx) : Res :=
  let c := uB x
  let start := x.fall
  let stop := start + 4 * x.r.c
  if c.2 then trapAll x .poison
  else if x.r.c = 0 then trapAll x .operandForm
  else if 3 ≤ x.g.loops.length then trapAll x .loop
  else if x.g.loops.any (fun e => e.ctr + 944 == x.r.d ||
      !(decide (e.start ≤ start ∧ stop ≤ e.stop) || decide (stop ≤ e.start ∨ e.stop ≤ start))) then trapAll x .operandForm
  else match walkBody 256 x.s x.g start stop with
    | .broken => trapAll x .loop
    | .fetch e u => .trapIn u { cause := .fetch, lanes := x.mask, addr := e.2, fkind := e.1 }
    | .exact =>
      let f := fetchBytes x.r.c x.s x.g start
      match f.1 with
      | .error e => .trapIn f.2 { cause := .fetch, lanes := x.mask, addr := e.2, fkind := e.1 }
      | .ok bs =>
        let n := c.1 % 2 ^ 32
        let g1 := putReg x.g x.r.d 0 n
        if n = 0 then .ok (setGroup g1 f.2) { next := some (x.lanes.foldl (fun m l => minsert l stop m) []), ctl := true }
        else
          let g2 := { g1 with
            loops := x.g.loops ++ [{ start := start, stop := stop, ctr := x.r.d - 944, members := x.mask }]
            lbuf := if x.g.loops.isEmpty then some { base := start, bytes := bs, stale := false } else x.g.lbuf }
          .ok (setGroup g2 f.2) { ctl := true }

/-- LBINV (R134). -/
def bodyLbinv (x : Ctx) : Res :=
  .ok (setGroup { x.g with lbuf := if x.g.loops.isEmpty then none else some { base := 0, bytes := [], stale := true } } x.s) {}

/-- Has the group a live lane? -/
def hasLive (g : Group) : Bool := g.live.toNat != 0

/-- Groups of a block that hold a live lane. -/
def liveGroups (s : State) (b : Block) : List Nat := b.groups.filter (fun i => ((mfind i s.groups).map hasLive).getD false)

/-- Releases a completed barrier's groups, for which it is an acquire (R140, R141). -/
def barDone (s : State) (b : Block) (n : Nat) (bar : Bar) : State :=
  let done := if bar.count = 0 then (liveGroups s b).all (fun g => bar.arrived.contains g) else decide (bar.count ≤ bar.arrived.length)
  if done then
    bar.arrived.foldl (fun t i => modGroup i (fun g => if g.wait == .bar n then { g with wait := .none } else g)
        (match mfind i bar.acq with | some sc => acquired t i sc bar.toks | none => t))
      (modBlock b.bid (fun b => { b with bars := merase n b.bars }) s)
  else s

/-- Looks at the barriers of a block afresh, as when a group's last lane exits (R140). -/
def barsAgain (s : State) (bid : Nat) : State :=
  match getBlock s bid with
  | some b => b.bars.foldl (fun t e => barDone t b e.1 e.2) s
  | none => s

/-- Suspends or continues a block once every group with a live lane has executed JOIN (R35); to continue is an acquire (R244). -/
def joinAgain (s : State) (bid : Nat) : State :=
  match getBlock s bid with
  | some b =>
    if !b.joined.isEmpty && (liveGroups s b).all (fun g => b.joined.contains g) && b.place == .resident then
      if b.kids = 0 then
        b.joined.foldl (fun t i => modGroup i (fun g => if g.wait == .join then { g with wait := .none } else g) (acquired t i 4 b.toks))
          (modBlock bid (fun b => { b with joined := [] }) s)
      else modBlock bid (fun b => { b with place := .draining .join }) s
    else s
  | none => s

/-- After lanes exit: those parked at one group-wide instruction, if none but they are live, issue it together (R31), and the
block's barriers and JOIN are looked at afresh. -/
def afterExit (s : State) (gid : Nat) : State :=
  match mfind gid s.groups with
  | none => s
  | some g =>
    let pcs := ((lanesOf g.live).map (fun l => cget 0 l g.upc)).eraseDups
    let g1 := if (g.live &&& ~~~g.parkWide).toNat == 0 && pcs.length == 1 then { g with parkWide := 0 } else g
    let s1 := setGroup g1 s
    if hasLive g1 then s1 else joinAgain (barsAgain s1 g.bid) g.bid

/-- Leaves every loop entry (R132). -/
def leaveAll (g : Group) (m : LaneMask) : Group := { g with loops := g.loops.map (fun e => { e with members := e.members &&& ~~~m }) }

/-- EXIT (R136; R411 at service level). -/
def bodyExit (x : Ctx) : Res :=
  match haulFault x [.hl, .ga, .nt] with
  | some t => t
  | none =>
    ctlPoison x false (
      let m := if x.g.service && !(enLanes x).isEmpty then x.g.live else maskOf (enLanes x)
      let g := leaveAll { x.g with live := x.g.live &&& ~~~m, parkWide := x.g.parkWide &&& ~~~m, parkLoop := x.g.parkLoop &&& ~~~m } m
      .ok (afterExit (setGroup g x.s) x.g.gid) { ctl := false })

/-- YIELD (R136): the group leaves the active set and is not ready for 16 cycles. -/
def bodyYield (x : Ctx) : Res := .ok (setGroup { x.g with wait := .yield (slotTime x.s x.g), active := false } x.s) {}

/-- TRAP and BRK (R137). -/
def codeTrap (c : Cause) (x : Ctx) : Res :=
  let en := enLanes x
  if !(ppLanes x).isEmpty then trapLanes .poison (ppLanes x)
  else if en.isEmpty || x.inReplay then .ok x.s {}
  else .trap { cause := c, lanes := maskOf en, code := (x.r.a + 1024 * x.r.b) % 2 ^ 20 }

def bodyTrap (x : Ctx) : Res := codeTrap .software x
def bodyBrk (x : Ctx) : Res := codeTrap .breakpoint x

/-- WAITC (R138); in replay it completes at once (R420). -/
def bodyWaitc (x : Ctx) : Res :=
  match haulFault x [pathOf x.r.fn] with
  | some t => t
  | none =>
    let n := uB x
    ctlPoison x n.2 (
      let thr := min (n.1 % 2 ^ 32) 255
      if x.inReplay || decide (getCnt x.g (pathOf x.r.fn) ≤ thr) then .ok x.s {}
      else .ok (setGroup { x.g with wait := .waitc x.r.fn thr } x.s) {})

/-- TWAIT (R139). -/
def bodyTwait (x : Ctx) : Res :=
  let t := uB x
  ctlPoison x t.2 (
    if x.inReplay || decide (t.1 ≤ x.s.ptp.ns % 2 ^ 64) then .ok x.s {}
    else .ok (setGroup { x.g with wait := .twait t.1 } x.s) {})

/-- The lanes parked at this group-wide instruction. -/
def parkedHere (x : Ctx) : LaneMask := maskOf ((lanesOf (x.g.live &&& x.g.parkWide)).filter (fun l => cget 0 l x.g.upc == x.pc))

/-- A group-wide instruction (R31): it takes effect once every live lane has come to it; in replay it only advances
(R128). -/
def groupWide (x : Ctx) (k : LaneMask → Res) : Res :=
  if x.inReplay then .ok x.s {}
  else if (x.g.live &&& ~~~(x.mask ||| parkedHere x)).toNat == 0 then k (parkedHere x)
  else .park

/-- BAR (R140, R141). In replay it is skipped (R128), but a haul fault recorded meanwhile is taken first: which of R128 and R287 comes
first the spec does not say (log 58). -/
def bodyBar (x : Ctx) : Res :=
  match haulFault x [.hl, .ga, .nt] with
  | some t => t
  | none =>
    let nb := uB x
    let cn := uC x
    ctlPoison x (nb.2 || cn.2) (
      if x.inReplay then .ok x.s {}
      else if 15 < nb.1 ∨ 32 < cn.1 then trapAll x .sync
      else groupWide x (fun also =>
        let bar := (mfind nb.1 x.b.bars).getD { count := cn.1, arrived := [] }
        if bar.count ≠ cn.1 then trapAll x .sync
        else
          let bar1 := { bar with arrived := bar.arrived ++ [x.g.gid], acq := if x.r.order = 3 then bar.acq ++ [(x.g.gid, x.r.scope)] else bar.acq
                                 toks := if x.r.order = 3 then joinToks bar.toks [tokOf x.s x.g.gid x.g.seq x.r.scope] else bar.toks }
          let s0 := if x.r.order = 3 then releaseDone x.s x.g.gid x.g.seq x.s.stamp x.r.scope else x.s
          let s1 := setGroup { x.g with wait := .bar nb.1 } (modBlock x.b.bid (fun b => { b with bars := minsert nb.1 bar1 b.bars }) s0)
          .ok (barDone s1 x.b nb.1 bar1) { also := also }))

/-- The checks on a pad object word of `n` bytes at the group-wide offset of source B (R142, R146, R127): pad-extent, poison,
then an uncorrectable byte, which is poison of the word and reported (R186). The order of pad-extent and POISON is R259's, which
states it for the memory class only (log 59). -/
def padWord (x : Ctx) (n : Nat) (other reads : Bool) (k : Nat → Res) : Res :=
  let o := uB x
  let off := o.1 % 2 ^ 32
  let lanes := if (enLanes x).isEmpty then x.lanes else enLanes x
  if !o.2 && (off % n != 0 || !padIn x.b (off : Int) n) then .trap { cause := .padExtent, lanes := maskOf lanes, addr := off }
  else if !(ppLanes x).isEmpty then trapLanes .poison (ppLanes x)
  else if o.2 || other then trapAll x .poison
  else if reads && padBad x.b off n then
    .trapIn (softError x.s 2 (some x.part) (coreUnit x.b.core) 0) { cause := .poison, lanes := maskOf lanes, addr := off, fkind := 3 }
  else k off

/-- A pad object instruction: once per issue in which a lane is enabled, skipped in replay. -/
def padObject (x : Ctx) (n : Nat) (other reads : Bool) (k : Nat → Res) : Res :=
  if (ppLanes x).isEmpty && (enLanes x).isEmpty then .ok x.s {}
  else padWord x n other reads (fun off => if x.inReplay then .ok x.s {} else k off)

/-- The sync trap of the enabled lanes: R150 gives it R70's precision, whose mask is ISSUE, and R13 keeps lanes whose predicate is
false out of every trap (log 60). -/
def syncTrap (x : Ctx) : Res := trapLanes .sync (enLanes x)

/-- Writes an object or ring back, as one read-modify-write (R145). -/
def putWord (x : Ctx) (off n v : Nat) : State := padWrite x.s { opOf x .st .done with order := 0 } x.lo true off n v

/-- Writes it back as a release at BLOCK scope (R145, R147). -/
def postWord (x : Ctx) (off n v : Nat) : State :=
  padWrite (releaseDone x.s x.g.gid x.g.seq x.s.stamp 1) { opOf x .st .done with order := 2, scope := 1 } x.lo true off n v

/-- The group's acquire at BLOCK scope as it has read a pad object or ring (R145, R147). -/
def tookWord (s : State) (gid bid off n : Nat) : State := acquired s gid 1 (toksAt s ((List.range n).map (fun i => padPlace bid (off + i))))

def bodyAbinit (x : Ctx) : Res :=
  let n := uC x
  padObject x 16 n.2 false (fun off => match abInit (n.1 % 2 ^ 32) with
    | some o => .ok (putWord x off 16 (abWord o)) {}
    | none => syncTrap x)

def bodyAbarv (x : Ctx) : Res :=
  padObject x 16 false true (fun off =>
    let o := abOf (padGet x.b off 16)
    if abBad o then syncTrap x
    else match abArrive x.r.fn o with
      | none => syncTrap x
      | some o1 =>
        let s1 := postWord x off 16 (abWord o1)
        if x.r.d = 0 then .ok s1 {} else .ok (modGroup x.g.gid (fun g => writeDst x g x.r.d 1 0 o.gen false) s1) {})

def bodyAbexp (x : Ctx) : Res :=
  let n := uC x
  padObject x 16 n.2 true (fun off =>
    let o := abOf (padGet x.b off 16)
    if abBad o then syncTrap x
    else match abExpect (n.1 % 2 ^ 32) o with
      | some o1 => .ok (putWord x off 16 (abWord o1)) {}
      | none => syncTrap x)

/-- ABWAIT (R144). In replay it completes at once and takes its acquire again (R420). -/
def bodyAbwait (x : Ctx) : Res :=
  match haulFault x [.hl, .ga, .nt] with
  | some t => t
  | none =>
    let t := uC x
    padWord x 16 t.2 true (fun off =>
      let o := abOf (padGet x.b off 16)
      if x.inReplay then .ok (tookWord x.s x.g.gid x.b.bid off 16) {}
      else if abBad o then syncTrap x
      else if abPassed (t.1 % 2 ^ 32) o then .ok (tookWord x.s x.g.gid x.b.bid off 16) {}
      else .ok (setGroup { x.g with wait := .abwait off (t.1 % 2 ^ 32) } x.s) {})

/-- STGW (R147); in replay as ABWAIT. -/
def bodyStgw (x : Ctx) : Res :=
  match haulFault x [.hl, .ga, .nt] with
  | some t => t
  | none =>
    let n := uC x
    padWord x 8 n.2 true (fun off =>
      let w := padGet x.b off 8
      if x.inReplay then .ok (tookWord x.s x.g.gid x.b.bid off 8) {}
      else if stgBad w then syncTrap x
      else if stgPasses (x.r.fn == 0) w (n.1 % 2 ^ 32) then .ok (tookWord x.s x.g.gid x.b.bid off 8) {}
      else .ok (setGroup { x.g with wait := .stgw (x.r.fn == 0) off (n.1 % 2 ^ 32) } x.s) {})

/-- STGP (R147): in each of its forms a release at BLOCK scope. -/
def bodyStgp (x : Ctx) : Res :=
  let n := uC x
  padObject x 8 n.2 (x.r.fn != 2) (fun off =>
    let w := padGet x.b off 8
    if x.r.fn = 2 then
      match stgInit (n.1 % 2 ^ 32) with
      | some v => .ok (postWord x off 8 v) {}
      | none => syncTrap x
    else if stgBad w then syncTrap x
    else match stgPost (x.r.fn == 0) w (n.1 % 2 ^ 32) with
      | some v => .ok (postWord x off 8 v) {}
      | none => syncTrap x)

/-- JOIN (R30, R35); in replay as BAR (log 58). -/
def bodyJoin (x : Ctx) : Res :=
  if x.gr.coop then trapAll x .illegal
  else match haulFault x [.hl, .ga, .nt] with
    | some t => t
    | none => groupWide x (fun also =>
      let s1 := setGroup { x.g with wait := .join } (modBlock x.b.bid (fun b => { b with joined := b.joined ++ [x.g.gid] }) x.s)
      .ok (joinAgain s1 x.b.bid) { also := also })

/-- The register blocks a block's groups hold or wait for (R23). -/
def blockRegs (s : State) (b : Block) : Nat :=
  sumOf (b.groups.map (fun i => match mfind i s.groups with
    | some g => if g.retired then 0 else (match g.wait with | .ralloc t => max g.k t | _ => g.k)
    | none => 0))

/-- RALLOC (R22, R23, R25). A cooperative group's blocks up to its maximum stay kept for it, so it has them at once (log 61). -/
def bodyRalloc (x : Ctx) : Res :=
  let t := uB x
  ctlPoison x t.2 (
    if x.inReplay then .ok x.s {}
    else if t.1 = 0 ∨ 24 < t.1 then trapAll x .registerBound
    else if x.gr.coop && decide (x.gr.regsMax < t.1) then trapAll x .registerBound
    else if !x.gr.coop && decide (x.g.k < t.1) && decide (128 < blockRegs x.s x.b + (t.1 - x.g.k)) then trapAll x .registerBound
    else groupWide x (fun also =>
      if t.1 ≤ x.g.k then .ok x.s { also := also }
      else if x.gr.coop then .ok (setGroup (setAlloc t.1 x.g) x.s) { also := also }
      else .ok (modCore x.b.core (fun c => { c with waiters := c.waiters ++ [(x.g.gid, t.1)] }) (setGroup { x.g with wait := .ralloc t.1 } x.s)) { also := also }))

/-- RFREE (R22). -/
def bodyRfree (x : Ctx) : Res :=
  let t := uB x
  ctlPoison x t.2 (
    if x.inReplay then .ok x.s {}
    else if t.1 = 0 ∨ 24 < t.1 then trapAll x .registerBound
    else groupWide x (fun also =>
      if x.g.k ≤ t.1 then .ok x.s { also := also } else .ok (setGroup { x.g with wait := .rfree t.1 } x.s) { also := also }))

/-- NOP compact (R136). -/
def execNop (rest : BitVec 22) (s : State) : Host.Outcome State Fault Refusal :=
  runWord (rawCtlCompact 0x60 rest.toNat none) bodyNop s

/-- NOP (R136). -/
def execNopExt (f : Form) (s : State) : Host.Outcome State Fault Refusal := runWord (rawOf 0x60 f) bodyNop s

/-- BRA compact (R129). -/
def execBra (rest : BitVec 22) (s : State) : Host.Outcome State Fault Refusal :=
  runWord (rawCtlCompact 0x61 rest.toNat none) bodyBra s

/-- BRA (R129). -/
def execBraExt (f : Form) (s : State) : Host.Outcome State Fault Refusal := runWord (rawOf 0x61 f) bodyBra s

/-- CALL compact (R129). -/
def execCall (rest : BitVec 22) (s : State) : Host.Outcome State Fault Refusal :=
  runWord (rawCtlCompact 0x63 rest.toNat none) bodyCall s

/-- CALL (R129). -/
def execCallExt (f : Form) (s : State) : Host.Outcome State Fault Refusal := runWord (rawOf 0x63 f) bodyCall s

/-- RET compact (R129). -/
def execRet (rest : BitVec 22) (s : State) : Host.Outcome State Fault Refusal :=
  runWord (rawCtlCompact 0x64 rest.toNat none) bodyRet s

/-- RET (R129). -/
def execRetExt (f : Form) (s : State) : Host.Outcome State Fault Refusal := runWord (rawOf 0x64 f) bodyRet s

/-- EXIT compact (R136). -/
def execExitOp (rest : BitVec 22) (s : State) : Host.Outcome State Fault Refusal :=
  runWord (rawCtlCompact 0x67 rest.toNat none) bodyExit s

/-- EXIT (R136). -/
def execExitOpExt (f : Form) (s : State) : Host.Outcome State Fault Refusal := runWord (rawOf 0x67 f) bodyExit s

/-- YIELD compact (R136). -/
def execYield (rest : BitVec 22) (s : State) : Host.Outcome State Fault Refusal :=
  runWord (rawCtlCompact 0x68 rest.toNat none) bodyYield s

/-- YIELD (R136). -/
def execYieldExt (f : Form) (s : State) : Host.Outcome State Fault Refusal := runWord (rawOf 0x68 f) bodyYield s

/-- BRX (R129). -/
def execBrx (f : Form) (s : State) : Host.Outcome State Fault Refusal := runWord (rawOf 0x62 f) bodyBrx s

/-- LOOP (R130). -/
def execLoopOp (f : Form) (s : State) : Host.Outcome State Fault Refusal := runWord (rawOf 0x65 f) bodyLoop s

/-- LBINV (R134). -/
def execLbinv (f : Form) (s : State) : Host.Outcome State Fault Refusal := runWord (rawOf 0x66 f) bodyLbinv s

/-- TRAP (R137). -/
def execTrap (f : Form) (s : State) : Host.Outcome State Fault Refusal := runWord (rawOf 0x69 f) bodyTrap s

/-- BRK (R137). -/
def execBrk (f : Form) (s : State) : Host.Outcome State Fault Refusal := runWord (rawOf 0x6a f) bodyBrk s

/-- WAITC (R138). -/
def execWaitc (f : Form) (s : State) : Host.Outcome State Fault Refusal := runWord (rawOf 0x6b f) bodyWaitc s

/-- BAR (R140). -/
def execBar (f : Form) (s : State) : Host.Outcome State Fault Refusal := runWord (rawOf 0x6c f) bodyBar s

/-- ABINIT (R143). -/
def execAbinit (f : Form) (s : State) : Host.Outcome State Fault Refusal := runWord (rawOf 0x6d f) bodyAbinit s

/-- ABARV (R143). -/
def execAbarv (f : Form) (s : State) : Host.Outcome State Fault Refusal := runWord (rawOf 0x6e f) bodyAbarv s

/-- ABWAIT (R144). -/
def execAbwait (f : Form) (s : State) : Host.Outcome State Fault Refusal := runWord (rawOf 0x6f f) bodyAbwait s

/-- ABEXP (R143). -/
def execAbexp (f : Form) (s : State) : Host.Outcome State Fault Refusal := runWord (rawOf 0x70 f) bodyAbexp s

/-- STGW (R147). -/
def execStgw (f : Form) (s : State) : Host.Outcome State Fault Refusal := runWord (rawOf 0x71 f) bodyStgw s

/-- STGP (R147). -/
def execStgp (f : Form) (s : State) : Host.Outcome State Fault Refusal := runWord (rawOf 0x72 f) bodyStgp s

/-- JOIN (R35). -/
def execJoinOp (f : Form) (s : State) : Host.Outcome State Fault Refusal := runWord (rawOf 0x74 f) bodyJoin s

/-- RALLOC (R22). -/
def execRalloc (f : Form) (s : State) : Host.Outcome State Fault Refusal := runWord (rawOf 0x75 f) bodyRalloc s

/-- RFREE (R22). -/
def execRfree (f : Form) (s : State) : Host.Outcome State Fault Refusal := runWord (rawOf 0x76 f) bodyRfree s

/-- TWAIT (R139). -/
def execTwait (f : Form) (s : State) : Host.Outcome State Fault Refusal := runWord (rawOf 0x77 f) bodyTwait s

/-- RESERVED_MAJOR_OPCODE (R70): the illegal-instruction trap. -/
def execReservedMajorOpcode (w : BitVec 160) (s : State) : Host.Outcome State Fault Refusal :=
  runWord (rawReserved w.toNat) (fun x => .ok x.s {}) s

end Sys2Proof.Machine
end

