-- ==== Sys2Proof/Machine/EvMem.lean ====
section
/-! DEFINITION. The events that perform memory accesses (spec/11 R187 to R214, spec/13, spec/15): load returns, stores at
their home, updates of copies, ownership, atomics, fills and the operations of the SV path. An event that cannot happen in
the state changes nothing (log 2). Every event ends by sending what may then leave for a peer. -/

namespace Sys2Proof.Machine

/-- The outcome of an event; none happens without power (R432). -/
def eventOut (s : State) (r : Option State) : Host.Outcome State Fault Refusal :=
  match r with
  | some t => .next (if s.boot.powerOff then s else pump t)
  | none => .next s

/-- Does the core belong to the partition (R378)? -/
def ownsCore (p : Part) (c : Nat) : Bool := bit p.quads (c / 4)

/-- Does the part travel by packet? -/
def isRemote (s : State) (p : Piece) : Bool := isPeer s p.pa || isMcast p.pa

/-- The access of a lane that is not yet performed, with its place in the operation. -/
def openAcc (o : Op) (lane : Nat) : Option (Nat × Access) :=
  ((List.range o.accs.length).zip o.accs).find? (fun e => e.2.lane == lane && e.2.isOpen)

/-- May the parts of a load that are not done be read now? -/
def partsReady (s : State) (o : Op) (core : Nat) (a : Access) : Bool :=
  ((List.range a.pieces.length).zip a.pieces).all (fun (j, p) =>
    a.st[j]? == some .done || a.st[j]? == some .got ||
    (if isRemote s p then draySector s o p else !updInFlight s core (lineOf p.pa)))

/-- Where a prefetch brings a line (R278): L1 (and L2, of which nothing shows), L2 alone, or the dray cache. -/
def fetchTo (s : State) (o : Op) (core : Nat) (p : Piece) : State :=
  let line := lineOf p.pa
  match o.kind with
  | .pref 0 => if l1Takes s line && p.kind != .so && o.hint != 3 then l1Fill s core line (2 ^ 32 - 1) else s
  | .pref 2 => if p.borrow && isPool s line && p.kind != .so && !o.noFill && o.hint != 3 then drayPut s o.part line (memGet s (line * 128) 128) else s
  | .pref _ => s
  | _ =>
    if o.hint = 3 ∨ p.kind = .so then s
    else
      let s1 := if l1Takes s line then l1Fill s core line (wordMask (p.pa % 128) p.n) else s
      if p.borrow && isPool s line && !o.noFill then drayPut s1 o.part line (memGet s1 (line * 128) 128) else s1

/-- Reads one part of a load for the given lanes (R187, R200, R211, R214, R222): its value, or the FKIND of its fault. A read from a
home fills the words read into the core's L1, and a BORROW line of the pool into the dray cache, unless HINT is NOAL (R261); SO pages
use neither (R220). -/
def readPart (s : State) (o : Op) (core : Nat) (lanes : List Nat) (a : Access) (j : Nat) (p : Piece) : Except Nat Nat × State :=
  let own := ownBytes s o.gid o.seq core lanes p.pa p.n false
  let slice := fun (v : Nat) => bits v (8 * (p.pa % 128)) (8 * p.n)
  if a.st[j]? == some .done || a.st[j]? == some .got then (.ok (bits a.data (8 * p.off) (8 * p.n)), s)
  else if inFaulted s p.pa then (.error 2, s)
  else
    let look := fun (v : Nat) (s : State) =>
      let q := readOver s o lanes (isWhole a.va a.n) p.pa p.n v
      ((.ok (overlay q.1 own), if q.1 = v then meet q.2 o (accToks q.2 o { a with pieces := [p] }) else q.2) : Except Nat Nat × State)
    match (if p.borrow && p.kind != .so then drayRead s o.part (lineOf p.pa) else none) with
    | some v => look (slice v) s
    | none =>
      let s1 := recallOwner s (lineOf p.pa) (some core)
      let r := homeRead (if p.kind = .so then s1 else l1Mend s1 core (lineOf p.pa)) p.pa p.n
      match r.1 with
      | none => (.error 3, lineError (some o.part) p.pa r.2)
      | some v => look v (fetchTo r.2 o core p)

/-- Reads every part of a load: the value, or the first fault with its virtual address. -/
def readParts (s : State) (o : Op) (core : Nat) (lanes : List Nat) (a : Access) : Except XFault Nat × State :=
  ((List.range a.pieces.length).zip a.pieces).foldl (fun acc (j, p) =>
    let r := readPart acc.2 o core lanes a j p
    (match acc.1, r.1 with
     | .ok v, .ok w => .ok (putBytes v p.off p.n w)
     | .ok _, .error k => .error (k, (a.va + p.off) % 2 ^ 64)
     | .error e, _ => .error e, r.2)) (.ok 0, s)

/-- Lays the bytes of one access over another's value where they share bytes. -/
def layOver (a : Access) (v : Nat) (b : Access) (w : Nat) : Nat :=
  a.pieces.foldl (fun v p => b.pieces.foldl (fun v q =>
    (List.range p.n).foldl (fun v i =>
      let pa := p.pa + i
      if q.pa ≤ pa ∧ pa < q.pa + q.n then putBytes v (p.off + i) 1 (bits w (8 * (q.off + (pa - q.pa))) 8) else v) v) v) v

/-- The values that lanes read together (R218, R225): each shared byte as an aligned access has it, else as the first has it. -/
def agree (vs : List (Access × Nat)) : List Nat :=
  let order := vs.reverse.filter (fun e => !isWhole e.1.va e.1.n) ++ vs.reverse.filter (fun e => isWhole e.1.va e.1.n)
  vs.map (fun e => order.foldl (fun v b => layOver e.1 v b.1 b.2) e.2)

/-- The access as far as it reads a line whose bytes it has not read. -/
def Access.inLine (line : Nat) (a : Access) : Access :=
  let b := a.rest
  let keep := (b.pieces.zip b.st).filter (fun e => lineOf e.1.pa == line)
  { b with pieces := keep.map (fun e => e.1), st := keep.map (fun e => e.2) }

/-- Puts what was read for an access's parts into it. -/
def Access.keep (a m : Access) (v : Nat) : Access :=
  { a with data := m.pieces.foldl (fun d p => putBytes d p.off p.n (bits v (8 * p.off) (8 * p.n))) a.data
           st := (a.pieces.zip a.st).map (fun e => if m.pieces.contains e.1 then .got else e.2) }

/-- Reads the lanes of a load that are read together with the `k`th, or of each the parts that `ms` holds: they keep their values until
their own return. The value of the `k`th, or its fault. -/
def readTogether (s : State) (o : Op) (ms : List (Nat × Access)) : Except XFault Nat × State :=
  let core := opCore s o
  let lanes := ms.map (fun m => m.2.lane)
  let r := ms.foldl (fun (acc : List (Nat × Access × Except XFault Nat) × State) m =>
    let v := readParts acc.2 o core lanes m.2
    (acc.1 ++ [(m.1, m.2, v.1)], v.2)) ([], s)
  let good := r.1.filterMap (fun e => match e.2.2 with | .ok v => some (e.1, e.2.1, v) | .error _ => none)
  let vals := (good.map (fun e => e.1)).zip (agree (good.map (fun e => e.2)))
  let kept := modOp o.oid (fun o => { o with accs := ((List.range o.accs.length).zip o.accs).map (fun (j, a) => match mfind j vals with
    | some v => (match ms.find? (fun m => m.1 == j) with | some m => a.keep m.2 v | none => a)
    | none => a) }) r.2
  match r.1.head? with
  | some (k, _, .ok _) => (.ok ((mfind k vals).getD 0), kept)
  | some (_, _, .error e) => (.error e, kept)
  | none => (.ok 0, s)

/-- Reads one part of the `k`th access of a load by itself, with the parts of other lanes that share its bytes (R218, R223). -/
def readOnePart (s : State) (o : Op) (k : Nat) (p : Piece) : Option State :=
  let cut : Op := { o with accs := o.accs.map (Access.inLine (lineOf p.pa)) }
  let ms := matesOf cut k
  let parts := ms.flatMap (fun m => ((o.accs[m.1]?).elim [] (fun a => (List.range a.pieces.length).zip a.pieces)).filterMap (fun e =>
    if m.2.pieces.contains e.2 then some (m.1, e.1) else none))
  if !(ms.all (fun m => mayPerform s (o.without parts) m.2 && partsReady s o (opCore s o) m.2)) then none
  else
    let v := readTogether s o ms
    match v.1 with
    | .ok _ => some v.2
    | .error e => some (landLoad v.2 o k 0 e.1 e.2)

/-- Does the package's mode place every atomic near (R193)? -/
def nearMode (s : State) : Bool := bits s.boot.devstat 1 3 != 1

/-- Is an atomic performed near its core (R192, R193)? -/
def atomNear (s : State) (core : Nat) (p : Piece) : Bool :=
  let d := dirOf s (lineOf p.pa)
  decide (2 ^ 42 ≤ p.pa) || nearMode s || decide (d.pred < 2) || d.owner == some core

/-- Performs one lane's atomic on memory, near the core or at the home (R191, R192, R268, R269, R364). Its own release is performed
before it. -/
def memAtom (s : State) (o : Op) (k : Nat) (a : Access) (near : Bool) : Option State :=
  let core := opCore s o
  match o.kind, a.pieces.head? with
  | .atomic fn ty _ wide, some p =>
    let line := lineOf p.pa
    if isRemote s p || updInFlight s core line || atomNear s core p != near then none
    else if inFaulted s p.pa then some (landAtom s o k 0 2 a.va true)
    else
      let s0 := claimHalf s p.pa p.n
      let s1 := if near then takeOwner s0 line core (o.hint == 3) else recallOwner s0 line none
      let s2 := if near then setDir s1 line { dirOf s1 line with ownAtoms := (dirOf s1 line).ownAtoms + 1 } else s1
      let r := homeRead s2 p.pa p.n
      match r.1 with
      | none => some (landAtom (lineError (some o.part) p.pa r.2) o k 0 3 a.va false)
      | some old =>
        let t := meet (opRelease r.2 o) o (accToks r.2 o a)
        let s3 := match atomOf fn ty wide p.n old a.data a.cmpv with
          | some v =>
            let bs := bytesOf p.n v
            noteWrite t (publishOwn (poolMark (homeWrite t (some o.part) p.pa bs p.cmp false) o.gid p.pa) o.oid core p.pa bs) o a.lane false true p.pa bs
          | none => t
        some (landAtom (drayDrop s3 o.part line) o k old 0 0 false)
  | _, _ => none

/-- A lane's pad access goes on once its bank is ready (R182). -/
def padLater (s : State) (o : Op) (k : Nat) (a : Access) : Option State :=
  match getBlock s o.bid with
  | none => none
  | some b =>
    if padStalls s b a.va a.n then none
    else match o.kind with
      | .load _ _ _ _ =>
        some (if padBad b a.va a.n then landLoad (softError s 2 (some o.part) (coreUnit b.core) 0) o k 0 3 a.va
              else landLoad (meet s o (accToks s o a)) o k (padGet b a.va a.n) 0 0)
      | .atomic _ _ _ _ => some (padAtom s o k a)
      | .store => some (padStore s o k a)
      | _ => none

/-- The TLB entries whose numbers the event's xs lists are evicted, for translations that now take their room (R209). -/
def evicted (s : State) : State :=
  let out := s.ev.xs.filterMap (fun i => s.tlb[i]?)
  if out.isEmpty then s else tlbEvict (fun e => out.contains e) s

/-- LOAD_DATA_RETURN (R14): operand a is the operation and b the lane. The lane's access of a load, prefetch or returning
atomic is performed and its result reaches the lane's registers; c not 0 reads only one of its parts, the c - 1st of those not read yet
(R223). The TLB entries whose numbers xs lists are evicted first. -/
def evLoadDataReturn (s0 : State) : Option State :=
  let s := evicted s0
  match findOp s s.ev.a with
  | none => none
  | some o =>
    match openAcc o s.ev.b with
    | none => none
    | some (k, a) =>
      let r := match o.kind with
        | .load _ _ _ _ | .pref _ =>
          if !a.pad && a.st.all (fun t => t == AccSt.got || t == AccSt.done) then some (landLoad s o k a.data 0 0)
          else if s.ev.c != 0 && !a.pad then
            (match a.rest.pieces[s.ev.c - 1]? with | some p => readOnePart s o k p | none => none)
          else
            let ms := matesOf o k
            if !matesMay s o ms then none
            else if a.pad then padLater s o k a
            else if !(ms.all (fun m => partsReady s o (opCore s o) m.2)) then none
            else
              let v := readTogether s o ms
              (match v.1 with
               | .ok w => some (landLoad v.2 o k w 0 0)
               | .error e => some (landLoad v.2 o k 0 e.1 e.2))
        | .atomic _ _ (some _) _ => if !mayPerform s o a then none else if a.pad then padLater s o k a else memAtom s o k a true
        | _ => none
      r.map (endIfRead o.oid)

/-- LOAD_DATA_RETURN (R14). -/
def execLoadDataReturn (s : State) : Host.Outcome State Fault Refusal := eventOut s (evLoadDataReturn s)

/-- The bytes of a line that a store's lanes cover together, as a mask. -/
def lineCover (o : Op) (line : Nat) : Nat :=
  o.accs.foldl (fun m a => a.pieces.foldl (fun m p => if lineOf p.pa == line then m ||| (2 ^ p.n - 1) * 2 ^ (p.pa % 128) else m) m) 0

/-- Applies a part of a store at its home and sends the updates (R189, R195, R201, R211), or performs it in the copy that its core owns
(R191); its release is performed before it. -/
def applyPart (s : State) (o : Op) (whole : Bool) (a : Access) (p : Piece) : State :=
  let core := opCore s o
  let bs := (partBytes a p).map (fun e => e.2)
  let s1 := poolMark (recallOwner (opRelease s o) (lineOf p.pa) (some core)) o.gid p.pa
  let lost := lineBad s1 p.pa && !whole
  let t1 := homeWrite s1 (some o.part) p.pa bs p.cmp whole
  if lost then t1
  else
    let t2 := noteWrite s1 t1 o a.lane (p.kind == .un) false p.pa bs
    let own := (dirOf t2 (lineOf p.pa)).owner == some core
    drayWrite (if own then publishOwn t2 o.oid core p.pa bs else sendUpdates t2 o.oid p.pa bs) o.part p.pa bs

/-- The store parts that the home applies with part (`k`, `j`): that part alone. A store that covers the whole of a line that is a data
error clears the error (R200), so its parts there are applied together. -/
def partsWith (s : State) (o : Op) (k j : Nat) (p : Piece) : List (Nat × Nat) :=
  let line := lineOf p.pa
  let all := ((List.range o.accs.length).zip o.accs).flatMap (fun (k, a) => ((List.range a.pieces.length).zip a.pieces).filterMap (fun (j, q) =>
    if lineOf q.pa == line then some (k, j, a.st[j]? == some .todo) else none))
  if lineBad s p.pa && lineCover o line == 2 ^ 128 - 1 && all.all (fun e => e.2.2) then all.map (fun e => (e.1, e.2.1)) else [(k, j)]

/-- Applies parts of a store at their home; of several, which cover a whole line, the first clears its error (R200). -/
def applyParts (s : State) (o : Op) (parts : List (Nat × Nat)) : State :=
  parts.foldl (fun t e =>
    match o.accs[e.1]? with
    | some b => (match b.pieces[e.2]? with | some q => applyPart t o (decide (1 < parts.length) && e == parts.headD e) b q | none => t)
    | none => t) s

/-- HOME_STORE_APPLY (R189): operand a is the operation, b the access and c its part. A store's words, or a non-returning
near atomic, are performed at the home. -/
def evHomeStoreApply (s : State) : Option State :=
  match findOp s s.ev.a with
  | none => none
  | some o =>
    match o.accs[s.ev.b]? with
    | none => none
    | some a =>
      if !a.isOpen then none
      else if a.pad then (if mayPerform s o a then (padLater s o s.ev.b a).map (endIfPad o.oid) else none)
      else if o.isAtomic then
        (match o.kind with
         | .atomic _ _ none _ => if mayPerform s o a then memAtom s o s.ev.b a true else none
         | _ => none)
      else if !o.isStore then none
      else match a.pieces[s.ev.c]? with
        | none => none
        | some p =>
          if isRemote s p || a.st[s.ev.c]? != some .todo then none
          else
            let parts := partsWith s o s.ev.b s.ev.c p
            let rest := o.without parts
            let may := parts.all (fun e => match o.accs[e.1]? with
              | some b => b.pieces[e.2]?.any (fun q => mayPerform s rest (b.part q))
              | none => false)
            if !may then none
            else if inFaulted s p.pa then some (modOp o.oid (fun o => { o with accs := o.accs.map (fun b => if b.pieces.any (fun q => lineOf q.pa == lineOf p.pa) then { b with fkind := 2 } else b) })
              (markParts o.oid .done parts s))
            else some (markParts o.oid .done parts (applyParts s o parts))

/-- HOME_STORE_APPLY (R189). -/
def execHomeStoreApply (s : State) : Host.Outcome State Fault Refusal := eventOut s (evHomeStoreApply s)

/-- SHARER_UPDATE (R189 step 4): operand a is the operation, b the core, c the address. Updates of one line reach a core in
the home's order. -/
def evSharerUpdate (s : State) : Option State :=
  match s.updates.find? (fun u => u.core == s.ev.b && lineOf u.pa == lineOf s.ev.c) with
  | some u => if u.oid == s.ev.a && u.pa == s.ev.c then some (l1Apply { s with updates := s.updates.erase u } u) else none
  | none => none

/-- SHARER_UPDATE (R189). -/
def execSharerUpdate (s : State) : Host.Outcome State Fault Refusal := eventOut s (evSharerUpdate s)

/-- STORE_COMPLETE (R189 step 5): operand a is the operation. -/
def evStoreComplete (s : State) : Option State :=
  match findOp s s.ev.a with
  | some o => if storeReady s o then some (endOp o.oid s) else none
  | none => none

/-- STORE_COMPLETE (R189). -/
def execStoreComplete (s : State) : Host.Outcome State Fault Refusal := eventOut s (evStoreComplete s)

/-- Has the core's group an access to the line outstanding? -/
def lineWanted (s : State) (core line : Nat) : Bool :=
  s.ops.any (fun o => o.isLoad && o.hint != 3 && opCore s o == core && o.accs.any (fun a => a.isOpen && a.pieces.any (fun p => lineOf p.pa == line && p.kind != .so)))

/-- The halves of a line that words of a mask touch are claimed (R195). -/
def claimWords (s : State) (line mask : Nat) : State :=
  let s1 := if bits mask 0 16 = 0 then s else claimHalf s (line * 128) 64
  if bits mask 16 16 = 0 then s1 else claimHalf s1 (line * 128 + 64) 64

/-- L1_FILL (R187): operand a is the core, b the line, c the mask of the words returned. The span comes for a load that
asked for the line. -/
def evL1Fill (s : State) : Option State :=
  let line := s.ev.b
  if !lineWanted s s.ev.a line || updInFlight s s.ev.a line || !l1Takes s line || inFaulted s (line * 128) then none
  else some (l1Fill (claimWords (recallOwner s line (some s.ev.a)) line (s.ev.c % 2 ^ 32)) s.ev.a line (s.ev.c % 2 ^ 32))

/-- L1_FILL (R187). -/
def execL1Fill (s : State) : Host.Outcome State Fault Refusal := eventOut s (evL1Fill s)

/-- OWNERSHIP_RECALL (R191): operand a is the line. The home recalls it for another core's access. -/
def evOwnershipRecall (s : State) : Option State :=
  match (dirOf s s.ev.a).owner with
  | none => none
  | some c =>
    let wants := fun (o : Op) => opCore s o != c && o.accs.any (fun a => a.isOpen && a.pieces.any (fun p => lineOf p.pa == s.ev.a))
    if s.ops.any (fun o => o.isAtomic && wants o) then some (recallFor s s.ev.a)
    else if s.ops.any wants then some (recallOwner s s.ev.a none) else none

/-- OWNERSHIP_RECALL (R191). -/
def execOwnershipRecall (s : State) : Host.Outcome State Fault Refusal := eventOut s (evOwnershipRecall s)

/-- FAR_ATOMIC (R192): operand a is the operation and b the access. -/
def evFarAtomic (s : State) : Option State :=
  match findOp s s.ev.a with
  | none => none
  | some o =>
    match o.accs[s.ev.b]? with
    | none => none
    | some a => if a.isOpen && !a.pad && mayPerform s o a then (memAtom s o s.ev.b a false).map (fun t => if o.path == .ld then endIfRead o.oid t else t) else none

/-- FAR_ATOMIC (R192). -/
def execFarAtomic (s : State) : Host.Outcome State Fault Refusal := eventOut s (evFarAtomic s)

/-- DIRECTORY_REBUILD (R194): operand a is the line; xs lists the cores whose exclusive copy returns, which the directory
alone could have told (with sound cores at most the owner). -/
def evDirectoryRebuild (s : State) : Option State :=
  match partOfLine s (s.ev.a * 128) with
  | none => none
  | some p =>
    let s1 := l1Drop (if inHostWin s (s.ev.a * 128) then claimHalf s (s.ev.a * 128) 128 else s) s.ev.a (fun c => ownsCore (getPart s p) c)
    let s2 := setDir s1 s.ev.a {}
    let unit := sliceUnit (lineSlice s s.ev.a)
    some (if 2 ≤ s.ev.xs.length then fatalOf 5 p unit (s.ev.a * 128) s2 else rasLog 5 0 (some p) unit (s.ev.a * 128) s2)

/-- DIRECTORY_REBUILD (R194). -/
def execDirectoryRebuild (s : State) : Host.Outcome State Fault Refusal := eventOut s (evDirectoryRebuild s)

/-- Does a leaf lead to a reserved range or outside the partition's channel groups (R345, R378)? -/
def leafBad (s : State) (part pa : Nat) : Bool :=
  match paKind s pa with
  | .hbm a => !ownsPa (getPart s part) a
  | .bad => true
  | _ => false

/-- The translation register that XLT writes (R206, R277). -/
def xltReg (s : State) (o : Op) (base : Nat) : XReg :=
  let r : XReg := { vbase := bits base 0 57, vhi := bits base 57 7 }
  match (walk s o.part base).1 with
  | some (leaf, lg, _) =>
    if (!o.service && !bit leaf 6) || leafBad s o.part (bits leaf 16 36 * 65536 + base % 2 ^ lg) then r
    else { r with
      frame := bits leaf 16 36 * 65536 + base % 2 ^ lg, valid := true
      perm := bits leaf 2 2 + (if bit leaf 5 then 4 else 0), ord := bits leaf 7 2, cmp := bit leaf 9, borrow := bit leaf 10
      pool := bit leaf 11, limit := 2 ^ lg - base % 2 ^ lg }
  | none => r

/-- The lines of byte ranges. -/
def inRanges (rs : List (Nat × Nat)) (line : Nat) : Bool := rs.any (fun r => decide (r.1 < line * 128 + 128 ∧ line * 128 < r.1 + r.2))

/-- Drops the L1 copies of the ranges in the cores that pass, with the updates on their way to them. -/
def dropRanges (s : State) (rs : List (Nat × Nat)) (p : Nat → Bool) : State :=
  { s with l1 := s.l1.filter (fun e => !(inRanges rs (e.1 % 2 ^ 45) && p (e.1 / 2 ^ 45)))
           updates := s.updates.filter (fun u => !(inRanges rs (lineOf u.pa) && p u.core)) }

/-- Drops instruction-fetch lines of the ranges in the cores that pass. -/
def dropFetch (s : State) (rs : List (Nat × Nat)) (p : Nat → Bool) : State :=
  { s with il := s.il.filter (fun e => !(inRanges rs (e.1 % 2 ^ 45) && p (e.1 / 2 ^ 45))) }

/-- Drops the dray sectors of the ranges. -/
def dropDray (s : State) (part : Nat) (rs : List (Nat × Nat)) : State :=
  drayClear s (fun q line => q == part && inRanges rs line)

/-- Reads in flight to the lines leave their dray sectors invalid (R213, R280). -/
def spoilFills (s : State) (hit : Nat → Bool) (part : Option Nat) : State :=
  { s with ops := s.ops.map (fun o => if (part == none || part == some o.part) && o.accs.any (fun a => a.isOpen && a.pieces.any (fun p => hit (lineOf p.pa)))
      then { o with noFill := true } else o) }

/-- The action of CFLUSH and CINV (R279, R280). Memory holds every write already, so a write-back only ends exclusive
ownership. -/
def cacheAct (s : State) (o : Op) (fn : Nat) (rs : List (Nat × Nat)) (inv : Bool) : State :=
  let mine := ownsCore (getPart s o.part)
  let cores := fun (c : Nat) => if inv && o.scope == 2 then c == opCore s o else mine c || c == opCore s o
  if inv then
    let s1 := dropFetch (dropRanges s rs cores) rs cores
    if o.scope = 5 then spoilFills (dropDray s1 o.part rs) (inRanges rs) (some o.part) else s1
  else
    let ended := (s.dir.map (fun (e : Nat × DirEnt) => if inRanges rs e.1 then (e.1, { e.2 with owner := none, ownAtoms := 0 }) else e)).filter
      (fun e => decide (e.2 ≠ ({} : DirEnt)))
    let s1 := { s with dir := ended, pool := { s.pool with dirty := s.pool.dirty.filter (fun e => !inRanges rs e.1) } }
    if fn = 1 then dropDray (dropFetch (dropRanges s1 rs cores) rs cores) o.part rs else s1

/-- Has an earlier write of the group to the ranges not yet reached memory? -/
def rangeBusy (s : State) (o : Op) (rs : List (Nat × Nat)) : Bool :=
  (before s o).any (fun e => !e.finished && !e.isLoad && e.accs.any (fun a => a.isOpen && a.pieces.any (fun p => inRanges rs (lineOf p.pa))))

/-- SV_OPERATION_COMPLETE (R277, R279, R280): operand a is the operation. -/
def evSvOperationComplete (s : State) : Option State :=
  match findOp s s.ev.a with
  | none => none
  | some o =>
    if !xfenceOk s o then none
    else match o.kind with
      | .xlt d base =>
        let r := xltReg s o base
        some (endOp o.oid (modGroup o.gid (fun g => endReplay (putPend { g with xregs := minsert (d - 928) r g.xregs } d 0 false))
          (walk s o.part base).2))
      | .cache fn rs inv => if rangeBusy s o rs && !inv then none else some (endOp o.oid (cacheAct s o fn rs inv))
      | _ => none

/-- SV_OPERATION_COMPLETE (R277). -/
def execSvOperationComplete (s : State) : Host.Outcome State Fault Refusal := eventOut s (evSvOperationComplete s)

end Sys2Proof.Machine
end

