-- ==== Sys2Proof/Machine/Haul.lean ====
section
/-! DEFINITION. The haul class (spec/17 R281 to R300): what each instruction reads and checks at issue. The engine's work is
done by events (EvHaul). -/

namespace Sys2Proof.Machine

/-- An instruction performed once per issue in which a lane is enabled, trapping on poison and skipped in replay (R282). A release
without an enabled lane still orders (R254). -/
def engineOnce (x : Ctx) (p : Bool) (k : Res) : Res :=
  if (ppLanes x).isEmpty && (enLanes x).isEmpty then (if isBare x then bareOp x else .ok x.s {})
  else ctlPoison x p (if x.inReplay then .ok x.s {} else k)

/-- The words of the descriptor or record at SRCA, and whether one is poisoned. -/
def recWords (x : Ctx) (code n : Nat) : List Nat × Bool :=
  ((List.range n).map (fun k => getReg x.g (code + k) 0), (List.range n).any (fun k => getPoison x.g (code + k) 0))

/-- A pad-extent trap of the enabled lanes. -/
def padTrap (x : Ctx) (off : Int) : Res := .trap { cause := .padExtent, lanes := maskOf (enLanes x), addr := wrap 64 off }

/-- The first row of a pad endpoint that reaches outside the allocation (R284 step 3). -/
def endsOut (b : Block) (e : Ends) : Option Int :=
  if e.pad && e.n != 0 then ((List.range e.rows).find? (fun r => !padIn b (e.row r) e.n)).map e.row else none

/-- The pad extents of completion words and a trigger word. -/
def wordsOut (b : Block) (d : Desc) (trig : Option Nat) : Option Int :=
  let at_ := bits d.aux 0 21
  let one := fun (on : Bool) (o n : Nat) => if on && !padIn b (o : Int) n then some (o : Int) else none
  (one d.aben d.aboff 16).or ((one d.sten d.ringoff 8).or ((one d.cnten at_ 4).or (trig.bind (fun t => one true t 4))))

/-- The instructions that use a descriptor. -/
inductive HaulUse where
  | copy | fill | xpose | rem
deriving DecidableEq, Repr

/-- The checks of R284 on a descriptor: the trap, if any. `w` is the element width, `bytes` what is delivered, `ends` the
endpoints; `sd` says that HXPOSE reads scales through DADDR. -/
def descTrap (x : Ctx) (use : HaulUse) (d : Desc) (w bytes : Nat) (ends : List Ends) (sd : Bool) (trig : Option Nat) : Option Res :=
  let auxBad := use != .rem && (if d.cnten then bits d.aux 21 43 != 0 else d.aux != 0)
  let off := fun (k : Nat) (v : Int) => v % (k : Int) != 0
  let sNums : List Int := if use == .fill then [] else [(d.saddr : Int), d.sstr]
  let dNums : List Int := if use == .xpose then (if sd then [(d.daddr : Int), d.dstr] else []) else [(d.daddr : Int), d.dstr, (d.rowb : Int)]
  let nums := sNums ++ dNums
  let sp := d.spad && use != .fill
  let dp := d.dpad && (use != .xpose || sd)
  if d.mbz || auxBad then some (trapAll x .reserved)
  else if nums.any (off w) || (d.aben && d.aboff % 16 != 0) || (d.sten && d.ringoff % 8 != 0) || (d.cnten && bits d.aux 0 21 % 4 != 0) ||
      (d.tagged && (sp || dp || x.r.fn != 0 || nums.any (off 128))) || (d.aben && decide (2 ^ 31 - 1 < bytes)) ||
      (use == .rem && (d.cnten || d.dpad)) || (match trig with | some t => t % 4 != 0 | none => false) then some (trapAll x .operandForm)
  else match ends.findSome? (endsOut x.b) with
    | some o => some (padTrap x o)
    | none => (wordsOut x.b d trig).map (padTrap x)

/-- The endpoints of a copy. -/
def copyEnds (use : HaulUse) (d : Desc) : List Ends :=
  let s : Ends := { pad := d.spad, addr := d.saddr, stride := d.sstr, rows := d.rows, n := d.rowb }
  let t : Ends := { pad := d.dpad, addr := d.daddr, stride := d.dstr, rows := d.rows, n := d.rowb }
  if use == .fill then [t] else [s, t]

/-- Starts an engine's operation; one that moves nothing completes at once (R284). -/
def startHaul (x : Ctx) (path : Path) (kind : OpKind) : Res :=
  let oid := x.s.nextOp
  let s1 := addOp x.s (opOf x path kind)
  let quiet := match kind with | .hrem _ fn _ => fn == 0 | _ => true
  match findOp s1 oid with
  | some o => if movesNothing o && quiet then .ok (pump (endHaul o ((opDesc o).getD (descOf [])) s1)) {} else .ok (pump s1) {}
  | none => .ok s1 {}

/-- HCOPY (R288). -/
def bodyHcopy (x : Ctx) : Res :=
  let r := recWords x x.r.a 12
  engineOnce x r.2 (
    let d := descOf r.1
    match descTrap x .copy d (redBytes x.r.fn x.r.ty) (d.rows * d.rowb) (copyEnds .copy d) false none with
    | some t => t
    | none => startHaul x .hl (.haul 0 r.1 x.r.fn x.r.ty 0))

/-- HFILL (R291). -/
def bodyHfill (x : Ctx) : Res :=
  let r := recWords x x.r.a 12
  let p := uB x
  engineOnce x (r.2 || p.2) (
    let d := descOf r.1
    match descTrap x .fill d 1 (d.rows * d.rowb) (copyEnds .fill d) false none with
    | some t => t
    | none => startHaul x .hl (.haul 2 r.1 0 0 (p.1 % 2 ^ 32)))

/-- The planes and scales that an HXPOSE writes (R294). -/
def xposeOut (b : Block) (d : Desc) (f : FmtBlk) : Option Int :=
  let nb := 120 / blkLen f.blk
  endsOutAny b [{ pad := true, addr := f.pbase * 16, stride := ((16 * f.p * f.rows : Nat) : Int), rows := d.rows, n := 16 * f.p * f.rows },
    { pad := true, addr := f.sbase * 16, stride := ((f.rows * nb : Nat) : Int), rows := d.rows, n := f.rows * nb }]
where
  endsOutAny (b : Block) (es : List Ends) : Option Int := es.findSome? (endsOut b)

/-- HXPOSE (R293). -/
def bodyHxpose (x : Ctx) : Res :=
  let r := recWords x x.r.a 12
  let w := uB x
  engineOnce x (r.2 || w.2) (
    match fbBad w.1 with
    | some c => trapAll x c
    | none =>
      let d := descOf r.1
      let f := fbOf w.1
      let bytes := d.rows * f.rows * (16 * f.p + 120 / blkLen f.blk)
      match descTrap x .xpose d 1 bytes (if d.rows = 0 then [] else xposeEnds d f) (isBlockFmt f.fmt) none with
      | some t => t
      | none => match xposeOut x.b d f with
        | some o => padTrap x o
        | none => startHaul x .hl (.haul 1 r.1 0 0 w.1))

/-- HREM (R295). -/
def bodyHrem (x : Ctx) : Res :=
  let r := recWords x x.r.a 12
  let v := uB x
  engineOnce x (r.2 || v.2) (
    let d := descOf r.1
    match descTrap x .rem d 1 (d.rows * d.rowb) (copyEnds .rem { d with dpad := false }) false none with
    | some t => t
    | none => startHaul x .nt (.hrem r.1 x.r.fn v.1))

/-- HSIG (R296). -/
def bodyHsig (x : Ctx) : Res :=
  let a := srcA x x.lo
  let v := uB x
  engineOnce x (a.2 || v.2) (
    if a.1 % 8 != 0 then trapLanes .operandForm (enLanes x)
    else reachChecks x (if x.r.fn = 0 then .wr else .at) false (x.r.fn == 1) 8 (fun _ => maskOf (enLanes x)) [{ lane := x.lo, va := a.1 }] (fun s es =>
      let ps := es.flatMap (fun e => e.2)
      let acc : Access := { act := if x.r.fn = 0 then 2 else 3, lane := 0, va := a.1, n := 8, pieces := ps, st := ps.map (fun _ => .todo), data := v.1 }
      .ok (pump (addOp s { opOf x .nt (.hsig x.r.fn v.1) with accs := [acc] })) {}))

/-- HTRIG (R297). -/
def bodyHtrig (x : Ctx) : Res :=
  let r := recWords x x.r.a 12
  let o := uB x
  let t := uC x
  engineOnce x (r.2 || o.2 || t.2) (
    let d := descOf r.1
    match descTrap x .copy d (redBytes x.r.fn x.r.ty) (d.rows * d.rowb) (copyEnds .copy d) false (some (o.1 % 2 ^ 32)) with
    | some t => t
    | none =>
      let e : Trig := { seq := x.g.seq, pc := x.pc, desc := r.1, fn := x.r.fn, ty := x.r.ty, off := o.1 % 2 ^ 32, thr := t.1 % 2 ^ 32, service := x.g.service, fenced := x.g.fenced }
      .ok (trigNote x.b.bid (setGroup { x.g with trigq := x.g.trigq ++ [e] } x.s)) {})

/-- GATH and SCAT (R299): `w` bytes per element; `red` says that the scatter reduces. -/
def gatherBody (x : Ctx) (w : Nat) (need : Need) (red : Bool) (act : Nat) (kind : Nat → OpKind) : Res :=
  let p := uC x
  let ls := enLanes x
  let ws := ls.map (whereOf x)
  let base := p.1 % 2 ^ 32
  let out := ws.filter (fun e => (!p.2 && !padIn x.b ((base + e.lane * w : Nat) : Int) w) || (e.pad && !e.bad && !padIn x.b e.off w))
  let pz := ppLanes x ++ (ws.filter (fun e => e.bad || p.2)).map (fun e => e.lane)
  let odd := ws.filter (fun e => base % w != 0 || (if e.pad then e.off.toNat else e.va) % w != 0)
  match out.head? with
  | some e => .trap { cause := .padExtent, lanes := maskOf (out.map (fun e => e.lane)), addr := if !p.2 && !padIn x.b ((base + e.lane * w : Nat) : Int) w then base + e.lane * w else wrap 64 e.off }
  | none =>
    if !pz.isEmpty then trapLanes .poison pz
    else if x.inReplay then .ok x.s {}
    else if !odd.isEmpty then trapLanes .operandForm (odd.map (fun e => e.lane))
    else if ls.isEmpty then .ok x.s {}
    else reachChecks x need false red w maskOf ws (fun s es =>
      let accs := es.map (fun (e, ps) => { (if e.pad then padAcc e w 0 0 else memAcc e w 0 0 ps) with act := act })
      let u := if act = 4 && !red then unWinners s accs else (accs, s)
      .ok (pump (addOp u.2 { opOf x .ga (kind base) with accs := u.1 })) {})

def bodyGath (x : Ctx) : Res := gatherBody x (memBytes x.r.ty) .rd false 1 (fun p => .gather x.r.ty p)
def bodyScat (x : Ctx) : Res :=
  gatherBody x (redBytes x.r.fn x.r.ty) (if x.r.fn = 0 then .wr else .at) (x.r.fn != 0) 4 (fun p => .scatter x.r.fn x.r.ty p)

/-- HCOPY (R288). -/
def execHcopy (f : Form) (s : State) : Host.Outcome State Fault Refusal := runWord (rawOf 0xa0 f) bodyHcopy s

/-- HXPOSE (R293). -/
def execHxpose (f : Form) (s : State) : Host.Outcome State Fault Refusal := runWord (rawOf 0xa1 f) bodyHxpose s

/-- HFILL (R291). -/
def execHfill (f : Form) (s : State) : Host.Outcome State Fault Refusal := runWord (rawOf 0xa2 f) bodyHfill s

/-- HREM (R295). -/
def execHrem (f : Form) (s : State) : Host.Outcome State Fault Refusal := runWord (rawOf 0xa3 f) bodyHrem s

/-- HSIG (R296). -/
def execHsig (f : Form) (s : State) : Host.Outcome State Fault Refusal := runWord (rawOf 0xa4 f) bodyHsig s

/-- HTRIG (R297). -/
def execHtrig (f : Form) (s : State) : Host.Outcome State Fault Refusal := runWord (rawOf 0xa5 f) bodyHtrig s

/-- GATH (R299). -/
def execGath (f : Form) (s : State) : Host.Outcome State Fault Refusal := runWord (rawOf 0xa6 f) bodyGath s

/-- SCAT (R300). -/
def execScat (f : Form) (s : State) : Host.Outcome State Fault Refusal := runWord (rawOf 0xa7 f) bodyScat s

end Sys2Proof.Machine
end

