-- ==== Sys2Proof/Machine/EvHaul.lean ====
section
/-! DEFINITION. The events of the haul engine (spec/17 R285 to R300): completions, faults, HREM's signal and triggers. -/

namespace Sys2Proof.Machine

/-- HREM's signal function: 0 none, 1 set, 2 add. -/
def hremFn (o : Op) : Nat := match o.kind with | .hrem _ fn _ => fn | _ => 0

def isHaul (o : Op) : Bool := match o.kind with | .haul _ _ _ _ _ => true | .hrem _ _ _ => true | _ => false

/-- Has every packet of an operation's data come back? -/
def dataDone (s : State) (o : Op) (b : Block) : Bool := !o.isOpen && (movesNothing o || (farNext s o b).1.isEmpty)

/-- The fault an HREM's signal address meets (R295), or its translation. One that is not a multiple of 8, for which no FKIND is given, has
FKIND 5 (log 86). -/
def signalAt (s : State) (o : Op) : Except XFault (List Piece) × State :=
  match o.kind with
  | .hrem ws fn _ =>
    let at_ := (descOf ws).aux
    let pl := planOf s o
    if at_ % 8 != 0 then (.error (5, at_), s)
    else
      let t := xlateVa pl.2 (opCore s o) o.part o.service (if fn = 2 then .at else .wr) true at_ 8
      match t.1 with
      | .error e => (.error e, t.2)
      | .ok ps =>
        if ps.all (fun p => (peerOf s p.pa).isSome && (movesNothing o || peerOf s p.pa == hremPeer s pl.1)) then (.ok ps, t.2) else (.error (5, at_), t.2)
  | _ => (.error (0, 0), s)

/-- The fault an operation has met, if any, with the state after the walk that met it (R287, R295: one that moves nothing may meet it with
its signal). -/
def haulTrouble (s : State) (o : Op) (b : Block) : Option Trouble × State :=
  let p := planOf s o
  match (if movesNothing o then farFault o else planFault p.2 o b p.1) with
  | some f => (some f, p.2)
  | none =>
    if hremFn o != 0 && dataDone s o b && !(o.accs.any (fun a => a.act == 3)) then
      (match signalAt p.2 o with
       | (.error e, t) => (some (e, none), t)
       | (.ok _, t) => (none, t))
    else (none, p.2)

/-- HAUL_OP_COMPLETE (R286): operand a is the operation. -/
def evHaulOpComplete (s : State) : Option State :=
  match opWithBlock s s.ev.a with
  | none => none
  | some (o, b) =>
    if !isHaul o || engineHeld s o || !dataDone s o b || (hremFn o != 0 && !(o.accs.any (fun a => a.act == 3))) then none
    else
      let t := haulTrouble s o b
      if t.1.isSome then none
      else
        let p := planOf t.2 o
        some (endHaul o ((opDesc o).getD (descOf [])) (if movesNothing o then t.2 else performPlan p.2 o b p.1 false))

/-- HAUL_OP_COMPLETE (R286). -/
def execHaulOpComplete (s : State) : Host.Outcome State Fault Refusal := eventOut s (evHaulOpComplete s)

/-- HREM_SIGNAL (R295): operand a is the operation. Every data write is acknowledged; the signal leaves. -/
def evHremSignal (s : State) : Option State :=
  match opWithBlock s s.ev.a with
  | none => none
  | some (o, b) =>
    if hremFn o == 0 || engineHeld s o || !dataDone s o b || o.accs.any (fun a => a.act == 3) || (haulTrouble s o b).1.isSome then none
    else match o.kind, signalAt s o with
      | .hrem _ _ val, (.ok ps, t) =>
        some (modOp o.oid (fun o => { o with accs := o.accs ++ [{ act := 3, lane := 0, va := (opDesc o).elim 0 (fun d => d.aux), n := 8, pieces := ps, st := ps.map (fun _ => .todo), data := val }] }) t)
      | _, _ => none

/-- HREM_SIGNAL (R295). -/
def execHremSignal (s : State) : Host.Outcome State Fault Refusal := eventOut s (evHremSignal s)

/-- Does an access of a gather or scatter still wait for a peer? -/
def farOpen (s : State) (o : Op) : Bool :=
  o.accs.any (fun a => ((List.range a.pieces.length).zip a.pieces).any (fun (j, p) => isFar s p && a.st[j]? != some .done))

/-- The value at the memory side of a gather's or scatter's element, or its fault (R299); a gather reads as R241 lets it. -/
def elemRead (s : State) (o : Op) (b : Block) (a : Access) : Except XFault Nat × State :=
  let see := fun (place n v : Nat) (s : State) => if a.act = 1 then readOver s o [] (isWhole a.va a.n) place n v else (v, s)
  if a.pad then
    let q := see (padPlace o.bid a.va) a.n (padGet b a.va a.n) s
    (if padBad b a.va a.n then .error (3, a.va) else .ok q.1, q.2)
  else if a.fkind != 0 then (.error (a.fkind, a.va), s)
  else a.pieces.foldl (fun acc p =>
    match acc.1 with
    | .error e => (.error e, acc.2)
    | .ok v =>
      if isFar acc.2 p then (.ok (putBytes v p.off p.n (bits a.data (8 * p.off) (8 * p.n))), acc.2)
      else if inFaulted acc.2 p.pa then (.error (2, (a.va + p.off) % 2 ^ 64), acc.2)
      else
        let r := homeRead (recallOwner acc.2 (lineOf p.pa) ((nearStep acc.2 [.mem p]).map (fun _ => opCore acc.2 o))) p.pa p.n
        (match r.1 with
         | some w =>
           let q := see p.pa p.n w r.2
           (.ok (putBytes v p.off p.n q.1), q.2)
         | none => (.error (3, (a.va + p.off) % 2 ^ 64), r.2))) (.ok 0, s)

/-- The fault that the memory side of an element meets here, with the place of a data error. -/
def readTrouble (s : State) (o : Op) (b : Block) (a : Access) : Option Trouble :=
  match (elemRead s o b a).1 with
  | .ok _ => none
  | .error e => some (e, if e.1 != 3 || a.fkind != 0 then none else if a.pad then some (.pad a.va)
      else (a.pieces.find? (fun p => !isFar s p && lineBad s p.pa)).map Loc.mem)

/-- The fault of a lane's element, if any (R287, R299). -/
def elemFault (s : State) (o : Op) (b : Block) (a : Access) : Option Trouble :=
  match o.kind with
  | .gather _ _ => readTrouble s o b a
  | .scatter fn ty p =>
    let w := redBytes fn ty
    let at_ := p + a.lane * w
    if a.fkind != 0 then some ((a.fkind, a.va), none)
    else if padBad b at_ w then some ((3, at_), some (.pad at_))
    else if fn = 0 then (a.pieces.find? (fun p => inFaulted s p.pa)).map (fun p => ((2, (a.va + p.off) % 2 ^ 64), none))
    else if a.pieces.any (fun p => isFar s p) then none
    else readTrouble s o b a
  | _ => none

/-- The places of an element's memory side. -/
def elemPlace (a : Access) : List Loc := if a.pad then (List.range a.n).map (fun i => Loc.pad (a.va + i)) else pieceLocs a.va a.pieces

/-- What one lane's element writes (R300): a GATH's pad bytes, a SCAT.COPY's bytes that the lane did not lose, or the result
of its step. -/
def elemWrites (s : State) (o : Op) (b : Block) (a : Access) : Writes × State :=
  match o.kind with
  | .gather _ p =>
    let r := elemRead s o b a
    (match r.1 with
     | .ok v => ((List.range a.n).zip (bytesOf a.n v)).map (fun (i, x) => (Loc.pad (p + a.lane * a.n + i), x))
     | .error _ => [], r.2)
  | .scatter fn ty p =>
    let w := redBytes fn ty
    let z := readOver s o [] (isWhole (p + a.lane * w) w) (padPlace o.bid (p + a.lane * w)) w (padGet b (p + a.lane * w) w)
    let v := z.1
    if fn = 0 then ((((elemPlace a).zip (bytesOf w v)).zip (List.range w)).filterMap (fun (e, i) => if a.away.contains i then none else some e), z.2)
    else
      let r := elemRead z.2 o b a
      (match r.1 with
       | .ok old => (elemPlace a).zip (bytesOf w (redStep fn ty old v))
       | .error _ => [], r.2)
  | _ => ([], s)

/-- Performs the elements of the lanes here, in ascending order; after a fault each element's bytes freely (R287, R300). -/
def performElems (s : State) (o : Op) (faulted : Bool) : State :=
  o.accs.foldl (fun t a =>
    match getBlock t o.bid with
    | none => t
    | some b =>
      if (elemFault t o b a).isSome || (match o.kind with | .scatter _ _ _ => a.pieces.any (fun p => isFar t p) | _ => false) then t
      else
        let reduce := match o.kind with | .scatter fn _ _ => fn != 0 | _ => false
        let w := elemWrites (if reduce then stepReady t o (elemPlace a) else t) o b a
        let k := if !faulted then w
                 else if reduce then (if Config.freeChoice w.2.fresh % 2 = 1 then w.1 else [], { w.2 with fresh := w.2.fresh + 1 })
                 else keepSome w.2 w.1
        if reduce then stepInto k.2 o k.1 else writeLocs (claimLocs k.2 (k.1.map (fun e => e.1))) o false k.1) s

def isGather (o : Op) : Bool := match o.kind with | .gather _ _ => true | .scatter _ _ _ => true | _ => false

/-- GATH_SCAT_COMPLETE (R299): operand a is the operation. -/
def evGathScatComplete (s : State) : Option State :=
  match opWithBlock s s.ev.a with
  | none => none
  | some (o, b) =>
    if !isGather o || engineHeld s o || farOpen s o || o.accs.any (fun a => (elemFault s o b a).isSome) then none
    else some (endOp o.oid (performElems s o false))

/-- GATH_SCAT_COMPLETE (R299). -/
def execGathScatComplete (s : State) : Host.Outcome State Fault Refusal := eventOut s (evGathScatComplete s)

/-- The fault of a signal after its issue (R287, R346, R347, R364). -/
def sigFault (s : State) (o : Op) : Option XFault :=
  o.accs.findSome? (fun a =>
    if a.fkind != 0 then some (a.fkind, a.va) else (a.pieces.find? (fun p => inFaulted s p.pa)).map (fun p => (2, (a.va + p.off) % 2 ^ 64)))

/-- An engine's operation that has met a fault ends faulted (R287). -/
def engineFault (s : State) (o : Op) (b : Block) : Option State :=
  if engineHeld s o then none
  else if isHaul o then
    let t := haulTrouble s o b
    t.1.map (fun f =>
      let p := planOf t.2 o
      endFaulted o f (if movesNothing o then p.2 else performPlan p.2 o b p.1 true))
  else if isGather o then
    (o.accs.findSome? (elemFault s o b)).map (fun f => endFaulted o f (performElems s o true))
  else match o.kind with
    | .hsig _ _ => (sigFault s o).map (fun f => endFaulted o (f, none) s)
    | _ => none

/-- HTRIG_FIRE (R298): operand a is the group. The head entry's test has held since it came to the head; firing is an acquire at BLOCK scope
for the accesses of what fires, of the releases that the word carried then. -/
def evHtrigFire (s : State) : Option State :=
  match mfind s.ev.a s.groups with
  | none => none
  | some g =>
    match g.trigq, getBlock s g.bid with
    | e :: rest, some b =>
      if b.place == .resident && e.met && decide (getCnt g .hl < 255) && !g.retired then
        some (trigNote g.bid (addOp (setGroup { g with trigq := rest } s)
          { oid := 0, gid := g.gid, bid := g.bid, part := partOf s g, seq := e.seq, path := .hl, pc := e.pc
            kind := .haul 0 e.desc e.fn e.ty 0, service := e.service, fenced := e.fenced
            toks := e.toks.filter (fun t => encloses t.scope t.seat (seatOf s g.gid) && encloses 1 (seatOf s g.gid) t.seat) }))
      else none
    | _, _ => none

/-- HTRIG_FIRE (R298). -/
def execHtrigFire (s : State) : Host.Outcome State Fault Refusal := eventOut s (evHtrigFire s)

end Sys2Proof.Machine
end

