-- ==== Sys2Proof/Machine/Net.lean ====
section
/-! DEFINITION. The network instructions (spec/19 R311, R312, R323 to R344): wagons and their bays, collectives and Landau
jobs, as they stand at issue. -/

namespace Sys2Proof.Machine

/-- The traffic class of the group's requests (R352). -/
def Ctx.cls (x : Ctx) : Nat := if x.g.service then 0 else x.gr.cls

/-- Writes a uniform result of an operation that completes at issue. -/
def ntResult (x : Ctx) (s : State) (w : Nat) : Res :=
  let s1 := modGroup x.g.gid (fun g => writeDst x g x.r.d 1 0 w false) s
  let oid := s1.nextOp
  .ok (pump (endOp oid (addOp s1 (opOf x .nt .done)))) {}

/-- Is a target word free of reserved bits (R326)? -/
def targetOk (w : Nat) : Bool := bits w 9 7 == 0 && bits w 22 10 == 0

/-- WSEND (R323, R327): one wagon per enabled lane that has a credit. -/
def bodyWsend (x : Ctx) : Res :=
  let ls := enLanes x
  let tgt := fun (l : Nat) => ((srcB x l).1 % 2 ^ 32, (srcB x l).2)
  let wagon := fun (l : Nat) => groupVal x x.r.a x.r.ra l 16
  let pz := ppLanes x ++ ls.filter (fun l => (tgt l).2 || (wagon l).2)
  let odd := ls.filter (fun l => !targetOk (tgt l).1)
  if isBare x then bareOp x
  else if !pz.isEmpty then trapLanes .poison pz
  else if !odd.isEmpty then trapLanes .operandForm odd
  else if x.inReplay then .ok x.s {}
  else
    let out := ls.foldl (fun (acc : Part × List (Nat × Bool)) l =>
      let n := creditsOf acc.1 (bits (tgt l).1 0 9) (bits (tgt l).1 16 6)
      if n = 0 then (acc.1, acc.2 ++ [(l, false)])
      else (setCredits (bits (tgt l).1 0 9) (bits (tgt l).1 16 6) (n - 1) acc.1, acc.2 ++ [(l, true)])) (getPart x.s x.part, [])
    let sent := (out.2.filter (fun e => e.2)).map (fun e => e.1)
    let accs : List Access := sent.map (fun l =>
      { act := 5, lane := l, va := (tgt l).1, n := 64, st := [.todo], pieces := [{ pa := 2 ^ 60 + 128 * l, n := 64, off := 0, kind := .rc }]
        data := putBytes (putBytes (wagon l).1 45 1 (bits (wagon l).1 360 7 + 128)) 46 2 x.s.pkg })
    let g := out.2.foldl (fun g e => writeDst x g x.r.d 1 e.1 (if e.2 then 1 else 0) false) x.g
    let s1 := setGroup g (setPart x.part out.1 x.s)
    let oid := s1.nextOp
    let s2 := addOp s1 { opOf x .nt .wsend with accs := accs }
    .ok (pump (if accs.isEmpty then endOp oid s2 else s2)) {}

/-- WRECV (R328, R330). A bay with an uncorrectable error is reported as it is taken, its unit the core of the channel's bank (log 81). It
meets the releases of the wagons it takes (R329). A channel number above 63 raises the operand-form trap (log 84). -/
def bodyWrecv (x : Ctx) : Res :=
  let c := uB x
  let ls := enLanes x
  engineOnce x c.2 (
    if 64 ≤ c.1 % 2 ^ 32 then trapAll x .operandForm
    else
      let chan := c.1 % 2 ^ 32
      let p := getPart x.s x.part
      let ch := if bit p.wchan chan then mfind chan p.chans else none
      let ws := (ch.map (fun c => c.wagons)).getD []
      let got := ((List.range ls.length).zip ls).map (fun (i, l) => (l, ws[i]?))
      let taken := got.filterMap (fun e => e.2.map (fun w => (e.1, w)))
      let s1 := if taken.isEmpty then x.s else modPart x.part (fun p => { p with chans := mmodify chan (fun c => { c with wagons := c.wagons.drop taken.length, toks := c.toks.drop taken.length }) p.chans }) x.s
      let s2 := taken.foldl (fun t e => sendCredits x.part x.cls (e.2.2 % 2 ^ 16) chan 1 false t) s1
      let bad := (taken.filter (fun e => decide (2 ^ 16 ≤ e.2.2))).map (fun e => e.1)
      let s3 := bad.foldl (fun t _ => softError t 9 (some x.part) (coreUnit ((ch.map (fun c => c.core)).getD 0)) 0) s2
      let ts := ((ch.map (fun c => c.toks)).getD []).take taken.length
      let g := ls.foldl (fun g l => pendReg x.r.d 16 l g) x.g
      .ok (pump (addOp (meet (setGroup g s3) (opOf x .nt .done) (ts.foldl joinToks [])) (opOf x .nt (.wrecv x.r.d (got.map (fun e => (e.1, (e.2.map (fun w => w.1)).getD 0))) bad)))) {})

/-- WBAY (R326). -/
def bodyWbay (x : Ctx) : Res :=
  let b := uB x
  let n := if x.r.fn ≤ 1 then uC x else (0, false)
  let w := b.1 % 2 ^ 32
  let k := n.1 % 2 ^ 32
  let word := x.r.fn = 1 ∨ x.r.fn = 3 ∨ x.r.fn = 4
  engineOnce x (b.2 || n.2) (
    if (if word then !targetOk w else decide (64 ≤ w)) || (x.r.fn == 0 && decide (32 ≤ k)) || (x.r.fn == 1 && (k == 0 || decide (1024 < k))) then trapAll x .operandForm
    else
      let pkg := bits w 0 9
      let chan := if word then bits w 16 6 else w
      let p := getPart x.s x.part
      let own := bit p.wchan chan
      let ch := if own then mfind chan p.chans else none
      let put := fun (c : Option Chan) (s : State) => modPart x.part (fun p => { p with chans := match c with
        | some v => minsert chan v p.chans
        | none => merase chan p.chans }) s
      let intake := fun (core bank : Nat) (v : Option Nat) (s : State) => modCore core (fun c => { c with banks := minsert bank { getBank c bank with intake := v } c.banks }) s
      match x.r.fn with
      | 0 =>
        let bk := getBank (getCore x.s x.b.core) k
        if !own then ntResult x x.s 1
        else if ch.isSome || bk.mode != 2 || bk.state != 0 || bk.intake.isSome then ntResult x x.s 2
        else ntResult x (intake x.b.core k (some chan) (put (some { core := x.b.core, bank := k }) x.s)) 0
      | 1 =>
        if !own then ntResult x x.s 1
        else (match ch with
          | none => ntResult x x.s 2
          | some c =>
            if 1024 < c.total + k then ntResult x x.s 3
            else ntResult x (sendCredits x.part x.cls pkg chan k false (put (some { c with total := c.total + k }) x.s)) 0)
      | 2 =>
        if !own then ntResult x x.s 1
        else (match ch with
          | none => ntResult x x.s 2
          | some c =>
            if c.total ≠ 0 ∨ !c.wagons.isEmpty then ntResult x x.s 4
            else ntResult x (intake c.core c.bank none (put none x.s)) 0)
      | 3 =>
        let held := creditsOf p pkg chan
        let s1 := modPart x.part (setCredits pkg chan 0) x.s
        ntResult x (if held = 0 then s1 else sendCredits x.part x.cls pkg chan held true s1) held
      | 4 => ntResult x x.s (creditsOf p pkg chan)
      | _ => ntResult x x.s ((ch.map (fun c => c.wagons.length)).getD 0))

/-- COLL (R341). -/
def bodyColl (x : Ctx) : Res :=
  let r := recWords x x.r.b 4
  let o := uC x
  engineOnce x (r.2 || o.2) (
    let c := collRec r.1
    let obj : Nat := o.1 % 2 ^ 32
    if c.mbz then trapAll x .reserved
    else if c.n ≤ c.me ∨ obj % 16 ≠ 0 then trapAll x .operandForm
    else if !padIn x.b (c.stage : Int) 73728 then padTrap x (c.stage : Int)
    else if !padIn x.b (obj : Int) 16 then padTrap x (obj : Int)
    else .ok (pump (addOp x.s (opOf x .nt (.coll (x.r.a - 936) x.r.fn obj r.1 [] [] [])))) {})

/-- Reads `n` bytes of memory at issue on a path: the bytes, or why not (R238, R241, R336). -/
def readAtIssue (x : Ctx) (path : Path) (va n : Nat) : Except XFault Nat × State :=
  let t := xlateVa x.s x.b.core x.part x.g.service .rd false va n
  match t.1 with
  | .error e => (.error e, t.2)
  | .ok ps => homePieces (opOf x path .done) va ps t.2

/-- The trap of a record at `a` that cannot be read (R148, R336): precise, with nothing performed but the report of a data error. What a peer
answered stays answered (log 29). -/
def recordTrap (x : Ctx) (a : Nat) (e : XFault) (s : State) : Res :=
  if e.1 = 3 ∨ e.1 = 7 then .trapIn s { cause := .poison, lanes := x.mask, addr := a, fkind := e.1 }
  else .trapIn { x.s with fresh := s.fresh } { cause := if e.1 = 2 then .poolRegion else .translation, lanes := x.mask, addr := e.2, fkind := e.1 }

/-- May the partition run Landau jobs (R371)? -/
def landauEn (s : State) (part : Nat) : Bool :=
  let v := (getPart s part).pid
  bit v 12 && !(s.parts.any (fun e => e.1 != part && bit e.2.pid 12 && bits e.2.pid 0 12 == bits v 0 12))

/-- The lines of memory that are a job's BUF (R338). -/
def bufLines (x : Ctx) (r : JobRec) (s : State) : List Nat :=
  (List.range r.lines).flatMap (fun i =>
    match (xlateVa s x.b.core x.part x.g.service .rd false ((r.buf + 128 * i) % 2 ^ 64) 128).1 with
    | .ok ps => ps.map (fun p => lineOf p.pa)
    | .error _ => [])

/-- CMPJ (R336). -/
def bodyCmpj (x : Ctx) : Res :=
  let a := srcB x x.lo
  engineOnce x a.2 (
    let q := readAtIssue x .nt a.1 64
    match q.1 with
    | .error e => recordTrap x a.1 e q.2
    | .ok v =>
      let r := jobRec v
      let p := getPart q.2 x.part
      let refuse := fun (n : Nat) => ntResult x q.2 (2 ^ 31 + n)
      if 64 ≤ (openJobs p).length then refuse 1
      else match recRefused r a.1 with
        | some c => refuse c
        | none =>
          if r.ports &&& q.2.fab.ethUp = 0 then refuse 5
          else if !landauEn q.2 x.part then refuse 6
          else
            let h := p.nextHandle
            let oid := q.2.nextOp
            let j : Job := { handle := h, gid := x.g.gid, oid := oid, pc := x.pc, record := v, watch := bufLines x r q.2 }
            let s1 := setPart x.part { p with nextHandle := (h + 1) % 2 ^ 16, jobs := p.jobs.filter (fun e => e.handle != h) ++ [j] } q.2
            let s2 := modGroup x.g.gid (fun g => writeDst x g x.r.d 1 0 h false) s1
            .ok (pump (addOp s2 (opOf x .nt (.job x.part h)))) {})

/-- CMPQ (R340). -/
def bodyCmpq (x : Ctx) : Res :=
  let h := uB x
  engineOnce x h.2 (
    match getJob x.s x.part (h.1 % 2 ^ 16) with
    | none => ntResult x x.s 0xFFFFFFFF
    | some j =>
      let s1 := if x.r.fn = 0 then x.s
        else if j.phase = 0 then (match findOp x.s j.oid with | some o => endJob o j 5 x.s | none => x.s)
        else if j.running then modJob x.part j.handle (fun j => { j with cancel := true }) x.s
        else x.s
      ntResult x s1 (jobState j))

/-- WSEND (R327). -/
def execWsend (f : Form) (s : State) : Host.Outcome State Fault Refusal := runWord (rawOf 0xc2 f) bodyWsend s

/-- WRECV (R328). -/
def execWrecv (f : Form) (s : State) : Host.Outcome State Fault Refusal := runWord (rawOf 0xc3 f) bodyWrecv s

/-- WBAY (R326). -/
def execWbay (f : Form) (s : State) : Host.Outcome State Fault Refusal := runWord (rawOf 0xc4 f) bodyWbay s

/-- COLL (R341). -/
def execColl (f : Form) (s : State) : Host.Outcome State Fault Refusal := runWord (rawOf 0xc5 f) bodyColl s

/-- CMPJ (R336). -/
def execCmpj (f : Form) (s : State) : Host.Outcome State Fault Refusal := runWord (rawOf 0xc6 f) bodyCmpj s

/-- CMPQ (R340). -/
def execCmpq (f : Form) (s : State) : Host.Outcome State Fault Refusal := runWord (rawOf 0xc7 f) bodyCmpq s

end Sys2Proof.Machine
end

