-- ==== Sys2Proof/Machine/EvNet.lean ====
section
/-! DEFINITION. The events of the network operations (spec/19 R327 to R344, spec/17 R287, R296): completions, faults,
collectives and Landau jobs. -/

namespace Sys2Proof.Machine

/-- HSIG on this package's memory (R296): the value is set or added; a line that is a data error keeps nothing of it. -/
def signalHere (s : State) (o : Op) (p : Piece) (fn val : Nat) : State :=
  if inFaulted s p.pa then s
  else poolMark (if fn = 0 then lineWrite (recallOwner s (lineOf p.pa) none) o.part (lineOf p.pa) ((List.range 8).map (fun i => (p.pa % 128 + i, bits val (8 * i) 8))) p.cmp
  else
    let r := homeRead (recallOwner s (lineOf p.pa) none) p.pa 8
    match r.1 with
    | some v => lineWrite r.2 o.part (lineOf p.pa) ((List.range 8).map (fun i => (p.pa % 128 + i, bits (v + val) (8 * i) 8))) p.cmp
    | none => lineError (some o.part) p.pa r.2) o.gid p.pa

/-- The wagons a WRECV took reach their registers (R328); one with an uncorrectable error, which its taking
has reported, gives poisoned zeros, which replay does not take again (R330, R416); at service level no window opens (R411, R415). -/
def landTaken (o : Op) (d : Nat) (taken : List (Nat × Nat)) (bad : List Nat) (s : State) : State :=
  taken.foldl (fun t e =>
    if bad.contains e.1 then
      let t1 := landReg o.gid d 16 e.1 0 true t
      if o.service then t1 else ownPoison t1 o e.1 3 0 true ((List.range 16).map (fun k => regKey (d + k) e.1))
    else landReg o.gid d 16 e.1 e.2 false t) s

/-- NT_OP_COMPLETE (R296, R327, R328, R388): operand a is the operation. -/
def evNtOpComplete (s : State) : Option State :=
  match opWithBlock s s.ev.a with
  | none => none
  | some (o, _) =>
    match o.kind with
    | .hsig fn val =>
      (match o.accs.head? with
       | none => none
       | some a =>
         (match a.pieces.head? with
          | none => none
          | some p =>
            if isFar s p then (if o.isOpen || a.fkind != 0 then none else some (endOp o.oid s))
            else if engineHeld s o || inFaulted s p.pa then none
            else
              let s1 := opRelease s o
              let t := signalHere s1 o p fn val
              let bs := (List.range 8).map (fun i => memByte t (p.pa + i))
              some (endOp o.oid (noteWrite s1 { t with past := s1.past, relAt := s1.relAt } o 0 (p.kind == .un) (fn != 0) p.pa bs))))
    | .wsend => if o.isOpen || o.accs.any (fun a => a.fkind != 0) then none else some (endOp o.oid s)
    | .wrecv d taken bad => if engineHeld s o then none else some (endOp o.oid (landTaken o d taken bad s))
    | _ => none

/-- NT_OP_COMPLETE (R388). -/
def execNtOpComplete (s : State) : Host.Outcome State Fault Refusal := eventOut s (evNtOpComplete s)

/-- The fault of a collective (R341, R346): of its RANKTAB, of a fenced member, or, where `lone` says that a member never
joins, while it waits. The kinds that the spec does not name are free (log 40). -/
def collTrouble (s : State) (o : Op) (lone : Bool) : Option XFault × State :=
  match o.kind with
  | .coll _ _ _ ws ranks _ _ =>
    let r := collRec ws
    match o.accs.find? (fun a => a.fkind != 0) with
    | some a => (some (a.fkind, a.va), s)
    | none =>
      if ranks.isEmpty then
        (match readVa s o r.ranktab (2 * r.n) with
         | (.error (.fault f), t) => (some f, t)
         | (_, t) => (none, t))
      else if ranks[r.me]? != some s.pkg || lone then
        (some (1 + Config.freeChoice s.fresh % 8, Config.freeChoice (s.fresh + 1) % 2 ^ 64), { s with fresh := s.fresh + 2 })
      else (none, s)
  | _ => (none, s)

/-- A collective that ends faulted leaves each element of its tile as it was or as the result (R344): that of the root, or one that this
member cannot know. -/
def collLost (o : Op) (s : State) : State :=
  match o.kind, getBlock s o.bid with
  | .coll t _ _ ws _ _ up, some b =>
    let r := collRec ws
    let known := fun (tree : Nat) => if (collParent r.n tree r.me).isNone && !o.poisoned then mfind tree up else none
    let b1 := (List.range 9216).foldl (fun (c : Block) k =>
      if Config.freeChoice (s.fresh + 2 * k) % 2 = 0 then c
      else
        let v := match known (k / 4608) with
          | some ws => BitVec.ofNat 32 (ws.getD (k % 4608) 0)
          | none => Config.freeWord (s.fresh + 2 * k + 1)
        { c with tiles := cset 0 (t * 9216 + k) v c.tiles }) b
    setBlock b1 { s with fresh := s.fresh + 18432 }
  | _, _ => s

/-- The fault of a WSEND (R330) whose wagons are all accounted for; the address is open (log 41). -/
def wagonTrouble (s : State) (o : Op) : Option XFault :=
  if o.isOpen then none
  else (o.accs.find? (fun a => a.fkind != 0)).map (fun a => (a.fkind, Config.freeChoice s.fresh % 2 ^ 64))

/-- HAUL_OP_FAULT (R287, R330, R341): operand a is the operation, of the HL, GA or NT path; the flag says that a member of a
collective never joins. -/
def evHaulOpFault (s : State) : Option State :=
  match opWithBlock s s.ev.a with
  | none => none
  | some (o, b) =>
    match o.kind with
    | .wsend => (wagonTrouble s o).map (fun f => endOp o.oid (recordFault o f { s with fresh := s.fresh + 1 }))
    | .coll _ _ _ _ _ _ _ =>
      if tileHeld s o then none
      else
        let t := collTrouble s o s.ev.flag
        t.1.map (fun f => endOp o.oid (recordFault o f (collLost o t.2)))
    | _ => engineFault s o b

/-- HAUL_OP_FAULT (R287). -/
def execHaulOpFault (s : State) : Host.Outcome State Fault Refusal := eventOut s (evHaulOpFault s)

/-- The CTAG of a collective. -/
def ctagOf (o : Op) : Option Nat := match o.kind with | .coll _ _ _ ws _ _ _ => some (collRec ws).tag | _ => none

/-- Does a collective that was issued earlier with the same CTAG in its partition still wait for what has come (R341)? -/
def collAhead (s : State) (o : Op) (waits : Op → Bool) : Bool :=
  s.ops.any (fun e => e.part == o.part && decide (e.oid < o.oid) && !e.finished && (ctagOf e).isSome && ctagOf e == ctagOf o && waits e)

/-- Has a collective a child for a staging quarter that has not yet sent its half? -/
def lacksChild (q : Nat) (o : Op) : Bool :=
  match o.kind with
  | .coll _ _ _ ws _ got _ => decide (q < 4) && (collChild (collRec ws).n (q / 2) (collRec ws).me (q % 2)).isSome && (mfind q got).isNone
  | _ => false

/-- COLL_CHILD_ARRIVE (R341, R343): operand a is the operation, the oldest with the CTAG c that waits for it, b the staging quarter, and xs
the child's half. -/
def evCollChildArrive (s : State) : Option State :=
  match opWithBlock s s.ev.a with
  | none => none
  | some (o, _) =>
    match o.kind with
    | .coll t fn obj ws ranks got up =>
      let r := collRec ws
      let q := s.ev.b
      if tileHeld s o || ranks[r.me]? != some s.pkg || !lacksChild q o || s.ev.c != r.tag || collAhead s o (lacksChild q) || s.ev.xs.length != 4608 then none
      else
        let xs := s.ev.xs.map (fun w => w % 2 ^ 32)
        some (modOp o.oid (fun o => { o with kind := .coll t fn obj ws ranks (minsert q xs got) up })
          (trigNote o.bid (modBlock o.bid (padPut (quarterAt r q) 18432 (wordsNum xs)) s)))
    | _ => none

/-- COLL_CHILD_ARRIVE (R343). -/
def execCollChildArrive (s : State) : Host.Outcome State Fault Refusal := eventOut s (evCollChildArrive s)

/-- The arrival a collective makes on its object (R143, R344), a release at BLOCK scope; one that would trap leaves the object as
it is. -/
def collArrive (o : Op) (obj : Nat) (s : State) : State :=
  match getBlock s o.bid with
  | none => s
  | some b =>
    let v := abOf (padGet b obj 16)
    if abBad v then s else match abArrive 0 v with
      | some v1 => padWrite (releaseDone s o.gid o.seq o.born 1) { o with order := 2, scope := 1 } 0 true obj 16 (abWord v1)
      | none => s

/-- A collective ends with its arrival; where the object's word is uncorrectable it ends faulted and makes none (R186, R287, R344, log 83). -/
def collEnd (o : Op) (obj : Nat) (s : State) : State :=
  match getBlock s o.bid with
  | none => s
  | some b => if padBad b obj 16 then endFaulted o ((3, obj), some (.pad obj)) s else endOp o.oid (collArrive o obj s)

/-- Words, or free ones where a block has accessed the staging area (R344, log 22). -/
def unlessTouched (o : Op) (ws : List Nat) (s : State) : List Nat × State :=
  if o.poisoned then ((List.range ws.length).map (fun k => (Config.freeWord (s.fresh + k)).toNat), { s with fresh := s.fresh + ws.length }) else (ws, s)

/-- COLL_COMPLETE (R341, R343, R344): operand a is the operation; xs and ys are the results of trees A and B as a parent sends them
down for the CTAG c, not used where this member is the root. -/
def evCollComplete (s : State) : Option State :=
  match opWithBlock s s.ev.a with
  | none => none
  | some (o, b) =>
    match o.kind with
    | .coll t _ obj ws ranks _ up =>
      let r := collRec ws
      let half := fun (tree : Nat) (down : List Nat) => match mfind tree up with
        | none => none
        | some own => if (collParent r.n tree r.me).isNone then some own else if down.length = 4608 && s.ev.c == r.tag then some (down.map (fun w => w % 2 ^ 32)) else none
      if tileHeld s o || ranks[r.me]? != some s.pkg || collAhead s o (fun _ => true) || !coveredDone s o.gid o.seq 1 (opCore s o) then none
      else match half 0 s.ev.xs, half 1 s.ev.ys with
        | some xs, some ys =>
          let w := unlessTouched o (xs ++ ys) s
          let b1 := ((List.range 9216).zip w.1).foldl (fun (c : Block) e => { c with tiles := cset 0 (t * 9216 + e.1) (BitVec.ofNat 32 e.2) c.tiles }) b
          let down := [(0, w.1.take 4608), (1, w.1.drop 4608)].flatMap (fun (tree, v) => [0, 1].filterMap (fun side =>
            (collChild r.n tree r.me side).map (fun c => (r.tag, ranks.getD c 0, 2 + tree, v))))
          some (collEnd o obj { setBlock b1 w.2 with fab := { w.2.fab with collOut := w.2.fab.collOut ++ down } })
        | _, _ => none
    | _ => none

/-- COLL_COMPLETE (R344). -/
def execCollComplete (s : State) : Host.Outcome State Fault Refusal := eventOut s (evCollComplete s)

/-- The job a partition runs, with its operation. -/
def runningJob (s : State) (part : Nat) : Option (Op × Job) :=
  ((getPart s part).jobs.find? Job.running).bind (fun j => (findOp s j.oid).map (fun o => (o, j)))

/-- The oldest queued job of a partition that may start, with its operation. -/
def nextJob (s : State) (part : Nat) : Option (Op × Job) :=
  (((getPart s part).jobs.find? (fun j => j.phase == 0)).bind (fun j => (findOp s j.oid).map (fun o => (o, j)))).filter (fun e => !engineHeld s e.1)

/-- The partition whose turn at the compositor it is (R336): while no job runs, the first with a job that may start, from the one after
that served last (log 72). -/
def jobTurn (s : State) : Option Nat :=
  if s.parts.any (fun e => e.2.jobs.any Job.running) then none
  else ((List.range 40).map (fun k => (s.compTurn + k) % 40)).find? (fun p => (nextJob s p).isSome)

/-- Does a message belong to another kind of job than the one of its JobID (R336)? -/
def mismatched (r : JobRec) (m : UetMsg) : Bool :=
  m.jtag != r.jtag || m.kind != r.kind || m.algo != r.algo || m.nranks != r.n || m.lines != r.lines

/-- LANDAU_JOB_START (R336): operand a is the partition, whose turn it is. Its oldest queued job starts; a message that
came from another kind of job is a mismatch. -/
def evLandauJobStart (s : State) : Option State :=
  if jobTurn s != some s.ev.a then none
  else (nextJob s s.ev.a).map (fun (o, j) =>
    let s1 := modJob o.part j.handle (fun j => { j with phase := 1, since := s.cycle }) { s with compTurn := (s.ev.a + 1) % 40 }
    if j.got.any (mismatched (jobRec j.record)) then endJob o j 1 s1 else s1)

/-- LANDAU_JOB_START (R336). -/
def execLandauJobStart (s : State) : Host.Outcome State Fault Refusal := eventOut s (evLandauJobStart s)

/-- The partition that serves a PIDonFEP (R370, R371). -/
def servesPid (s : State) (pid : Nat) : Option Nat :=
  (s.parts.find? (fun e => bit e.2.pid 12 && bits e.2.pid 0 12 == pid)).map (fun e => e.1)

/-- UET_MESSAGE (R336, R370): the message m, for the oldest job of its JobID in the partition that serves its PIDonFEP. The transport
keeps a message for which there is no job yet. -/
def evUetMessage (s : State) : Option State :=
  let m := s.ev.m
  (servesPid s m.pid).bind (fun part =>
    match (getPart s part).jobs.find? (fun j => !j.ended && (jobRec j.record).jtag % 2 ^ 24 == m.jobId) with
    | none => none
    | some j =>
      let r := jobRec j.record
      if m.dst != r.rank then none
      else if j.running && mismatched r m then (findOp s j.oid).map (fun o => endJob o j 1 s)
      else some (modJob part j.handle (fun j => { j with got := j.got ++ [m] }) s))

/-- UET_MESSAGE (R370). -/
def execUetMessage (s : State) : Host.Outcome State Fault Refusal := eventOut s (evUetMessage s)

/-- Have 250 ms passed, at the arithmetic clock, since a cycle? -/
def waited250ms (s : State) (since : Nat) : Bool := decide (250000 * bits s.boot.pwrStat 32 12 ≤ s.cycle - since)

/-- LANDAU_TIMEOUT (R338): operand a is the partition. -/
def evLandauTimeout (s : State) : Option State :=
  match runningJob s s.ev.a with
  | some (o, j) => if j.phase == 2 && j.begun && waited250ms s j.since then some (endJob o j 2 s) else none
  | none => none

/-- LANDAU_TIMEOUT (R338). -/
def execLandauTimeout (s : State) : Host.Outcome State Fault Refusal := eventOut s (evLandauTimeout s)

/-- UET_LINK_ERROR (R338): operand a is the partition. -/
def evUetLinkError (s : State) : Option State := (runningJob s s.ev.a).map (fun (o, j) => endJob o j 3 s)

/-- UET_LINK_ERROR (R338). -/
def execUetLinkError (s : State) : Host.Outcome State Fault Refusal := eventOut s (evUetLinkError s)

end Sys2Proof.Machine
end

