-- ==== Sys2Proof/Machine/EvFabric.lean ====
section
/-! DEFINITION. The events of the fabric, the pool and the clock (spec/21 R345 to R376, spec/11 R213): packets that arrive,
packages that are fenced, multicast trees, pool links, PTP. -/

namespace Sys2Proof.Machine

/-- A packet of KIND `k` arrives (R349) by a port that is up (R348): one that is malformed is discarded and counted. -/
def onPacket (k : Nat) (s : State) (f : Packet → Option State) : Option State :=
  let p := s.ev.p
  if !bit s.fab.ports p.port then none
  else if 11 ≤ p.kind ∨ p.mbz ≠ 0 then some (errCount 0 1 s)
  else if p.kind ≠ k ∨ p.dst ≠ s.pkg then none
  else f p

/-- The partition on whose channel groups a home performs a request (R347). -/
def targetPart (s : State) (p : Packet) : Option Nat :=
  if p.fdom = 0 then none
  else (s.parts.find? (fun e => e.2.fdom == p.fdom && ownsRange e.2 (p.offset / 128 * 128) 128)).map (fun e => e.1)

/-- The answer to a request (R349): the header's fields of the request, its MARK as ECHO, and the answering package in OPND
(log 20). `reason` 3 is a data error at the home. -/
def reply (s : State) (p : Packet) (kind data : Nat) (refused : Bool) (reason : Nat) : Packet :=
  { kind := kind, src := p.src, dst := p.src, cls := p.cls, echo := p.mark, tag := p.tag, offset := p.offset, group := p.group
    fdom := p.fdom, mask := p.mask, opnd := s.pkg, data := data, refused := refused, reason := reason }

def answer (s : State) (p : Packet) (kind data : Nat) (refused : Bool) (reason : Nat) : State :=
  queuePackets [reply s p kind data refused reason] s

/-- A request that the home does not perform (R347). -/
def refuse (s : State) (p : Packet) (kind : Nat) : State := answer (errCount 3 1 s) p kind 0 true 0

/-- The bytes of a packet's line that it carries. -/
def packetBytes (p : Packet) : List (Nat × Nat) := ((List.range 128).filter (bit p.mask)).map (fun i => (i, bits p.data (8 * i) 8))

/-- READ (R347, R349). -/
def evRead (s : State) : Option State :=
  onPacket 0 s (fun p =>
    match targetPart s p with
    | none => some (refuse s p 1)
    | some q =>
      let at_ := homePa s q (p.offset / 128 * 128)
      let r := homeRead (recallOwner s (lineOf at_) none) at_ 128
      match r.1 with
      | some v => some (answer r.2 p 1 ((packetBytes { p with data := v }).foldl (fun d e => putBytes d e.1 1 e.2) 0) false 0)
      | none => some (answer (lineError (some q) at_ r.2) p 1 0 true 3))

/-- READ (R349). -/
def execRead (s : State) : Host.Outcome State Fault Refusal := eventOut s (evRead s)

/-- WRITE (R347, R349). -/
def evWrite (s : State) : Option State :=
  onPacket 2 s (fun p =>
    match targetPart s p with
    | none => some (refuse s p 5)
    | some q => some (answer (lineWrite s q (lineOf (homePa s q p.offset)) (packetBytes p) false) p 5 0 false 0))

/-- WRITE (R349). -/
def execWrite (s : State) : Host.Outcome State Fault Refusal := eventOut s (evWrite s)

/-- The bytes of an atomic packet's element (R349, log 20). -/
def atomWidth (p : Packet) : Nat :=
  let ty := bits p.opnd 4 4
  if bit p.opnd 8 then 16 else if ty = 2 ∨ ty = 3 then 8 else if ty = 5 then 2 else 4

/-- The lanes of an atomic packet in their order, each with its place in the line, its operand and what it compares; those of a packet
that names none are its elements (log 20). -/
def atomLanes (p : Packet) : List (Nat × Nat × Nat) :=
  let n := atomWidth p
  if p.lanes.isEmpty then
    ((List.range (128 / n)).filter (fun k => bit p.mask (n * k))).map (fun k => (n * k, bits p.data (8 * (n * k)) (8 * n), p.opnd / 65536))
  else p.lanes.filter (fun l => decide (l.1 + n ≤ 128))

/-- Performs the lanes in turn: the line's value, and the old value of each. -/
def atomRun (p : Packet) (v : Nat) : Nat × List (Nat × Nat × Nat) :=
  let n := atomWidth p
  (atomLanes p).foldl (fun acc l =>
    let old := bits acc.1 (8 * l.1) (8 * n)
    ((match atomOf (bits p.opnd 0 4) (bits p.opnd 4 4) (bit p.opnd 8) n old l.2.1 l.2.2 with
      | some w => putBytes acc.1 l.1 n w
      | none => acc.1), acc.2 ++ [(l.1, old, 0)])) (v, [])

/-- ATOMIC (R347, R349): the lanes that the packet carries are performed in their order; a returning one gets the old values. -/
def evAtomicReq (s : State) : Option State :=
  onPacket 3 s (fun p =>
    let kind := if bit p.opnd 9 then 4 else 5
    match targetPart s p with
    | none => some (refuse s p kind)
    | some q =>
      let at_ := homePa s q (p.offset / 128 * 128)
      let r := homeRead (recallOwner s (lineOf at_) none) at_ 128
      match r.1 with
      | none => some (answer (lineError (some q) at_ r.2) p kind 0 true 3)
      | some v =>
        let w := atomRun p v
        let bs := ((List.range 128).filter (fun i => bits v (8 * i) 8 != bits w.1 (8 * i) 8)).map (fun i => (i, bits w.1 (8 * i) 8))
        let s1 := if bs.isEmpty then r.2 else lineWrite r.2 q (lineOf at_) bs false
        some (queuePackets [if kind = 4 then { reply s p 4 v false 0 with lanes := w.2 } else reply s p 5 0 false 0] s1))

/-- ATOMIC (R349). -/
def execAtomicReq (s : State) : Host.Outcome State Fault Refusal := eventOut s (evAtomicReq s)

/-- SIGNAL (R295, R296, R349). -/
def evSignal (s : State) : Option State :=
  onPacket 6 s (fun p =>
    match targetPart s p with
    | none => some (refuse s p 5)
    | some q =>
      let at_ := homePa s q (p.offset / 128 * 128) + (lowBit 128 0 p.mask).log2
      let op : Op := { oid := 0, gid := 2 ^ 64, bid := 0, part := q, seq := 0, path := .nt, pc := 0, kind := .done }
      some (answer (signalHere s op { pa := at_, n := 8, off := 0, kind := .rc } (bits p.opnd 64 1) (bits p.opnd 0 64)) p 5 0 false 0))

/-- SIGNAL (R349). -/
def execSignal (s : State) : Host.Outcome State Fault Refusal := eventOut s (evSignal s)

/-- WAGON (R324, R330, R347). -/
def evWagon (s : State) : Option State :=
  onPacket 7 s (fun p =>
    let chan := bits p.opnd 0 6
    match wagonOwner s p.fdom none chan with
    | some q => some (answer (landWagon q chan (bits p.data 0 512) p.src [] s) p 5 0 false 0)
    | none =>
      let same := p.fdom != 0 && (chanOwner s chan).any (fun q => (getPart s q).fdom == p.fdom)
      some (answer (if same then s else errCount 3 1 s) p 5 0 true 0))

/-- WAGON (R349). -/
def execWagon (s : State) : Host.Outcome State Fault Refusal := eventOut s (evWagon s)

/-- CREDIT (R325). -/
def evCredit (s : State) : Option State :=
  onPacket 8 s (fun p =>
    let chan := bits p.opnd 0 6
    let n := bits p.opnd 16 16
    some (if bit p.opnd 32 then returnArrives chan n s else creditArrives p.src chan n s))

/-- CREDIT (R349). -/
def execCredit (s : State) : Host.Outcome State Fault Refusal := eventOut s (evCredit s)

/-- A time in microseconds as cycles of the arithmetic clock. -/
def usCycles (s : State) (us : Nat) : Nat := us * bits s.boot.pwrStat 32 12

/-- The rate of a pair of package and class (R353). -/
def rateOf (s : State) (pkg cls : Nat) : Nat := cget 256 (pkg * 4 + cls) s.fab.rates

/-- The floor of the rate (R353). -/
def rateFloor (s : State) (cls : Nat) : Nat := if cls = 0 then 1 else 4 * bits s.fab.class_ (6 * (cls - 1)) 6

/-- An echoed mark (R353): the rate falls, at most once per 4 µs for each pair. `marks` holds when a mark last came (even keys)
and when the rate last fell (odd keys). -/
def echoMark (pkg cls : Nat) (s : State) : State :=
  let k := pkg * 4 + cls
  let s1 := { s with fab := { s.fab with marks := minsert (2 * k) s.cycle s.fab.marks } }
  if (match mfind (2 * k + 1) s.fab.marks with | some t => decide (s.cycle < t + usCycles s 4) | none => false) then s1
  else { s1 with fab := { s1.fab with rates := cset 256 k (max (rateOf s pkg cls * 7 / 8) (rateFloor s cls)) s1.fab.rates
                                      marks := minsert (2 * k + 1) s.cycle s1.fab.marks } }

/-- RATE_INCREASE (R353): operand a is the package and b the class. -/
def evRateIncrease (s : State) : Option State :=
  let k := s.ev.a * 4 + s.ev.b
  if rateOf s s.ev.a s.ev.b = 256 ∨ 4 ≤ s.ev.b then none
  else if (match mfind (2 * k) s.fab.marks with | some t => decide (s.cycle < t + usCycles s 8) | none => false) then none
  else some { s with fab := { s.fab with rates := cset 256 k (min (rateOf s s.ev.a s.ev.b + 4) 256) s.fab.rates, marks := minsert (2 * k) s.cycle s.fab.marks } }

/-- RATE_INCREASE (R353). -/
def execRateIncrease (s : State) : Host.Outcome State Fault Refusal := eventOut s (evRateIncrease s)

/-- Is a store or a non-returning atomic, which nothing but its counter waits for? -/
def writesOnly (o : Op) : Bool :=
  match o.kind with
  | .store => true
  | .atomic _ _ ret _ => ret.isNone
  | _ => false

/-- Is a refusal of the operation counted and reported at its source (R347)? -/
def forgives (o : Op) : Bool := writesOnly o || isHrem o || (match o.kind with | .hsig _ _ => true | _ => false)

/-- Marks the parts of accesses of engines as failed. -/
def failParts (oid fk : Nat) (ps : List (Nat × Nat)) (s : State) : State :=
  markParts oid .done ps (modOp oid (fun o => { o with accs := ((List.range o.accs.length).zip o.accs).map (fun (k, a) =>
    if ps.any (fun e => e.1 == k) then { a with fkind := fk } else a) }) s)

/-- Parts of an operation will not be performed (R346, R347): a load's or returning atomic's lanes get poison, a store or other atomic
completes for its counter, and an operation of the HL, GA or NT path has met its fault. `maybe` says that the peer may have
performed them. -/
def partsLost (o : Op) (fk : Nat) (maybe : Bool) (ps : List (Nat × Nat)) (s : State) : State :=
  let lanes := (ps.map (fun e => e.1)).eraseDups
  match o.kind with
  | .load _ _ _ _ | .pref _ => endIfRead o.oid (lanes.foldl (fun t k => landLoad t o k 0 fk ((o.accs[k]?.map (fun a => a.va)).getD 0)) s)
  | .atomic _ _ (some _) _ => endIfRead o.oid (lanes.foldl (fun t k => landAtom t o k 0 fk ((o.accs[k]?.map (fun a => a.va)).getD 0) maybe) s)
  | _ => if writesOnly o then markParts o.oid .done ps s else failParts o.oid fk ps s

/-- A refusal reaches the source (R347): what completes for its counter is counted and interrupts the driver. -/
def refusedHere (o : Op) (ps : List (Nat × Nat)) (s : State) : State :=
  let s1 := if forgives o then partIrq o.part 3 (errCount 2 1 s) else s
  partsLost o (if isWsend o then 8 else 1) false ps s1

/-- Bytes of a part that another lane of the issue has already read are what that lane read (R218). -/
def asRead (o : Op) (now : Nat × Nat → Bool) (a : Access) (p : Piece) (v : Nat) : Nat :=
  if !byLane o a then v
  else ((List.range o.accs.length).zip o.accs).foldl (fun v e =>
    if e.2.pad || e.2.fkind != 0 then v
    else ((List.range e.2.pieces.length).zip e.2.pieces).foldl (fun v f =>
      if now (e.1, f.1) || !(e.2.st[f.1]?.any (fun t => t == .got || t == .done)) then v
      else layOver { a with pieces := [{ p with off := 0 }] } v { e.2 with pieces := [f.2] } e.2.data) v) v

/-- Puts the bytes that a packet brings into the parts it answers, and a whole line of a BORROW page into the dray cache, unless
HINT is NOAL or an invalidation has come meanwhile (R211, R261, R280). -/
def bringParts (o : Op) (line data : Nat) (whole : Bool) (ps : List (Nat × Nat)) (s : State) : State :=
  let s1 := modOp o.oid (fun o => { o with accs := ((List.range o.accs.length).zip o.accs).map (fun (k, a) =>
    ((List.range a.pieces.length).zip a.pieces).foldl (fun a (j, p) =>
      if ps.contains (k, j) then { a with data := putBytes a.data p.off p.n (asRead o (fun e => ps.contains e) a p (bits data (8 * (p.pa % 128)) (8 * p.n))) } else a) a) }) s
  let sector := ps.any (fun (k, j) => match (o.accs[k]?).bind (fun a => a.pieces[j]?) with | some p => p.borrow && p.kind != .so | none => false)
  let got := ps.filter (fun e => (o.accs[e.1]?).any (fun a => a.act == 0))
  markParts o.oid .got got (markParts o.oid .done (ps.filter (fun e => !got.contains e))
    (if whole && sector && !o.noFill && o.hint != 3 then drayPut s1 o.part line data else s1))

/-- What a tag names in place of an operation for a write of a partition's distributor: this and the partition. -/
abbrev distOid : Nat := 2 ^ 64

/-- The operation and the parts that a response answers; its mark is counted. A distributor's refused write is counted and
reported as a store's (R347). -/
def onResponse (s : State) (p : Packet) (f : State → Op → Nat → List (Nat × Nat) → State) : Option State :=
  match mfind p.tag s.fab.tags with
  | none => some s
  | some (oid, key, line) =>
    let s1 := { s with fab := { s.fab with tags := merase p.tag s.fab.tags } }
    let pkg := match paKind s (line * 128) with | .peer q _ => q | _ => p.opnd % 512
    let s2 := if p.echo then echoMark pkg p.cls s1 else s1
    match findOp s2 oid with
    | none => some (if p.refused && distOid ≤ oid then partIrq (oid - distOid) 3 (errCount 2 1 s2) else s2)
    | some o => some (f s2 o line (tagParts o key line))

/-- READ_DATA (R214, R347, R349). -/
def evReadData (s : State) : Option State :=
  onPacket 1 s (fun p => onResponse s p (fun s o line ps =>
    if p.refused then (if p.reason = 3 then partsLost o 3 false ps s else refusedHere o ps s) else bringParts o line p.data (p.mask == 2 ^ 128 - 1) ps s))

/-- READ_DATA (R349). -/
def execReadData (s : State) : Host.Outcome State Fault Refusal := eventOut s (evReadData s)

/-- ATOMIC_DATA (R269, R349). -/
def evAtomicData (s : State) : Option State :=
  onPacket 4 s (fun p => onResponse s p (fun s o _ ps =>
    if p.refused then (if p.reason = 3 then partsLost o 3 false ps s else refusedHere o ps s)
    else endIfRead o.oid (((List.range ps.length).zip ps).foldl (fun t (i, k, j) => match (o.accs[k]?).bind (fun a => a.pieces[j]?) with
      | some q => landAtom t o k (match p.lanes[i]? with | some l => l.2.1 % 2 ^ (8 * q.n) | none => bits p.data (8 * (q.pa % 128)) (8 * q.n)) 0 0 false
      | none => t) s)))

/-- ATOMIC_DATA (R349). -/
def execAtomicData (s : State) : Host.Outcome State Fault Refusal := eventOut s (evAtomicData s)

/-- ACKNOWLEDGEMENT (R247, R347, R349, R357). -/
def evAcknowledgement (s : State) : Option State :=
  onPacket 5 s (fun p =>
    if (mfind p.tag s.fab.mcWait).isSome then some (mcAnswer p.tag (p.opnd % 512) 1 (if p.echo then echoMark (p.opnd % 512) p.cls s else s))
    else onResponse s p (fun s o _ ps =>
      if p.refused then (if p.reason = 3 then partsLost o 3 false ps s else refusedHere o ps s) else markParts o.oid .done ps s))

/-- ACKNOWLEDGEMENT (R349). -/
def execAcknowledgement (s : State) : Host.Outcome State Fault Refusal := eventOut s (evAcknowledgement s)

/-- BRANCH_NACK (R355 to R358): OPND holds the root of the missed subtree in [8:0] and its SPAN in [21:16] (log 20). -/
def evBranchNack (s : State) : Option State :=
  onPacket 10 s (fun p =>
    let root := bits p.opnd 0 9
    let span := bits p.opnd 16 6
    some (mcAnswer p.tag root span (nackLog p.group root span p.reason p.offset s)))

/-- BRANCH_NACK (R357). -/
def execBranchNack (s : State) : Host.Outcome State Fault Refusal := eventOut s (evBranchNack s)

/-- MULTICAST_WRITE (R355): the copy is written and forwarded, or its subtree refused. A member below that cannot be reached is
missed with its subtree (R357). -/
def evMulticastWrite (s : State) : Option State :=
  onPacket 9 s (fun p =>
    let nack := fun (r : Nat) => some (queuePackets [nackPacket p s.pkg (p.tree.length + 1) r] s)
    match mcEntry s p.group with
    | none => nack 3
    | some e =>
      if p.fdom = 0 ∨ e.fdom ≠ p.fdom then nack 3
      else match s.parts.find? (fun q => q.2.fdom == p.fdom && decide (e.lsize ≠ 0) && ownsRange q.2 e.lbase e.lsize) with
        | none => nack 1
        | some q =>
          if e.lsize < p.offset / 128 * 128 + 128 then nack 1
          else
            let s1 := lineWrite s q.1 (lineOf (homePa s q.1 (e.lbase + p.offset))) (packetBytes p) false
            let below := (mcCopies p 33 p.tree).map (fun (c : Packet) => if cutOff s c.dst then nackPacket p c.dst (c.tree.length + 1) 2 else c)
            some (queuePackets below (answer s1 p 5 0 false 0)))

/-- MULTICAST_WRITE (R355). -/
def execMulticastWrite (s : State) : Host.Outcome State Fault Refusal := eventOut s (evMulticastWrite s)

/-- MULTICAST_COPY_DROP (R356): operand a is the place in the outgoing queue of a copy that waited 50 µs at its switch. -/
def evMulticastCopyDrop (s : State) : Option State :=
  match s.fab.outbox[s.ev.a]? with
  | none => none
  | some p =>
    if p.kind ≠ 9 then none
    else
      let s1 := { s with fab := { s.fab with outbox := s.fab.outbox.eraseIdx s.ev.a } }
      if p.src = s.pkg then some (mcAnswer p.tag p.dst (p.tree.length + 1) (nackLog p.group p.dst (p.tree.length + 1) 0 p.offset s1))
      else some (queuePackets [nackPacket p p.dst (p.tree.length + 1) 0] s1)

/-- MULTICAST_COPY_DROP (R356). -/
def execMulticastCopyDrop (s : State) : Host.Outcome State Fault Refusal := eventOut s (evMulticastCopyDrop s)

/-- The parts of an operation that are in flight to a package. -/
def partsTo (s : State) (o : Op) (q : Nat) : List (Nat × Nat) :=
  ((List.range o.accs.length).zip o.accs).flatMap (fun (k, a) => ((List.range a.pieces.length).zip a.pieces).filterMap (fun (j, p) =>
    if a.st[j]? != some .done && a.st[j]? != some .got && (peerOf s p.pa == some q || (a.act == 5 && bits a.va 0 9 == q && q != s.pkg)) then some (k, j) else none))

/-- Is the package a member of a waiting collective? -/
def collWith (o : Op) (q : Nat) : Bool := match o.kind with | .coll _ _ _ _ ranks _ _ => ranks.contains q | _ => false

/-- Fences a package (R346): what is in flight to it ends, its subtrees of multicast lines are missed. -/
def fencePkg (q : Nat) (s : State) : State :=
  if q = s.pkg then s
  else
    let s1 := (s.ops.map (fun o => o.oid)).foldl (fun t i => match findOp t i with
      | some o =>
        if o.finished then t
        else
          let ps := partsTo t o q
          let t1 := if ps.isEmpty then t else partsLost o 7 true ps t
          if collWith o q then modOp i (fun o => { o with accs := o.accs ++ [{ act := 1, lane := 0, va := 0, n := 0, fkind := 7 }] }) t1 else t1
      | none => t) s
    s1.fab.mcWait.foldl (fun t e =>
      match e.2.find? (fun x => bits x 0 9 == q && !bit x 15) with
      | some x =>
        let g := match mfind e.1 t.fab.tags with | some (_, _, line) => line * 128 | none => 0
        mcAnswer e.1 q (bits x 9 6) (nackLog (bits g 36 12) q (bits x 9 6) 2 (bits g 0 36) t)
      | none => t) s1

/-- FAB_MEMBERS (R346): operand a is the register, b its value. -/
def evFabMembers (s : State) : Option State :=
  if 8 ≤ s.ev.a then none
  else
    let old := cget 0 s.ev.a s.fab.members
    let v := s.ev.b % 2 ^ 64
    let s1 := { s with fab := { s.fab with members := cset 0 s.ev.a v s.fab.members } }
    some (((List.range 64).filter (fun i => bit old i && !bit v i)).foldl (fun t i => fencePkg (64 * s.ev.a + i) t) s1)

/-- FAB_MEMBERS (R346). -/
def execFabMembers (s : State) : Host.Outcome State Fault Refusal := eventOut s (evFabMembers s)

/-- The cycle since which a port does not lead to a package, where it does not (R346, R348). -/
def lostSince (s : State) (port q : Nat) : Option Nat :=
  let down := if bit s.fab.ports port then none else some (cget 0 port s.fab.portAt)
  match down, mfind (port * 512 + q) s.fab.cut with
  | some x, some y => some (min x y)
  | some x, none => some x
  | none, y => y

/-- Has no up port reached the package for 1 ms (R346)? -/
def unreached (s : State) (q : Nat) : Bool :=
  (List.range 64).all (fun p => (lostSince s p q).any (fun t => decide (t + usCycles s 1000 ≤ s.cycle)))

/-- PEER_UNREACHABLE (R346): operand a is the package. The fabric manager is notified. -/
def evPeerUnreachable (s : State) : Option State :=
  if 512 ≤ s.ev.a ∨ s.ev.a = s.pkg ∨ bit s.fab.unreach s.ev.a ∨ !unreached s s.ev.a then none
  else some (fencePkg s.ev.a { s with fab := { s.fab with unreach := s.fab.unreach ||| 2 ^ s.ev.a, told := s.fab.told ++ [s.ev.a] } })

/-- PEER_UNREACHABLE (R346). -/
def execPeerUnreachable (s : State) : Host.Outcome State Fault Refusal := eventOut s (evPeerUnreachable s)

/-- Packets that a changed port concerns are queued anew (R351, log 67). -/
def requeue (moves : Packet → Bool) (s : State) : State :=
  queuePackets (s.fab.outbox.filter moves) { s with fab := { s.fab with outbox := s.fab.outbox.filter (fun p => !moves p) } }

/-- NGAUB_PORT_DOWN (R348): operand a is the port; with the flag, the port at the far side of its switch that leads to package b. -/
def evNgaubPortDown (s : State) : Option State :=
  if 64 ≤ s.ev.a ∨ 512 ≤ s.ev.b then none
  else if s.ev.flag then
    if (mfind (s.ev.a * 512 + s.ev.b) s.fab.cut).isSome then none
    else some (requeue (fun p => p.port == s.ev.a && p.dst == s.ev.b) { s with fab := { s.fab with cut := minsert (s.ev.a * 512 + s.ev.b) s.cycle s.fab.cut } })
  else if bit s.fab.ports s.ev.a then
    some (requeue (fun p => p.port == s.ev.a)
      { s with fab := { s.fab with ports := s.fab.ports - 2 ^ s.ev.a, portAt := minsert s.ev.a s.cycle s.fab.portAt } })
  else none

/-- NGAUB_PORT_DOWN (R348). -/
def execNgaubPortDown (s : State) : Host.Outcome State Fault Refusal := eventOut s (evNgaubPortDown s)

/-- Packages that an up port reaches again are fenced no more, and packets that waited for one leave (R346). -/
def reachAgain (s : State) : State :=
  let back := (List.range 512).filter (fun q => bit s.fab.unreach q && !(upPorts s q).isEmpty)
  requeue (fun p => p.port == 64) { s with fab := { s.fab with
    unreach := back.foldl (fun u q => u - 2 ^ q) s.fab.unreach
    told := s.fab.told.filter (fun q => !back.contains q) } }

/-- NGAUB_PORT_UP (R346): operand a is the port; with the flag, the port at the far side of its switch that leads to package b. -/
def evNgaubPortUp (s : State) : Option State :=
  if 64 ≤ s.ev.a ∨ 512 ≤ s.ev.b then none
  else if s.ev.flag then
    if (mfind (s.ev.a * 512 + s.ev.b) s.fab.cut).isNone then none
    else some (reachAgain { s with fab := { s.fab with cut := merase (s.ev.a * 512 + s.ev.b) s.fab.cut } })
  else if bit s.fab.ports s.ev.a then none
  else some (reachAgain { s with fab := { s.fab with ports := s.fab.ports + 2 ^ s.ev.a } })

/-- NGAUB_PORT_UP (R346). -/
def execNgaubPortUp (s : State) : Host.Outcome State Fault Refusal := eventOut s (evNgaubPortUp s)

/-- FAB_CLASS (R352): operand a is the value; reservations above 48 slots are ignored. -/
def evFabClass (s : State) : Option State :=
  let v := s.ev.a % 2 ^ 18
  if 48 < bits v 0 6 + bits v 6 6 + bits v 12 6 then some s else some { s with fab := { s.fab with class_ := v } }

/-- FAB_CLASS (R352). -/
def execFabClass (s : State) : Host.Outcome State Fault Refusal := eventOut s (evFabClass s)

/-- Is a pool address in a region that passes? -/
def inRegions (s : State) (rs : List Nat) (pa : Nat) : Bool :=
  match paKind s pa with
  | .pooled r => rs.contains r
  | _ => false

/-- Does a page table hold a page that passes (R363)? `fuel` bounds its levels. -/
def tableHolds (s : State) (p : Part) (f : Nat → Bool) : Nat → Nat → Bool
  | 0, _ => false
  | fuel + 1, tbl =>
    (List.range (if fuel = 0 then 32 else 512)).any (fun k =>
      let e := memGet s (forwardPa p (tbl + 8 * k)) 8
      bit e 0 && (if bit e 1 then f (bits e 16 36 * 65536) else tableHolds s p f fuel (bits e 8 44 * 256)))

/-- Does a partition hold pages in the regions (R363)? -/
def holdsRegions (s : State) (p : Part) (rs : List Nat) : Bool :=
  bit p.transRoot 0 && tableHolds s p (inRegions s rs) 5 (bits p.transRoot 12 40 * 4096)

/-- Bytes of stores and atomics in flight to the regions reach the pool or not (R364). -/
def landSome (s : State) (rs : List Nat) : State :=
  s.ops.foldl (fun t o => o.accs.foldl (fun t a => ((List.range a.pieces.length).zip a.pieces).foldl (fun t (j, p) =>
    if a.st[j]? != some .todo || !inRegions s rs p.pa then t
    else match o.kind with
      | .store => (partBytes a p).foldl (fun u e =>
          let u1 := { u with fresh := u.fresh + 1 }
          if Config.freeChoice u.fresh % 2 = 0 then u1 else memPut u1 (p.pa + e.1) e.2) t
      | .atomic fn ty _ wide =>
        let t1 := { t with fresh := t.fresh + 1 }
        if Config.freeChoice t.fresh % 2 = 0 then t1
        else (match atomOf fn ty wide p.n (memGet t p.pa p.n) a.data a.cmpv with | some v => memSet t1 p.pa p.n v | none => t1)
      | _ => t) t) t) s

/-- What copies and fills in flight to the regions have written there by then (R287, R364). -/
def haulSome (s : State) (rs : List Nat) : State :=
  s.ops.foldl (fun t o => match o.kind, getBlock s o.bid with
    | .haul _ _ _ _ _, some b =>
      if o.finished || engineHeld s o || (redOf o).1 != 0 then t
      else
        let pl := (planOf s o).1
        let us := (pl.src.zip pl.dst).filter (fun e => match e.2 with | .mem p => inRegions s rs p.pa | _ => false)
        let w := copyWrites t o b { src := us.map (fun e => e.1), dst := us.map (fun e => e.2) }
        let k := keepSome w.2 w.1
        k.1.foldl (fun u e => match e.1 with | .mem p => memPut u p.pa e.2 | _ => u) k.2
    | _, _ => t) s

/-- What L2 held dirty is lost (R364): the bytes of those lines are what the pool happens to hold, and how many were dirty is
open (log 25). -/
def dirtyLost (s : State) (rs : List Nat) : State :=
  let ls := (s.pool.dirty.map (fun e => e.1)).filter (fun l => inRegions s rs (l * 128))
  let s1 := ls.foldl (fun t l => (List.range 128).foldl (fun u i => memPut { u with fresh := u.fresh + 1 } (l * 128 + i) (Config.freeByte u.fresh).toNat) t) s
  let n := Config.freeChoice s1.fresh % (ls.length + 1)
  { s1 with fresh := s1.fresh + 1
            pool := { s1.pool with dirty := s1.pool.dirty.filter (fun e => !inRegions s rs (e.1 * 128))
                                   fstat := putBytes s1.pool.fstat 4 4 (min (2 ^ 32 - 1) (bits s1.pool.fstat 32 32 + n)) } }

/-- Regions stop being ONLINE (R213, R363, R364): what is in flight to them lands or not, and no cache holds their lines. -/
def dropRegions (s : State) (rs : List Nat) : State :=
  let hit := fun (line : Nat) => inRegions s rs (line * 128)
  let s1 := spoilFills (dirtyLost (haulSome (landSome s rs) rs) rs) hit none
  drayClear { s1 with
    l1 := s1.l1.filter (fun e => !hit (e.1 % 2 ^ 45))
    il := s1.il.filter (fun e => !hit (e.1 % 2 ^ 45))
    updates := s1.updates.filter (fun u => !hit (lineOf u.pa))
    past := s1.past.filter (fun e => !inRegions s rs e.1)
    dir := s1.dir.filter (fun e => !hit e.1) } (fun _ line => hit line)

/-- A pool link is lost (R363): in one step every ONLINE region on it is FAULTED and no cache holds its lines. -/
def linkLost (link : Nat) (s : State) : State :=
  let rs := (List.range (bits s.pool.rtab 0 20)).filter (fun r => regionState s r == 1 && bits (regionEntry s r) 0 2 == link)
  let s1 := dropRegions s rs
  let up := s1.pool.fstat
  let s2 := { s1 with pool := { s1.pool with
      entries := rs.foldl (fun m r => minsert r (regionEntry s r + 4) m) s1.pool.entries
      fstat := (if bit up link then up - 2 ^ link else up) ||| 2 ^ (4 + link) } }
  (s.parts.filter (fun e => holdsRegions s e.2 rs)).foldl (fun t e => partIrq e.1 1 t) s2

/-- The loss of link a, where it is trained. -/
def onLinkLoss (s : State) : Option State := if s.ev.a < 4 ∧ bit s.pool.fstat s.ev.a then some (linkLost s.ev.a s) else none

/-- POOL_LINK_LOST (R363): operand a is the link. -/
def execPoolLinkLost (s : State) : Host.Outcome State Fault Refusal := eventOut s (onLinkLoss s)

/-- POOL_LINK_DOWN_TIMEOUT (R363): operand a is the link. -/
def execPoolLinkDownTimeout (s : State) : Host.Outcome State Fault Refusal := eventOut s (onLinkLoss s)

/-- Can a request stand on a pool link: does it serve an ONLINE region? Requests are not only those of State.ops: fetches, walks,
engines and jobs send some that no step holds open, so that one has waited is the event's own word (log 80). -/
def linkServes (s : State) (link : Nat) : Bool :=
  (List.range (bits s.pool.rtab 0 20)).any (fun r => regionState s r == 1 && bits (regionEntry s r) 0 2 == link)

/-- POOL_REQUEST_TIMEOUT (R363): operand a is the link. -/
def execPoolRequestTimeout (s : State) : Host.Outcome State Fault Refusal := eventOut s (if linkServes s s.ev.a then onLinkLoss s else none)

/-- POOL_LINK_TRAINED (R361, R366): operand a is the link; the flag says that it trained only at CXL 2.0 or without
back-invalidation, and is held down. -/
def evPoolLinkTrained (s : State) : Option State :=
  if 4 ≤ s.ev.a ∨ bit s.pool.fstat s.ev.a then none
  else
    let clear := fun (v b : Nat) => if bit v b then v - 2 ^ b else v
    let v := s.pool.fstat
    some { s with pool := { s.pool with fstat := if s.ev.flag then v ||| 2 ^ (8 + s.ev.a) else clear v (8 + s.ev.a) ||| 2 ^ s.ev.a } }

/-- POOL_LINK_TRAINED (R361). -/
def execPoolLinkTrained (s : State) : Host.Outcome State Fault Refusal := eventOut s (evPoolLinkTrained s)

/-- POOL_RSYNC (R213, R362, R365): operand a is the region whose table entry takes effect. One that leaves ONLINE loses its copies. -/
def evPoolRsync (s : State) : Option State :=
  let r := s.ev.a
  if bits s.pool.rtab 0 20 ≤ r then some s
  else
    let s1 := takeRegion r s
    some (if regionState s r = 1 ∧ regionState s1 r ≠ 1 then
      let t := dropRegions { s1 with pool := s.pool } [r]
      { t with pool := { t.pool with entries := s1.pool.entries } }
    else s1)

/-- POOL_RSYNC (R362). -/
def execPoolRsync (s : State) : Host.Outcome State Fault Refusal := eventOut s (evPoolRsync s)

/-- POOL_BACK_INVALIDATE (R213): operand a is an address of the 64-byte granule; with the flag, another agent of the pool then
writes the granule, whose bytes are b. -/
def evPoolBackInvalidate (s : State) : Option State :=
  let g := s.ev.a / 64 * 64
  match paKind s g with
  | .pooled _ =>
    let line := lineOf g
    let s0 := poolNote s g
    let s1 := spoilFills (drayClear (l1Drop (recallOwner s0 line none) line (fun _ => true)) (fun _ l => l == line)) (fun l => l == line) none
    let s2 := { s1 with pool := { s1.pool with dirty := merase line s1.pool.dirty } }
    some (if s.ev.flag then forgetPast (memSet s2 g 64 s.ev.b) ((List.range 64).map (fun i => g + i)) else s2)
  | _ => none

/-- POOL_BACK_INVALIDATE (R213). -/
def execPoolBackInvalidate (s : State) : Host.Outcome State Fault Refusal := eventOut s (evPoolBackInvalidate s)

/-- Puts the measured offset, the lock and the served port into PTP_STAT (R374). -/
def ptpStat (s : State) (locked : Bool) (port steps : Nat) (off : Int) : State :=
  { s with ptp := { s.ptp with stat := (if locked then 1 else 0) + port * 2 + steps * 256 + wrap 32 off * 2 ^ 32 } }

/-- A message leaves a port: an event message is timestamped on egress (R373). -/
def ptpSend (m : PtpMsg) (s : State) : State :=
  { s with ptp := { s.ptp with out := s.ptp.out ++ [m]
                               exch := { s.ptp.exch with stamps := minsert (m.port * 2 + 1) s.ptp.ns s.ptp.exch.stamps } } }

/-- An offset has been measured (R374, R376): beyond 1 µs it is removed by one step of the time, a smaller one by adjusting the
frequency (`slewBy`). -/
def ptpMeasure (s : State) (off : Int) : State :=
  let steps := bits s.ptp.stat 8 8
  let port := bits s.ptp.cfg 1 3
  let good := if off.natAbs ≤ 20 then min 16 (s.ptp.good + 1) else 0
  if 1000 < off.natAbs then
    ptpStat { s with ptp := { s.ptp with
      ns := ((s.ptp.ns : Int) - off).toNat, good := good, servo := { draws := s.ptp.servo.draws }
      exch := { s.ptp.exch with syncAt := none, origin := none, reqAt := none, respAt := none } } } (good == 16) port (min 255 (steps + 1)) off
  else ptpStat { s with ptp := { s.ptp with good := good, servo := { slew := -off, draws := s.ptp.servo.draws } } } (good == 16) port steps off

/-- The Sync that came at `at_` left the master at `origin`, both in nanoseconds (R373): under peer-to-peer the delay of the link
is known; end to end it is measured by a request of the package's. -/
def ptpSynced (s : State) (at_ : Nat) (origin : Int) : State :=
  let c := s.ptp.cfg
  let s1 := if bit c 4 then ptpMeasure { s with ptp := { s.ptp with exch := { s.ptp.exch with syncAt := none } } } (at_ - origin - s.ptp.exch.delay)
    else { s with ptp := { s.ptp with exch := { s.ptp.exch with origin := some origin } } }
  ptpSend { port := bits c 1 3, domain := bits c 5 8, kind := if bit c 4 then 4 else 2, time := s1.ptp.ns }
    { s1 with ptp := { s1.ptp with exch := { s1.ptp.exch with reqAt := some s1.ptp.ns } } }

/-- The delay of the link, from a request that left at `t1` and came at `t2`, and an answer that left at `t3` and came at `t4`,
with the corrections of both (R373). -/
def ptpDelay (t1 t2 t3 t4 corr : Int) (s : State) : State :=
  { s with ptp := { s.ptp with exch := { s.ptp.exch with delay := ((t4 - t1) - (t3 - t2) - corr) / 2, reqAt := none, respAt := none } } }

/-- A message of the master that the package follows, or of the peer on its port (R373, log 6). -/
def ptpFollow (s : State) (m : PtpMsg) : State :=
  let x := s.ptp.exch
  match m.kind with
  | 0 =>
    let s1 := { s with ptp := { s.ptp with exch := { x with syncAt := some (s.ptp.ns, m.corr), origin := none } } }
    if m.two then s1 else ptpSynced s1 s.ptp.ns (m.time + m.corr)
  | 1 => match x.syncAt, x.origin with
    | some (t2, c), none => ptpSynced s t2 (m.time + c + m.corr)
    | _, _ => s
  | 3 => match x.syncAt, x.origin, x.reqAt with
    | some (t2, _), some t1, some t3 =>
      let d := (((t2 : Int) - t1) + (m.time - t3) - m.corr) / 2
      ptpMeasure { s with ptp := { s.ptp with exch := { x with syncAt := none, origin := none, reqAt := none } } } (t2 - t1 - d)
    | _, _, _ => s
  | 5 => match x.reqAt with
    | some t1 =>
      if !bit s.ptp.cfg 4 then s
      else if m.two then { s with ptp := { s.ptp with exch := { x with respAt := some (s.ptp.ns, m.time + m.corr) } } }
      else ptpDelay t1 m.time m.time2 s.ptp.ns m.corr s
    | none => s
  | 6 => match x.reqAt, x.respAt with
    | some t1, some (t4, t2) => ptpDelay t1 t2 m.time2 t4 m.corr s
    | _, _ => s
  | _ => s

/-- PTP_EVENT_MESSAGE (R373 to R376): the message comes at its port. Every port timestamps event messages and under peer-to-peer
answers requests for the delay; the clock follows the messages of its domain on the port that PTP_CFG names. -/
def evPtpEventMessage (s : State) : Option State :=
  let m := s.ev.t
  let c := s.ptp.cfg
  if 8 ≤ m.port then none
  else
    let s1 := if [0, 2, 4, 5].contains m.kind then
        { s with ptp := { s.ptp with exch := { s.ptp.exch with stamps := minsert (m.port * 2) s.ptp.ns s.ptp.exch.stamps } } }
      else s
    if m.kind = 4 then
      some (if bit c 4 then ptpSend { port := m.port, domain := m.domain, kind := 5, time := s.ptp.ns, time2 := s.ptp.ns, corr := m.corr } s1 else s1)
    else some (if bit c 0 && m.port == bits c 1 3 && m.domain == bits c 5 8 then ptpFollow s1 m else s1)

/-- PTP_EVENT_MESSAGE (R373). -/
def execPtpEventMessage (s : State) : Host.Outcome State Fault Refusal := eventOut s (evPtpEventMessage s)

/-- PTP_SYNC_LOSS (R376): three Sync intervals were missed. The clock holds its last frequency. -/
def evPtpSyncLoss (s : State) : Option State :=
  if bit s.ptp.cfg 0 then some { s with ptp := { s.ptp with stat := s.ptp.stat / 2 * 2, good := 0, servo := { s.ptp.servo with held := true } } } else none

/-- PTP_SYNC_LOSS (R376). -/
def execPtpSyncLoss (s : State) : Host.Outcome State Fault Refusal := eventOut s (evPtpSyncLoss s)

/-- PTP_CFG (R375): operand a is the value. What was measured on another port or by another mechanism serves no more, and with EN
clear the time runs free. -/
def evPtpCfg (s : State) : Option State :=
  let v := s.ev.a % 2 ^ 13
  let lose := v / 2 != s.ptp.cfg / 2 || !bit v 0
  let st := s.ptp.stat / 16 * 16 + bits v 1 3 * 2 + (if lose then 0 else s.ptp.stat % 2)
  some { s with ptp := { s.ptp with
    cfg := v, stat := st, good := if lose then 0 else s.ptp.good
    servo := if bit v 0 then s.ptp.servo else { draws := s.ptp.servo.draws }
    exch := if lose then { stamps := s.ptp.exch.stamps } else s.ptp.exch } }

/-- PTP_CFG (R375). -/
def execPtpCfg (s : State) : Host.Outcome State Fault Refusal := eventOut s (evPtpCfg s)

end Sys2Proof.Machine
end

