-- ==== Sys2Proof/Machine/Issue.lean ====
section
/-! DEFINITION. Which group issues and which of its lanes (spec/01 R11, R12, R26, R27; spec/05 R97; spec/07 R130; spec/09
R169), the fetch of an instruction (spec/03 R58, R73) and the state a program is placed in. -/

namespace Sys2Proof.Machine

/-- Where a word is placed to be fetched next (log 11): one group of one lane on core 0 in partition 0, at user level,
its code in the page at address 0. -/
def placedGroup (s : State) : Group :=
  { gid := 0, bid := 0, num := 0, upc := [], live := 1, k := 24, role := 7, lastIssue := s.idle + cget 0 0 s.slotClk }

def placedBlock : Block := { bid := 0, grid := 0, lin := 0, core := 0, groups := [0], ntiles := 8, padSize := 65536 }

def placedGrid : Grid :=
  { gid := 0, part := 0, gx := 1, gy := 1, gz := 1, lanes := 1, entry := 0, params := [], regs := 24, regsMax := 24
    uregs := 0, ntiles := 8, padB := 65536, roles := 7, seed := 0, cls := 0, coop := false, depth := 0, next := 1, resident := 1 }

/-- An instruction as a fetch gives it. -/
structure Fetched where
  instr : Instr
  raw : Raw
deriving DecidableEq, Repr

/-- Fetches and decodes the instruction at `pc` (R58, R73). -/
def fetchAt (s : State) (g : Group) (pc : Nat) : Except XFault Fetched × State :=
  let w := fetchBytes 1 s g pc
  match w.1 with
  | .error e => (.error e, w.2)
  | .ok b0 =>
    let n := lenBytes (b0.getD 0 0)
    let rest := fetchBytes (n / 4 - 1) w.2 g ((pc + 4) % 2 ^ 64)
    match rest.1 with
    | .error e => (.error e, rest.2)
    | .ok bs =>
      let i := decodeNum (ofBytes (b0 ++ bs))
      match rawInstr i with
      | some r => (.ok { instr := i, raw := r }, rest.2)
      | none => (.ok { instr := i, raw := { op := 255 } }, rest.2)

/-- Is tile `t` of block `bid` the target of an outstanding matrix write (R11)? -/
def tilePending (s : State) (bid t : Nat) : Bool :=
  s.ops.any (fun o => o.bid == bid &&
    match o.kind with
    | .mloop u _ _ _ _ _ => u == t
    | .tileOp kind u _ _ _ _ _ _ _ => (kind == 0 || kind == 2 || kind == 3) && u == t
    | _ => false)

/-- The lane in which lane `l` reads a register of a use, where it reads one (R11, R55). -/
def useLane (g : Group) (u : RegUse) (l : Nat) : Option Nat :=
  if isV u.code then routeLane u.route l (getReg g 924 0) else some 0

/-- Is the register, or one that the use names after it, pending for lane `l` itself, or where its route makes it read (R11), or
s156, through which BCAST reads (R15, R46)? -/
def usePending (s : State) (g : Group) (u : RegUse) (l : Nat) : Bool :=
  let pends := fun (m : Nat) => (List.range u.n).any (fun k => getPend g (u.code + k) m)
  if isT u.code then tilePending s g.bid (u.code - 936)
  else if u.route = 15 ∧ getPend g 924 0 = true then true
  else pends (if isV u.code then l else 0) || ((useLane g u l).map pends).getD false

/-- A source register, or one named after it, pending where lane `l` reads it. -/
def srcPending (x : Ctx) (code route l : Nat) (sl : Slot) : Bool :=
  decide (code < 947) && usePending x.s x.g { code := code, n := slotRegs code sl, route := route, dst := false } l

/-- The further registers that a cross-lane instruction reads for lane `l` (R169); the mask of `x` is the lanes at its
address. -/
def crossPending (x : Ctx) (l : Nat) : Bool :=
  match x.r.op with
  | 0x43 => (match shflLane x.r.fn l ((srcB x l).1 % 2 ^ 32) with
    | some m => srcPending x x.r.a 0 m x.sl.a
    | none => false)
  | 0x41 =>
    let L := blkLen (bits (srcB x x.lo).1 4 2)
    decide (l / L < 96 / L) && (List.range L).any (fun k => srcPending x x.r.a x.r.ra (l / L * L + k) x.sl.a)
  | 0x44 | 0x45 | 0x46 | 0x47 | 0x48 =>
    x.lanes.any (fun m => (x.r.pen && isV x.r.pred && getPend x.g x.r.pred m) || srcPending x x.r.b x.r.rb m x.sl.b)
  | _ => false

/-- Does the instruction wait while a lane at or below its address is held (R97, R130, R169)? -/
def waitsForHeld (r : Raw) : Bool :=
  r.op == 0x65 || r.op == 0x41 || (0x43 ≤ r.op && r.op ≤ 0x48) ||
  (r.rnd == 5 && ((0x20 ≤ r.op && r.op ≤ 0x48) || r.op == 0xAA || r.op == 0xAD))

/-- The issue that an instruction would be for the lanes. -/
def issueAt (s : State) (g : Group) (f : Fetched) (pc : Nat) (lanes : List Nat) : Ctx :=
  let b := (mfind g.bid s.blocks).getD placedBlock
  { s := s, g := g, b := b, gr := (mfind b.grid s.grids).getD placedGrid, r := f.raw, i := (opInfo f.raw.op).getD (ctl false {})
    mask := maskOf lanes, pc := pc }

/-- A per-lane special source read through BCAST needs s156 (R15, R46). -/
def laneIdPending (x : Ctx) : Bool :=
  getPend x.g 924 0 && ((isPerLane x.r.a && x.r.ra == 15) || (isPerLane x.r.b && x.r.rb == 15) || (isPerLane x.r.c && x.r.rc == 15))

/-- Is lane `l` held at the instruction (R11, R169)? -/
def heldAt (s : State) (g : Group) (f : Fetched) (peers : List Nat) (l : Nat) : Bool :=
  let x := issueAt s g f 0 peers
  !(isIllegal f.raw) && ((regUses f.raw x.sl).any (fun u => usePending s g u l) || laneIdPending x || crossPending x l)

/-- The different program counters of the candidate lanes, with their lanes, ascending. -/
def pcGroups (g : Group) : List (Nat × List Nat) :=
  (lanesOf (candidates g)).foldl (fun m l => minsert (getPc g l) (((mfind (getPc g l) m).getD []) ++ [l]) m) []

/-- The register that CSRW writes where its effect runs on as an operation of the SV path: TLB_INV and LS_BANKCTL (R421). -/
def csrRuns (x : Ctx) : Bool := x.r.op == 0xE1 && x.g.service && ((uB x).1 % 2 ^ 32 == 0x80 || (uB x).1 % 2 ^ 32 == 0x50)

/-- The path whose counter an issue of the instruction raises (R238, R421), where it raises one. -/
def countPath (x : Ctx) : Option Path :=
  let r := x.r
  match r.op with
  | 0x73 => some .sv
  | 0x87 => some (if r.fn < 8 then .ld else .st)
  | 0xE1 => if csrRuns x then some .sv else none
  | 0x80 | 0x82 | 0x84 | 0x8B => some .ld
  | 0x81 | 0x83 | 0x85 => some .st
  | 0x86 => some (if r.fn = 2 then .st else .ld)
  | 0x8A | 0x8C | 0x8D => some .sv
  | 0xA0 | 0xA1 | 0xA2 => some .hl
  | 0xA3 | 0xA4 => some .nt
  | 0xA6 | 0xA7 => some .ga
  | 0xA8 | 0xA9 | 0xAA | 0xAB | 0xAC | 0xAD => some .mx
  | 0xC0 | 0xC1 => some .ry
  | 0xC2 | 0xC3 | 0xC4 | 0xC5 | 0xC6 | 0xC7 => some .nt
  | _ => none

/-- What a group's next issue is: its address, its lanes, and what the fetch gave. -/
structure Pick where
  pc : Nat
  lanes : List Nat
  got : Except XFault Fetched
  st : State

/-- The first address with a lane that is not held (R12); `low` says that a lane below it is held. -/
def pickPc (s : State) (g : Group) : List (Nat × List Nat) → Bool → Option Pick
  | [], _ => none
  | (pc, ls) :: rest, low =>
    let f := fetchAt s g pc
    match f.1 with
    | .error e => some { pc := pc, lanes := ls, got := .error e, st := f.2 }
    | .ok w =>
      let free := ls.filter (fun l => !heldAt s g w ls l)
      if free.isEmpty then pickPc s g rest true
      else if waitsForHeld w.raw && (low || decide (free.length < ls.length)) then none
      else some { pc := pc, lanes := free, got := .ok w, st := f.2 }

/-- Is what the group waits for already so (R138, R144, R147)? The other waits end by events of their own. -/
def waitOver (s : State) (g : Group) : Bool :=
  match g.wait with
  | .none => true
  | .waitc p thr => decide (getCnt g (pathOf p) ≤ thr)
  | .abwait off t => (match getBlock s g.bid with | some b => !padStalls s b off 16 && abPassed t (abOf (padGet b off 16)) | none => false)
  | .stgw full off n => (match getBlock s g.bid with | some b => !padStalls s b off 8 && stgPasses full (padGet b off 8) n | none => false)
  | _ => false

/-- Is the group resident, so that it may issue (R26, R38)? -/
def mayIssue (s : State) (g : Group) : Bool :=
  !g.retired && !s.boot.powerOff &&
  (match mfind g.bid s.blocks with
   | some b => b.place == .resident &&
       (match mfind b.grid s.grids with
        | some gr => !(getPart s gr.part).fatal
        | none => false)
   | none => false) &&
  waitOver s g

/-- Does the pad object word that the instruction reaches lie in a bank that is waking (R182)? -/
def objectStalls (x : Ctx) : Bool :=
  let n : Nat := if x.r.op = 0x71 ∨ x.r.op = 0x72 then 8 else 16
  let off : Nat := (uB x).1 % 2 ^ 32
  decide (0x6D ≤ x.r.op ∧ x.r.op ≤ 0x72) && padIn x.b (off : Int) n && padStalls x.s x.b off n

/-- Does an XFENCE hold what the instruction reads or writes at its issue: SPAWN's record and the management registers on the SV
path, CMPJ's record on the NT path (R238, R240)? -/
def fencedAtIssue (x : Ctx) : Bool :=
  let held := fun (p : Path) => !xfenceOk x.s (opOf x p .done)
  ((x.r.op == 0x73 || ((x.r.op == 0xE0 || x.r.op == 0xE1) && x.g.service)) && held .sv) || (x.r.op == 0xC6 && held .nt)

/-- Is the instruction held back for now: an operation whose counter stands at 255 (R138), a release until the group's accesses
are complete (R231, log 8), an HTRIG at a full queue (R297), a CSRW of TLB_INV while an invalidation is incomplete (R421), a pad
object in a waking bank (R182), a read at issue behind an XFENCE (R240)? -/
def issueHolds (x : Ctx) : Bool :=
  let r := x.r
  if isIllegal r then false
  else if ((countPath x).map (fun c => decide (255 ≤ getCnt x.g c))).getD false then true
  else if x.inReplay then false
  else
    let relOp := r.op == 0x6E || r.op == 0x72 || r.op == 0x73 || (r.op == 0x6C && r.order == 3)
    (relOp && releaseWaits x.s x.g.gid (if r.op = 0x6C then r.scope else if r.op = 0x73 then 4 else 1)) || (r.op == 0xA5 && decide (16 ≤ x.g.trigq.length)) ||
    (csrRuns x && (uB x).1 % 2 ^ 32 == 0x80 && !(getPart x.s x.part).tlbInv.isEmpty) || objectStalls x || fencedAtIssue x

/-- The group's next issue, where it is ready (R26). -/
def nextIssue (s : State) (g : Group) : Option Pick :=
  if !mayIssue s g then none
  else match pickPc s g (pcGroups g) false with
    | none => none
    | some p =>
      match p.got with
      | .ok w => if issueHolds (issueAt s g w p.pc p.lanes) then none else some p
      | .error _ => some p

/-- The group that issues no longer waits; the end of an ABWAIT or STGW is an acquire (R145, R147). -/
def endWait (gid : Nat) (s : State) : State :=
  let s1 := match (mfind gid s.groups).map (fun g => g.wait) with
    | some (.abwait off _) => tookWord s gid (((mfind gid s.groups).map (fun g => g.bid)).getD 0) off 16
    | some (.stgw _ off _) => tookWord s gid (((mfind gid s.groups).map (fun g => g.bid)).getD 0) off 8
    | _ => s
  modGroup gid (fun g => { g with wait := .none }) s1

/-- The class of R26's second choice. -/
def classOf (p : Pick) : Nat :=
  match p.got with
  | .ok w => (match (opInfo w.raw.op).map (fun i => roleBit w.raw i) with
    | some 4 => 0
    | some 2 => 1
    | _ => 2)
  | .error _ => 2

/-- R26's order of two ready groups, as numbers compared in turn. -/
def rankOf (s : State) (g : Group) (p : Pick) : List Nat :=
  let waited := slotTime s g - g.lastIssue
  [if 32 ≤ waited then 0 else 1, if 32 ≤ waited then g.lastIssue else 0, classOf p, g.lastIssue, g.gslot, g.gid]

/-- Lexicographic order of two ranks. -/
def rankLt : List Nat → List Nat → Bool
  | x :: xs, y :: ys => decide (x < y) || (x == y && rankLt xs ys)
  | _, _ => false

/-- The ready groups that stand in their active sets, with their next issues (R26, R27). -/
def readyGroups (s : State) : List (Group × Pick) :=
  s.groups.filterMap (fun e => match mfind e.1 s.groups with
    | some g => if g.active && g.gid == e.1 then (nextIssue s g).map (fun p => (g, p)) else none
    | none => none)

/-- The first of some ready groups in R26's order. -/
def firstReady (s : State) (l : List (Group × Pick)) : Option (Group × Pick) :=
  (l.foldl (fun (m : Option (List Nat × Group × Pick)) e =>
    let r := rankOf s e.1 e.2
    match m with
    | some w => if rankLt r w.1 then some (r, e) else some w
    | none => some (r, e)) none).map (fun w => w.2)

/-- Do two groups share an issue slot? -/
def sameSlot (s : State) (g h : Group) : Bool := coreOf s g == coreOf s h && g.slot == h.slot

/-- The group that issues next: the first in R26's order in its slot, whichever slot begins (log 1). -/
def nextGroup (s : State) : Option Nat := (firstReady s (readyGroups s)).map (fun e => e.1.gid)

/-- The issue that group `gid` begins now, where it is its slot's choice (R26). -/
def chosenIssue (s : State) (ready : List (Group × Pick)) (gid : Nat) : Option (Group × Pick) :=
  (mfind gid s.groups).bind (fun g => (firstReady s (ready.filter (fun e => sameSlot s e.1 g))).filter (fun e => e.1.gid == gid))

/-- While a group issues for `n` cycles, the slots that have nothing ready let as many pass (R26, log 5). -/
def restSlots (s : State) (ready : List (Group × Pick)) (n : Nat) (t : State) : State :=
  let key := fun (g : Group) => coreOf s g * 4 + g.slot
  let busy := ready.map (fun e => key e.1)
  let rest := ((s.groups.filter (fun e => !e.2.retired)).map (fun e => key e.2)).eraseDups.filter (fun k => !busy.contains k)
  { t with slotClk := rest.foldl (fun m k => cset 0 k (cget 0 k m + n) m) t.slotClk }

/-- Takes the fetch fault for the lanes at the address (R73; the fetch has reported a data error), or the address breakpoint that stands
before it (R412). -/
def fetchTrap (s : State) (g : Group) (pc : Nat) (lanes : List Nat) (e : XFault) : State :=
  match mfind g.bid s.blocks with
  | none => s
  | some b =>
    match mfind b.grid s.grids with
    | none => s
    | some gr =>
      let x : Ctx := { s := s, g := g, b := b, gr := gr, r := { op := 0x60 }, i := ctl false {}, mask := maskOf lanes, pc := pc }
      match addrBreak x with
      | some n => trapNow x { cause := .addrBreak, lanes := x.mask, code := n }
      | none =>
        trapNow x { cause := .fetch, lanes := x.mask, addr := e.2, fkind := e.1 }

/-- Stores the bytes of a word at the placed group's program counter. -/
def placeWord (s : State) (nbits w : Nat) : State :=
  let s1 := memSet s 0 (max 20 (nbits / 8)) (w % 2 ^ nbits)
  { s1 with
    groups := minsert 0 (placedGroup s) (s1.groups.map (fun e => if (coreOf s e.2 == 0 || e.2.bid == 0) && e.2.slot == 0 then (e.1, { e.2 with active := false }) else e))
    blocks := minsert 0 placedBlock s1.blocks
    grids := minsert 0 placedGrid s1.grids
    parts := minsert 0 { getPart s1 0 with present := true, chgrps := (getPart s1 0).chgrps ||| 1, transRoot := (getPart s1 0).transRoot ||| 1, fatal := false } s1.parts
    tlb := { core := 0, part := 0, vpage := 0, log := 16, leaf := 0x7F, pte := 0 } ::
      s1.tlb.filter (fun e => !(e.core == 0 && e.part == 0 && e.vpage == 0))
    lineErr := merase 0 s1.lineErr
    hostHalf := merase 0 s1.hostHalf
    il := merase 0 s1.il
    tags := merase 0 s1.tags
    agenda := [.issue 0] }

end Sys2Proof.Machine
end

