-- ==== Sys2Proof/Machine/Matrix.lean ====
section
/-! DEFINITION. The matrix class (spec/17 R301 to R310): what each instruction reads and checks at issue, and what the engine
computes. -/

namespace Sys2Proof.Machine

/-- The first extent of MLOOP outside the pad (R304). -/
def mloopOut (b : Block) (fa fb : FmtBlk) (st : StepRec) : Option Int :=
  (((List.range st.ksteps).flatMap (mloopExtents fa fb st)).find? (fun e => !padIn b (e.1 : Int) e.2)).map (fun e => (e.1 : Int))

/-- MLOOP (R302). -/
def bodyMloop (x : Ctx) : Res :=
  let a := srcA x x.lo
  let b := srcB x x.lo
  let c := srcC x x.lo
  engineOnce x (a.2 || b.2 || c.2) (
    match (fbBad a.1).or (fbBad b.1) with
    | some t => trapAll x t
    | none =>
      let st := stepOf c.1
      if st.mbz then trapAll x .reserved
      else if (fbOf a.1).blk != (fbOf b.1).blk then trapAll x .operandForm
      else match mloopOut x.b (fbOf a.1) (fbOf b.1) st with
        | some o => padTrap x o
        | none => .ok (addOp x.s (opOf x .mx (.mloop (x.r.d - 936) a.1 b.1 c.1 0 false))) {})

/-- MZERO (R308). -/
def bodyMzero (x : Ctx) : Res :=
  engineOnce x false (.ok (addOp x.s (opOf x .mx (.tileOp 0 (x.r.d - 936) 0 0 0 0 0 false []))) {})

/-- The F32 bits of a tile element read from a register or pad element of type `ty` (R308, R309). -/
def widenElem (ty v : Nat) : Nat := if ty = 4 then v % 2 ^ 32 else roundTo (fval (fmtOf ty) (v % 2 ^ 16)) .f32 .rne false 0

/-- An element of F32 rounded to `ty`; F32 keeps its bits. -/
def narrowElem (ty rnd : Nat) (sat : Bool) (sr v : Nat) : Nat :=
  if ty = 4 then v else roundTo (fval .f32 v) (fmtOf ty) (rndOf rnd) sat sr

/-- A per-lane tile instruction (R309): `k` on the enabled lanes and the first column. One that replay skips advances srctr where it
rounds with SR, so that the SR issues after it get the bits of their first attempts (R96, R98), although R282 lets a skipped instruction
change nothing but program counters (log 77). -/
def tileLanes (x : Ctx) (bad : Nat → Bool) (k : List Nat → Nat → Res) : Res :=
  let c := uB x
  let ls := enLanes x
  let pz := ppLanes x ++ ls.filter bad
  if !pz.isEmpty then trapLanes .poison pz
  else if ls.isEmpty then .ok x.s { sr := x.isSR }
  else if c.2 then trapAll x .poison
  else if x.inReplay then .ok x.s { sr := x.isSR }
  else if 96 < c.1 % 2 ^ 32 + 2 ^ x.r.fn then trapAll x .operandForm
  else k ls (c.1 % 2 ^ 32)

/-- MTRD (R309). -/
def bodyMtrd (x : Ctx) : Res :=
  tileLanes x (fun _ => false) (fun ls c0 =>
    let g := ls.foldl (fun g l => pendReg x.r.d (2 ^ x.r.fn) l g) x.g
    .ok (addOp (setGroup g x.s) (opOf x .mx (.tileOp 1 (x.r.a - 936) c0 x.r.d x.r.fn x.r.ty x.r.rnd x.r.sat (ls.map (fun l => (l, 0)))))) { sr := x.isSR })

/-- MTWR (R309). -/
def bodyMtwr (x : Ctx) : Res :=
  let n := 2 ^ x.r.fn
  tileLanes x (fun l => (List.range n).any (fun k => (readSrc x tyU32 (x.r.a + k) x.r.ra l).2)) (fun ls c0 =>
    let vals := ls.flatMap (fun l => (List.range n).map (fun k => (l * 96 + c0 + k, widenElem x.r.ty (readSrc x tyU32 (x.r.a + k) x.r.ra l).1)))
    .ok (addOp x.s (opOf x .mx (.tileOp 2 (x.r.d - 936) 0 0 0 0 0 false vals))) {})

/-- MLDT and MSTT (R308). -/
def tilePad (x : Ctx) (kind : Nat) : Res :=
  let o := uB x
  let st := uC x
  let w : Nat := if x.r.ty = 4 then 4 else 2
  let res := engineOnce x (o.2 || st.2) (
    let off := o.1 % 2 ^ 32
    let str : Nat := st.1 % 2 ^ 32
    if str % w != 0 || str < 96 * w then trapAll x .operandForm
    else match endsOut x.b { pad := true, addr := off, stride := (str : Int), rows := 96, n := 96 * w } with
      | some p => padTrap x p
      | none => .ok (addOp x.s (opOf x .mx (.tileOp kind (x.r.d - 936) off str 0 x.r.ty x.r.rnd x.r.sat []))) {})
  match res with
  | .ok s out => .ok s { out with sr := x.isSR }
  | r => r

def bodyMldt (x : Ctx) : Res := tilePad x 3
def bodyMstt (x : Ctx) : Res := tilePad x 4

/-- A tile element's cell (R301). -/
def tileKey (t i j : Nat) : Nat := t * 9216 + i * 96 + j
def tileGet (b : Block) (t i j : Nat) : Nat := (cget 0 (tileKey t i j) b.tiles).toNat
def tilePut (t i j v : Nat) (b : Block) : Block := { b with tiles := cset 0 (tileKey t i j) (BitVec.ofNat 32 v) b.tiles }

/-- A sparsity record's field, and whether the record is a data error (R305). -/
def spField (w k : Nat) : Nat := bits w (2 * k) 2
def spBad (w : Nat) : Bool := bits w 240 16 != 0 || (List.range 60).any (fun g => decide (spField w (2 * g + 1) ≤ spField w (2 * g)))

/-- A plane of 120 stored elements spread over 240 positions (R305). -/
def spread (rec w : Nat) : Nat :=
  (List.range 120).foldl (fun a k => if bit w k then a ||| 2 ^ (4 * (k / 2) + spField rec k) else a) 0

/-- A pad word and its error: 0 none, 2 an uncorrectable byte, 8 a failed check. -/
def padWordErr (b : Block) (at_ n : Nat) (bad : Nat → Bool) : Nat × Nat :=
  let v := padGet b at_ n
  (v, if padBad b at_ n then 2 else if bad v then 8 else 0)

/-- One row of an operand in one step: its planes, the masks of positions whose word is in error, and the errors found. -/
structure RowIn where
  planes : List Nat
  bad : Nat
  errs : List Nat
  scales : List (Nat × Bool)
deriving DecidableEq, Repr

/-- The scale bytes of a row; an uncorrectable one makes its block NaN. -/
def rowScales (b : Block) (at_ nb : Nat) : List (Nat × Bool) := (List.range nb).map (fun j => (padGet b (at_ + j) 1, padBad b (at_ + j) 1))

def rowA (b : Block) (f : FmtBlk) (st : StepRec) (c i : Nat) : RowIn :=
  let kc := if st.sparse then 240 else 120
  let nb := kc / blkLen f.blk
  let base := (f.pbase + c * st.pincA) * 16
  let ws := (List.range f.p).map (fun u => padWordErr b (base + (u * f.rows + i) * 16) 16 planeBad)
  let rec_ := if st.sparse then padWordErr b (base + f.p * f.rows * 16 + i * 32) 32 spBad else (0, 0)
  let errs := ((ws.map (fun w => w.2)) ++ [rec_.2]).filter (fun e => e != 0)
  { planes := ws.map (fun w => if st.sparse then spread rec_.1 (bits w.1 0 120) else bits w.1 0 120)
    bad := if errs.isEmpty then 0 else 2 ^ 240 - 1, errs := errs
    scales := rowScales b (f.sbase * 16 + c * st.sincA + i * nb) nb }

def rowB (b : Block) (f : FmtBlk) (st : StepRec) (c i : Nat) : RowIn :=
  let kc := if st.sparse then 240 else 120
  let nb := kc / blkLen f.blk
  let base := (f.pbase + c * st.pincB) * 16
  let half := fun (h : Nat) => (List.range f.p).map (fun v => padWordErr b (base + (h * f.p * f.rows + v * f.rows + i) * 16) 16 planeBad)
  let lo := half 0
  let hi := if st.sparse then half 1 else lo.map (fun _ => (0, 0))
  { planes := (lo.zip hi).map (fun (l, h) => bits l.1 0 120 + 2 ^ 120 * bits h.1 0 120)
    bad := (if lo.any (fun w => w.2 != 0) then 2 ^ 120 - 1 else 0) + (if hi.any (fun w => w.2 != 0) then (2 ^ 120 - 1) * 2 ^ 120 else 0)
    errs := ((lo ++ hi).map (fun w => w.2)).filter (fun e => e != 0)
    scales := rowScales b (f.sbase * 16 + c * st.sincB + i * nb) nb }

/-- One output of one step (R112, R303, R306). -/
def stepElem (fa fb : FmtBlk) (ra rb : RowIn) (acc : Nat) : Nat :=
  let L := blkLen fa.blk
  (List.range ra.scales.length).foldl (fun acc j =>
    let sa := ra.scales.getD j (0x80, true)
    let sb := rb.scales.getD j (0x80, true)
    let nan := sa.2 || sb.2 || bits ra.bad (j * L) L != 0 || bits rb.bad (j * L) L != 0
    accumulate acc (blockDot ra.planes rb.planes (!isBlockFmt fa.fmt || fmtSigned fa.fmt) (!isBlockFmt fb.fmt || fmtSigned fb.fmt) L j)
      (if nan then 0x80 else sa.1) sb.1) acc

/-- One K-step (R303): the block after it, and the errors to report. -/
def mloopStep (b : Block) (t wa wb wc c : Nat) : Block × List Nat :=
  let fa := fbOf wa
  let fb := fbOf wb
  let st := stepOf wc
  let as := (List.range fa.rows).map (rowA b fa st c)
  let bs := (List.range fb.rows).map (rowB b fb st c)
  let errs := (as ++ bs).flatMap (fun r => r.errs ++ ((r.scales.filter (fun e => e.2)).map (fun _ => 2)))
  (((List.range fa.rows).zip as).foldl (fun b (i, ra) => ((List.range fb.rows).zip bs).foldl (fun b (j, rb) =>
    tilePut t i j (stepElem fa fb ra rb (tileGet b t i j)) b) b) b, errs)

/-- MLOOP (R302). -/
def execMloop (f : Form) (s : State) : Host.Outcome State Fault Refusal := runWord (rawOf 0xa8 f) bodyMloop s

/-- MZERO (R308). -/
def execMzero (f : Form) (s : State) : Host.Outcome State Fault Refusal := runWord (rawOf 0xa9 f) bodyMzero s

/-- MTRD (R309). -/
def execMtrd (f : Form) (s : State) : Host.Outcome State Fault Refusal := runWord (rawOf 0xaa f) bodyMtrd s

/-- MTWR (R309). -/
def execMtwr (f : Form) (s : State) : Host.Outcome State Fault Refusal := runWord (rawOf 0xab f) bodyMtwr s

/-- MLDT (R308). -/
def execMldt (f : Form) (s : State) : Host.Outcome State Fault Refusal := runWord (rawOf 0xac f) bodyMldt s

/-- MSTT (R308). -/
def execMstt (f : Form) (s : State) : Host.Outcome State Fault Refusal := runWord (rawOf 0xad f) bodyMstt s

end Sys2Proof.Machine
end

