-- ==== Sys2Proof/Machine/EvMatrix.lean ====
section
/-! DEFINITION. The events of the matrix engine (spec/17 R301 to R310, spec/25 R426). -/

namespace Sys2Proof.Machine

/-- Does MSTEP act for the block's MLOOPs? Not once its save has begun (R39). -/
def mstepActs (s : State) (b : Block) : Bool := bit (getCore s b.core).dbgCtl 0 && b.place == .resident

/-- Is an MLOOP halted (R426)? -/
def isHalted (o : Op) (b : Block) : Bool :=
  match o.kind with
  | .mloop _ _ _ _ _ h => h && b.place == .resident
  | _ => false

/-- Reports the errors an engine found in pad (R186, R306). -/
def reportPad (s : State) (o : Op) (b : Block) (errs : List Nat) : State := errs.foldl (fun t e => softError t e (some o.part) (coreUnit b.core) 0) s

/-- MLOOP_KSTEP (R303): operand a is the operation. -/
def evMloopKstep (s : State) : Option State :=
  match opWithBlock s s.ev.a with
  | none => none
  | some (o, b) =>
    match o.kind with
    | .mloop t wa wb wc c _ =>
      if tileHeld s o || isHalted o b || (stepOf wc).ksteps ≤ c then none
      else
        let v := padView s o b (mloopExtents (fbOf wa) (fbOf wb) (stepOf wc) c)
        let r := mloopStep v.1 t wa wb wc c
        some (reportPad (modOp o.oid (fun o => { o with kind := .mloop t wa wb wc (c + 1) (mstepActs s b) }) (setBlock { r.1 with pad := b.pad } v.2)) o b r.2)
    | _ => none

/-- MLOOP_KSTEP (R303). -/
def execMloopKstep (s : State) : Host.Outcome State Fault Refusal := eventOut s (evMloopKstep s)

/-- MLOOP_COMPLETE (R307): operand a is the operation. -/
def evMloopComplete (s : State) : Option State :=
  match opWithBlock s s.ev.a with
  | none => none
  | some (o, b) =>
    match o.kind with
    | .mloop _ _ _ wc c _ => if tileHeld s o || isHalted o b || c < (stepOf wc).ksteps then none else some (endOp o.oid s)
    | _ => none

/-- MLOOP_COMPLETE (R307). -/
def execMloopComplete (s : State) : Host.Outcome State Fault Refusal := eventOut s (evMloopComplete s)

/-- The random bits of a tile operation's element (R310). -/
def tileSr (s : State) (o : Op) (b : Block) (rnd i j : Nat) : Nat :=
  if rnd = 5 then
    srBits (((mfind b.grid s.grids).map (fun g => g.seed)).getD 0) o.pc (((mfind o.gid s.groups).map (fun g => g.num)).getD 0) o.ctr i j
  else 0

/-- What a whole-tile or tile-register operation does (R308, R309). -/
def tileDo (s : State) (o : Op) (b : Block) : State :=
  let cells := (List.range 96).flatMap (fun i => (List.range 96).map (fun j => (i, j)))
  match o.kind with
  | .tileOp 0 t _ _ _ _ _ _ _ => setBlock (cells.foldl (fun b (i, j) => tilePut t i j 0 b) b) s
  | .tileOp 1 t c0 d fn ty rnd sat vals =>
    vals.foldl (fun s (l, _) => (List.range (2 ^ fn)).foldl (fun s m =>
      landReg o.gid (d + m) 1 l (narrowElem ty rnd sat (tileSr s o b rnd l (c0 + m)) (tileGet b t l (c0 + m))) false s) s) s
  | .tileOp 2 t _ _ _ _ _ _ vals => setBlock (vals.foldl (fun b (k, v) => tilePut t (k / 96) (k % 96) v b) b) s
  | .tileOp 3 t off str _ ty _ _ _ =>
    let w := if ty = 4 then 4 else 2
    let bad := cells.filter (fun (i, j) => padBad b (off + i * str + j * w) w)
    let u := padView s o b ((List.range 96).map (fun i => (off + i * str, 96 * w)))
    let b1 := cells.foldl (fun c (i, j) =>
      tilePut t i j (if padBad b (off + i * str + j * w) w then FFmt.f32.defNaN else widenElem ty (padGet u.1 (off + i * str + j * w) w)) c) b
    reportPad (setBlock b1 u.2) o b (bad.map (fun _ => 2))
  | .tileOp _ t off str _ ty rnd sat _ =>
    let w := if ty = 4 then 4 else 2
    padDone s (setBlock (cells.foldl (fun c (i, j) => padPut (off + i * str + j * w) w (narrowElem ty rnd sat (tileSr s o b rnd i j) (tileGet b t i j)) c) b) s)
      o 0 false ((List.range 96).map (fun i => (off + i * str, 96 * w)))
  | _ => s

/-- TILE_OP_COMPLETE (R301): operand a is the operation. -/
def evTileOpComplete (s : State) : Option State :=
  match opWithBlock s s.ev.a with
  | none => none
  | some (o, b) =>
    match o.kind with
    | .tileOp _ _ _ _ _ _ _ _ _ => if tileHeld s o then none else some (endOp o.oid (tileDo s o b))
    | _ => none

/-- TILE_OP_COMPLETE (R301). -/
def execTileOpComplete (s : State) : Host.Outcome State Fault Refusal := eventOut s (evTileOpComplete s)

/-- A write of DBG_CTL (R426): MSTEP is kept, and MGO lets every halted MLOOP of the core go on. -/
def writeDbgCtl (core v : Nat) (s : State) : State :=
  let s1 := modCore core (fun c => { c with dbgCtl := v % 2 }) s
  if bit v 1 then
    { s1 with ops := s1.ops.map (fun o => match o.kind with
      | .mloop t a b c st _ => if opCore s o == core then { o with kind := .mloop t a b c st false } else o
      | _ => o) }
  else s1

/-- DBG_CTL as it reads. -/
def readDbgCtl (s : State) (core : Nat) : Nat :=
  (getCore s core).dbgCtl + (if s.ops.any (fun o => opCore s o == core && (match getBlock s o.bid with | some b => isHalted o b | none => false)) then 4 else 0)

/-- Does some partition own the core? -/
def coreOwned (s : State) (core : Nat) : Bool := s.parts.any (fun e => e.2.present && ownsCore e.2 core)

/-- MGO (R426): operand a is the core and b the value written to its DBG_CTL, with MGO set. -/
def evMgo (s : State) : Option State := if bit s.ev.b 1 && coreOwned s s.ev.a then some (writeDbgCtl s.ev.a s.ev.b s) else none

/-- MGO (R426). -/
def execMgo (s : State) : Host.Outcome State Fault Refusal := eventOut s (evMgo s)

end Sys2Proof.Machine
end

