-- ==== Sys2Proof/Machine/Launch.lean ====
section
/-! DEFINITION. Launches (spec/23 R394 to R402, R436), where blocks are placed (spec/01 R19, R20, R30, R33, R36, R41; spec/23
R387, R398, R399) and SPAWN (spec/07 R148). -/

namespace Sys2Proof.Machine

/-- A new number for a group, a block, a grid or a replay. Number 0 is never new. -/
def newId (s : State) : Nat × State := (s.nextOp + 1, { s with nextOp := s.nextOp + 1 })

/-- The distributor's number among the holders of TLB entries; it keeps none (log 30). -/
abbrev distCore : Nat := 768

/-- The distributor of a partition as a reader: no group's. -/
def distOp (part : Nat) : Op := { oid := 0, gid := 2 ^ 64, bid := 2 ^ 64, part := part, seq := 0, path := .ld, pc := 0, kind := .done }

/-- Reads bytes of a partition's address space for its distributor; R205 asks for USER of user-level accesses only, and the distributor
stands at no level (R436, log 30). -/
def distRead (s : State) (part va n : Nat) : Except XFault Nat × State :=
  let t := xlateVa s distCore part true .rd false (va % 2 ^ 64) n
  let s1 := { t.2 with tlb := s.tlb }
  match t.1 with
  | .error e => (.error e, s1)
  | .ok ps => homePieces (distOp part) va ps s1

/-- A write of the distributor to a peer leaves as a packet (R347, R349); its tag stands for no operation of a group. -/
def peerWrite (q pa n v part : Nat) (s : State) : State :=
  let tag := s.fab.nextTag
  queuePackets [{ kind := 2, src := s.pkg, dst := q, tag := tag, offset := bits pa 7 35 * 128, fdom := (getPart s part).fdom
                  mask := (2 ^ n - 1) * 2 ^ (pa % 128), data := v * 2 ^ (8 * (pa % 128)) }]
    { s with fab := { s.fab with nextTag := (tag + 1) % 2 ^ 32, tags := minsert tag (distOid + part, 0, lineOf pa) s.fab.tags } }

/-- Writes bytes of a partition's address space for its distributor, compressed where the page is (R199); none where they fail
translation. -/
def distWrite (s : State) (part va n v : Nat) : Option State :=
  let t := xlateVa s distCore part true .wr false (va % 2 ^ 64) n
  let s1 := { t.2 with tlb := s.tlb }
  match t.1 with
  | .error _ => none
  | .ok ps => some (ps.foldl (fun t p => match paKind t p.pa with
      | .hbm _ => lineWrite t part (lineOf p.pa) ((List.range p.n).map (fun i => (p.pa % 128 + i, bits v (8 * (p.off + i)) 8))) p.cmp
      | .peer q _ => peerWrite q p.pa p.n (bits v (8 * p.off) (8 * p.n)) part t
      | _ => physWrite p.pa p.n (bits v (8 * p.off) (8 * p.n)) t) s1)

/-- Reads bytes of a partition's own channel groups at a physical address; none for a data error or a foreign byte. -/
def ownRead (s : State) (part pa n : Nat) : Option Nat × State :=
  if !ownsRange (getPart s part) pa n then (none, s)
  else
    let at_ := homePa s part pa
    homeRead (recallOwner s (lineOf at_) none) at_ n

/-- Writes bytes of a partition's own channel groups at a physical address. -/
def ownWrite (part pa n v : Nat) (s : State) : State :=
  if ownsRange (getPart s part) pa n then deviceWrite (homePa s part pa) n v s else s

/-- A launch record (R396). -/
structure LaunchRec where
  kernel : Nat
  loadBase : Nat
  gx : Nat
  gy : Nat
  gz : Nat
  lanes : Nat
  flags : Nat
  cls : Nat
  params : Nat
  seed : Nat
  wait : Nat
  roles : Nat
  sigTok : Nat
  zero : Nat
deriving DecidableEq, Repr

def launchRec (v : Nat) : LaunchRec :=
  { kernel := bits v 0 64, loadBase := bits v 64 64, gx := bits v 128 32, gy := bits v 160 32, gz := bits v 192 32
    lanes := bits v 224 16, flags := bits v 240 8, cls := bits v 248 8, params := bits v 256 64, seed := bits v 320 32
    wait := bits v 352 32, roles := bits v 384 96, sigTok := bits v 480 8, zero := bits v 488 8 }

def LaunchRec.coop (r : LaunchRec) : Bool := bit r.flags 0
def LaunchRec.deadline (r : LaunchRec) : Bool := bit r.flags 1
def LaunchRec.waitEn (r : LaunchRec) : Bool := bit r.flags 3
def LaunchRec.sigEn (r : LaunchRec) : Bool := bit r.flags 4
def LaunchRec.graph (r : LaunchRec) : Bool := bit r.flags 5

/-- Is the record a token record (R402)? -/
def LaunchRec.token (r : LaunchRec) : Bool := r.kernel == 0 && r.lanes == 0 && !r.deadline && !r.graph

/-- Has the record a zero field that is not zero, or both DEADLINE and GRAPH (R397)? -/
def LaunchRec.bad (r : LaunchRec) : Bool := bits r.flags 6 2 != 0 || decide (4 ≤ r.cls) || r.zero != 0 || (r.deadline && r.graph)

/-- The checks of R436: the grid that the record launches, or none. The kernel descriptor and the parameter words are read
here. -/
def launchGrid (s : State) (part : Nat) (r : LaunchRec) : Option Grid × State :=
  if r.gx = 0 ∨ r.gy = 0 ∨ r.gz = 0 ∨ 2 ^ 32 < r.gx * r.gy * r.gz ∨ r.lanes = 0 ∨ 3072 < r.lanes then (none, s)
  else
    let d := distRead s part r.kernel 64
    match d.1 with
    | .error _ => (none, d.2)
    | .ok v =>
      let regs := bits v 64 8
      let regsMax := bits v 72 8
      let uregs := bits v 80 8
      let tiles := bits v 88 8
      let padB := bits v 96 32
      if regs = 0 ∨ regsMax < regs ∨ 24 < regsMax ∨ 156 < uregs ∨ 8 < tiles ∨ 2 ^ 21 < padB ∨ bits v 256 256 ≠ 0 then (none, d.2)
      else
        let p := distRead d.2 part r.params (4 * uregs)
        match p.1 with
        | .error _ => (none, p.2)
        | .ok w =>
          (some { gid := 0, part := part, gx := r.gx, gy := r.gy, gz := r.gz, lanes := r.lanes
                  entry := (r.loadBase + bits v 0 64) % 2 ^ 64, params := (List.range uregs).map (fun i => bits w (32 * i) 32)
                  regs := regs, regsMax := regsMax, uregs := uregs, ntiles := tiles, padB := ceilDiv padB 1024 * 1024
                  roles := if bit r.flags 2 then r.roles else bits v 128 96, seed := r.seed, cls := r.cls, coop := r.coop
                  depth := 0 }, p.2)

/-- The groups of each block (R8). -/
def Grid.groups (g : Grid) : Nat := ceilDiv g.lanes 96

/-- The register blocks each group starts with (R20, R25). -/
def Grid.k (g : Grid) : Nat := if g.coop then g.regsMax else g.regs

/-- The blocks of the grid (R9). -/
def Grid.blocks (g : Grid) : Nat := g.gx * g.gy * g.gz

/-- Has the grid a block that is not placed yet? -/
def Grid.unplaced (g : Grid) : Bool := decide (g.next < g.blocks)

/-- The context area that a block reserves (R40, R41). -/
def Grid.area (g : Grid) : Nat :=
  1024 + 8192 * g.groups + 13056 * (if g.coop then g.regsMax * g.groups else min 128 (24 * g.groups)) + g.padB + 36864 * g.ntiles

/-- Does the block hold a core's resources? -/
def isResident (b : Block) : Bool := match b.place with | .saved _ => false | _ => true

/-- The blocks resident on a core. -/
def residents (s : State) (core : Nat) : List Block :=
  (s.blocks.map (fun e => e.2)).filter (fun b => b.core == core && isResident b)

/-- The groups of a block that have not retired (R7). -/
def groupsOf (s : State) (b : Block) : List Group := (b.groups.filterMap (fun i => mfind i s.groups)).filter (fun g => !g.retired)

/-- The register blocks that are kept for a group on its core: its allocation, and in a cooperative grid the maximum it declares,
up to which RALLOC completes at once (R25, log 61). -/
def regsKept (s : State) (g : Group) : Nat :=
  match (mfind g.bid s.blocks).bind (fun b => mfind b.grid s.grids) with
  | some gr => if gr.coop then max gr.regsMax g.k else g.k
  | none => g.k

/-- What a block asks of a core (R20). -/
structure Ask where
  blocks : Nat := 1
  groups : Nat := 0
  regs : Nat := 0
  tiles : Nat := 0
  pages : Nat := 0
deriving DecidableEq, Repr

def Ask.plus (a b : Ask) : Ask :=
  { blocks := a.blocks + b.blocks, groups := a.groups + b.groups, regs := a.regs + b.regs, tiles := a.tiles + b.tiles, pages := a.pages + b.pages }

/-- What a block of the grid asks at its placement. -/
def Grid.ask (g : Grid) : Ask := { groups := g.groups, regs := g.groups * g.k, tiles := g.ntiles, pages := g.padB / 1024 }

/-- The pad pages a core can give, consecutive ones in different banks where it can (R182, R184). -/
def freePages (s : State) (core : Nat) (bs : List Block) : List Nat :=
  let c := getCore s core
  let banks := (List.range 32).filter (fun k => let b := getBank c k; b.mode == 1 && !b.hold && (b.state == 0 || b.state == 2))
  let used := bs.flatMap (fun b => b.padPages)
  ((List.range 64).flatMap (fun i => banks.map (fun k => 64 * k + i))).filter (fun pg => !used.contains pg)

/-- Has the core room for the block, were only the blocks `bs` resident on it (R19, R20)? -/
def coreFits (s : State) (core : Nat) (bs : List Block) (a : Ask) : Bool :=
  let gs := bs.flatMap (groupsOf s)
  decide (bs.length + a.blocks ≤ 16) && decide (gs.length + a.groups ≤ 32) && decide (sumOf (gs.map (regsKept s)) + a.regs ≤ 128) &&
    decide (sumOf (bs.map (fun b => b.ntiles)) + a.tiles ≤ 8) && (a.pages == 0 || decide (a.pages ≤ (freePages s core bs).length))

/-- Is the core leaving the partition (R387)? -/
def coreLeaves (p : Part) (c : Nat) : Bool := p.state != 0 && !p.growing && !bit p.nquads (c / 4)

/-- The cores of a partition that take blocks, ascending (R387). -/
def placingCores (p : Part) : List Nat :=
  ((List.range 192).filter (fun q => bit p.quads q)).flatMap (fun q => if coreLeaves p (4 * q) then [] else (List.range 4).map (fun i => 4 * q + i))

/-- What is asked of a core beside what stands on it. -/
def askedOf (extra : List (Nat × Ask)) (core : Nat) : Ask :=
  (extra.filter (fun e => e.1 == core)).foldl (fun a e => a.plus e.2) { blocks := 0 }

/-- The core that takes the block, were `extra` placed as well: of those that pass, the one with room that has the fewest resident
groups, the lowest on a tie (R399). -/
def pickAmong (s : State) (part : Nat) (extra : List (Nat × Ask)) (ok : Nat → Bool) (a : Ask) : Option Nat :=
  let best := (placingCores (getPart s part)).foldl (fun (m : Option (Nat × Nat)) c =>
    let bs := residents s c
    let x := askedOf extra c
    if coreFits s c bs (x.plus a) && ok c then
      let n := (bs.flatMap (groupsOf s)).length + x.groups
      match m with
      | some (k, _) => if n < k then some (n, c) else m
      | none => some (n, c)
    else m) none
  best.map (fun e => e.2)

/-- A group's allocation after the restore: a spilled one has its request granted (R24). -/
def restoredK (spill : Bool) (g : Group) : Nat :=
  match g.wait with
  | .ralloc t => if spill then max g.k t else g.k
  | _ => g.k

/-- What a saved block asks of a core (R20, R24). -/
def restoreAsk (s : State) (b : Block) : Ask :=
  let gs := groupsOf s b
  { groups := gs.length, regs := sumOf (gs.map (fun g => regsKept s { g with k := restoredK (b.place == .saved .spill) g })), tiles := b.ntiles, pages := b.padSize / 1024 }

/-- The blocks of a partition's cooperative grids that a shrink still has to move (R388). -/
def coopMoves (s : State) (part : Nat) : List Block :=
  let p := getPart s part
  if p.state = 0 ∨ p.growing then []
  else (s.blocks.map (fun e => e.2)).filter (fun b => ((isResident b && coreLeaves p b.core) || b.place == .saved .shunt) &&
    ((mfind b.grid s.grids).map (fun g => g.part == part && g.coop)).getD false)

/-- Can the remaining cores take these blocks, placed as R399 places them, beside `extra` (R385)? -/
def roomFor (s : State) (part : Nat) (extra : List (Nat × Ask)) (bs : List Block) : Bool :=
  (bs.foldl (fun (t : Option (List (Nat × Ask))) b => t.bind (fun x =>
    let a := restoreAsk s b
    (pickAmong s part x (fun _ => true) a).map (fun c => (c, a) :: x))) (some extra)).isSome

/-- The core that takes a block (R399). While a shrink still has to move cooperative blocks, which always find room (R388), what else is
placed leaves them theirs (log 70). -/
def pickCore (s : State) (part : Nat) (a : Ask) : Option Nat :=
  let moves := coopMoves s part
  pickAmong s part [] (fun c => moves.isEmpty || roomFor s part [(c, a)] moves) a

/-- The core that takes a saved block; a cooperative one that is moved leaves room for the others. -/
def pickSaved (s : State) (part : Nat) (b : Block) : Option Nat :=
  let a := restoreAsk s b
  let moves := (coopMoves s part).filter (fun x => x.bid != b.bid)
  pickAmong s part [] (fun c => moves.isEmpty || roomFor s part [(c, a)] moves) a

/-- Has the partition's context pool room (R20, R381)? -/
def ctxFits (p : Part) (n : Nat) : Bool := decide (p.ctxUsed + n ≤ bits p.ctxpool 52 12 * 2 ^ 30)

/-- The core that takes the grid's next block, where it can be placed. -/
def pickNew (s : State) (g : Grid) : Option Nat := if ctxFits (getPart s g.part) g.area then pickCore s g.part g.ask else none

/-- Binds a group to the slot of its core that has the fewest resident groups (R20). Which group slot number it takes there (R26's last
tie) the spec does not say: the lowest free one (log 62). A group that has never issued counts its cycles without an issue (R27)
from its placement or restore, which the spec leaves open too (log 63). -/
def bindGroup (s : State) (core : Nat) (g : Group) : Group :=
  let gs := (residents s core).flatMap (groupsOf s)
  let slot := (List.range 4).foldl (fun m k => if (gs.filter (fun x => x.slot == k)).length < (gs.filter (fun x => x.slot == m)).length then k else m) 0
  let gslot := ((List.range 32).find? (fun k => !gs.any (fun x => x.gslot == k))).getD 0
  let h := { g with slot := slot, gslot := gslot, active := false }
  { h with lastIssue := slotTime s h }

/-- A group as it is at launch (R8, R10, R16). -/
def newGroup (gr : Grid) (gid bid num : Nat) : Group :=
  let live := min 96 (gr.lanes - 96 * num)
  { gid := gid, bid := bid, num := num, live := maskOf (List.range live), k := gr.k, role := bits gr.roles (3 * num) 3
    upc := (List.range 96).foldl (fun m l => cset 0 l gr.entry m) []
    regs := ((List.range gr.params.length).zip gr.params).foldl (fun m e => cset 0 ((768 + e.1) * 96) (BitVec.ofNat 32 e.2) m) [] }

/-- The grid's launch began to be placed: a deadline launch is timed from here (R408). -/
def markPlaced (s : State) (gr : Grid) : State :=
  let t := s.ptp.ns
  let s1 := modGrid gr.gid (fun g => { g with next := g.next + 1, resident := g.resident + 1
                                              dl := g.dl.map (fun d => { d with placed := some (d.placed.getD t) }) }) s
  match gr.node with
  | some (rid, _) => { s1 with runs := mmodify rid (fun r => { r with dl := r.dl.map (fun d => { d with placed := some (d.placed.getD t) }) }) s1.runs }
  | none => s1

/-- The start of a group on a core acquires releases, at the narrowest scope that encloses both sides (R227, R242, R245). -/
def startAcquire (gid core : Nat) (ts : List Tok) (s : State) : State := ts.foldl (fun u t => acquired u gid (narrowest t.seat.core core) [t]) s

/-- The release that a grid's retirement is, at DEVICE scope (R34, R243). -/
def gridTok (gid : Nat) : Tok := { seat := { gid := 2 ^ 41 + gid } }

/-- Places the grid's next block on a core (R10, R20, R399); its start may be an acquire (R33, R242, R245). -/
def placeBlock (s : State) (gid core : Nat) : State :=
  match mfind gid s.grids with
  | none => s
  | some gr =>
    let id := newId s
    let bid := id.1
    let b : Block :=
      { bid := bid, grid := gid, lin := gr.next, core := core, groups := (List.range gr.groups).map (fun i => bid + 1 + i)
        padSize := gr.padB, padPages := (freePages s core (residents s core)).take (gr.padB / 1024), ntiles := gr.ntiles, ctx := gr.area }
    let s1 := { id.2 with nextOp := bid + gr.groups }
    let s2 := modPart gr.part (fun p => { p with ctxUsed := p.ctxUsed + gr.area }) (setBlock b s1)
    markPlaced ((List.range gr.groups).foldl (fun t i =>
      startAcquire (bid + 1 + i) core gr.acq (setGroup (bindGroup t core (newGroup gr (bid + 1 + i) bid i)) t)) s2) gr

/-- Could no core of the partition, empty and with its banks as they stand, take a block of the grid (R20)? -/
def neverFits (s : State) (g : Grid) : Bool :=
  let p := getPart s g.part
  let pages := fun (c : Nat) => 64 * ((List.range 32).filter (fun k =>
    let b := getBank (getCore s c) k
    b.mode == 1 && !b.hold && b.state != 3 && !(b.state == 1 && b.target == 4))).length
  decide (128 < g.ask.regs) || !((List.range 768).any (fun c => ownsCore p c && (g.padB == 0 || decide (g.padB / 1024 ≤ pages c))))

/-- Places every block of a cooperative grid, or none (R30). -/
def placeAll : Nat → State → Nat → Option State
  | 0, s, gid => if ((mfind gid s.grids).map Grid.unplaced).getD false then none else some s
  | fuel + 1, s, gid =>
    match mfind gid s.grids with
    | none => none
    | some g =>
      if !g.unplaced then some s
      else match pickNew s g with
        | some c => placeAll fuel (placeBlock s gid c) gid
        | none => none

/-- Starts a grid that has passed R436: 0, or the status 2 LAUNCH_UNFIT or 3 COOP_UNFIT (R20, R30). -/
def startGrid (s : State) (g0 : Grid) : Nat × State :=
  let id := newId s
  let g := { g0 with gid := id.1 }
  if neverFits s g then (2, s)
  else
    let s1 := setGrid g id.2
    if !g.coop then (0, s1)
    else match placeAll (16 * (placingCores (getPart s g.part)).length + 1) s1 g.gid with
      | some t => (0, t)
      | none => (3, s)

/-- The fields of QUEUE_CFG (R394). -/
def queueOn (p : Part) (q : Nat) : Bool := bit (cget 0 q p.qcfg) 0
def queuePrio (p : Part) (q : Nat) : Nat := bits (cget 0 q p.qcfg) 1 3
def queueVf (p : Part) (q : Nat) : Nat := bits (cget 0 q p.qcfg) 4 8
def queueSize (p : Part) (q : Nat) : Nat := 2 ^ (bits (cget 0 q p.qcfg) 12 4 + 4)
def queueBase (p : Part) (q : Nat) : Nat := bits (cget 0 q p.qcfg) 16 40 * 4096

/-- Is no record of the queue left to start? -/
def queueEmpty (p : Part) (q : Nat) : Bool := cget 0 q p.qhead == cget 0 q p.qtail

/-- The address of a queue's head record (R395). -/
def headAddr (p : Part) (q : Nat) : Nat := queueBase p q + 64 * (cget 0 q p.qhead % queueSize p q)

/-- The address of a token word (R400). -/
def tokenAddr (p : Part) (t : Nat) : Nat := bits p.tokbase 10 42 * 1024 + 4 * (t % 256)

/-- The bytes of a token word. -/
def tokenPlaces (p : Part) (t : Nat) : List Nat := (List.range 4).map (fun i => tokenAddr p t + i)

/-- Signals a token (R400), with the releases that the signal carries (R245). -/
def signalToken (part t : Nat) (ts : List Tok) (s : State) : State :=
  let at_ := tokenAddr (getPart s part) t
  let ks := tokenPlaces (getPart s part) t
  let r := ownRead s part at_ 4
  match r.1 with
  | some w => carry (ownWrite part at_ 4 (w / 2 ^ 24 * 2 ^ 24 + (w + 1) % 2 ^ 24) r.2) false (joinToks (toksAt s ks) ts) ks
  | none => if ownsRange (getPart s part) at_ 4 then lineError (some part) at_ r.2 else r.2

/-- The releases that the start of a record's blocks acquires: those of the token it awaits (R245, R401). -/
def waitToks (s : State) (part : Nat) (r : LaunchRec) : List Tok := if r.waitEn then toksAt s (tokenPlaces (getPart s part) r.wait) else []

/-- Does a record's WAIT condition hold (R401)? -/
def waitHolds (s : State) (part : Nat) (r : LaunchRec) : Bool :=
  !r.waitEn ||
  match (ownRead s part (tokenAddr (getPart s part) r.wait) 4).1 with
  | some w => decide ((w + 2 ^ 24 - r.wait / 256) % 2 ^ 24 < 2 ^ 23)
  | none => false

/-- The first of some grids in the order of their records or of their SPAWN. -/
def firstGrid (gs : List Grid) : Option Grid := gs.foldl (fun m g => match m with | some x => if g.order < x.order then some g else m | none => some g) none

/-- The grids of a queue that have an unplaced block, of its own records and replays, the first to be placed first (R398,
R405). -/
def queueGrid (s : State) (part q : Nat) : Option Grid :=
  firstGrid ((s.grids.map (fun e => e.2)).filter (fun g => g.part == part && g.queue == q && g.parent.isNone && g.unplaced))

/-- The child grids in a queue that have an unplaced block (R33). -/
def childGrids (s : State) (part q : Nat) : List Grid :=
  (s.grids.map (fun e => e.2)).filter (fun g => g.part == part && g.parent.isSome && g.queue == q && g.unplaced)

/-- The grid whose block a queue places next (R33). -/
def nextOfQueue (s : State) (part q : Nat) : Option Grid := ((firstGrid (childGrids s part q)).map some).getD (queueGrid s part q)

/-- The enabled queues in the order in which the distributor considers them (R398). -/
def queueOrder (p : Part) : List Nat :=
  (List.range 8).flatMap (fun i =>
    let prio := 7 - i
    ((List.range 64).map (fun k => (cget 0 prio p.rr + k) % 64)).filter (fun q => queueOn p q && queuePrio p q == prio))

/-- The pre-empted queues, each with the queue it yields to (R36, R398): a queue once pre-empted stays so until the other has
no unplaced block. -/
def preempted (s : State) (part : Nat) : List (Nat × Nat) :=
  let p := getPart s part
  let kept := p.pre.filter (fun e => (nextOfQueue s part e.2).isSome)
  (queueOrder p).foldl (fun (pre : List (Nat × Nat)) q =>
    if (mfind q pre).isSome then pre
    else match nextOfQueue s part q with
      | none => pre
      | some g =>
        if (pickNew s g).isSome then pre
        else
          let lower := fun (b : Block) => match mfind b.grid s.grids with
            | some x => x.part == part && decide (queuePrio p x.queue < queuePrio p q)
            | none => false
          (placingCores p).foldl (fun pre c =>
            let bs := residents s c
            let gone := bs.filter lower
            if gone.isEmpty || !coreFits s c (bs.filter (fun b => !lower b)) g.ask then pre
            else (gone.filterMap (fun b => (mfind b.grid s.grids).map (fun x => x.queue))).foldl (fun m k => if (mfind k m).isSome then m else minsert k q m) pre) pre) kept

/-- Keeps the partition's pre-empted queues up to date. -/
def notePre (part : Nat) (s : State) : State :=
  if (getPart s part).present then modPart part (fun p => { p with pre := preempted s part }) s else s

/-- The order number of the next record or child grid of a partition; its replays' nodes take the numbers after it. -/
def newOrder (part : Nat) (s : State) : Nat × State :=
  ((getPart s part).nextOrder, modPart part (fun p => { p with nextOrder := p.nextOrder + 64 }) s)

/-- The status of SPAWN for a record (R148), and the child grid. Of a record with several faults the spec orders no statuses: zero
fields and refused flags (2) come first, then a cooperative request (3), then R436 (2) (log 64). -/
def spawnGrid (x : Ctx) (s : State) (v : Nat) : Nat × State :=
  let r := launchRec v
  if r.bad || r.deadline || r.graph || r.waitEn || r.sigEn then (2, s)
  else if r.coop then (3, s)
  else
    let g := launchGrid s x.part r
    match g.1 with
    | none => (2, g.2)
    | some gr =>
      let o := newOrder x.part g.2
      let t := startGrid o.2 { gr with depth := x.gr.depth + 1, parent := some (x.b.bid, x.gr.gid), queue := x.gr.queue, order := o.1, acq := [tokOf s x.g.gid x.g.seq 4] }
      if t.1 = 0 then (0, modBlock x.b.bid (fun b => { b with kids := b.kids + 1 }) (modGrid x.gr.gid (fun g => { g with kids := g.kids + 1 }) t.2))
      else (1, t.2)

/-- SPAWN (R30 to R33, R148). Its read of the record is an operation of the SV path, complete within the step; the path's counter falls
in issue order (R138, R238). -/
def bodySpawn (x : Ctx) : Res :=
  let a := uB x
  if x.gr.coop then trapAll x .illegal
  else ctlPoison x a.2 (
    if 10 ≤ x.gr.depth then trapAll x .spawnDepth
    else groupWide x (fun also =>
      let q := readAtIssue x .sv a.1 64
      match q.1 with
      | .error e => recordTrap x a.1 e q.2
      | .ok v =>
        let r := spawnGrid x (releaseDone q.2 x.g.gid x.g.seq q.2.stamp 4) v
        let s1 := sweepOps (addOp r.2 (opOf x .sv .done))
        .ok (notePre x.part (modGroup x.g.gid (fun g => writeDst x g x.r.d 1 0 r.1 false) s1)) { also := also }))

/-- SPAWN (R148). -/
def execSpawn (f : Form) (s : State) : Host.Outcome State Fault Refusal := runWord (rawOf 0x73 f) bodySpawn s

end Sys2Proof.Machine
end

