-- ==== Sys2Proof/Machine/EvLaunch.lean ====
section
/-! DEFINITION. The events of groups, blocks and the distributor (spec/01 R7, R20 to R43; spec/07 R136, R139; spec/23 R394 to
R408): waits that end, retirement, saves and restores, placement, queues, tokens, graphs and deadline launches. -/

namespace Sys2Proof.Machine

/-- An element of a grid's, block's or replay's standing by its number. -/
def getGrid (s : State) (gid : Nat) : Option Grid := mfind gid s.grids

/-- Writes a record's STATUS (R396, R397); the write is a release at SYSTEM of the writes of the groups in `gone`, and carries the releases of
the grids. -/
def writeStatus (part pa code : Nat) (gone : List Nat) (ts : List Tok) (s : State) : State :=
  carry (gone.foldl poolClean (ownWrite part (pa + 62) 2 code s)) false ts [pa + 62, pa + 63]

/-- The update that a deadline launch's retirement makes (R408). -/
def endDeadline (part : Nat) (d : Deadline) (s : State) : State :=
  let dur := min (2 ^ 32 - 1) (s.ptp.ns - d.placed.getD s.ptp.ns)
  let at_ := d.recAddr + 48 + 4 * d.variant
  match (distRead s part at_ 4).1, (distRead s part (d.recAddr + 9) 1).1 with
  | .ok e, .ok c =>
    let est : Int := (e : Int) + ((dur : Int) - (e : Int)).fdiv 8
    let s1 := (distWrite s part at_ 4 (min (2 ^ 32 - 1) est.toNat)).getD s
    if d.due < s.ptp.ns then (distWrite s1 part (d.recAddr + 9) 1 (c ||| 8)).getD s1 else s1
  | _, _ => s

/-- A record's grid, replay or variant has retired: its deadline record, STATUS and SIGTOK (R397, R401, R408). -/
def recordRetired (part : Nat) (dl : Option Deadline) (status : Nat) (sig : Option Nat) (gone : List Nat) (ts : List Tok) (s : State) : State :=
  let s1 := match dl with | some d => endDeadline part d s | none => s
  let s2 := writeStatus part status 1 gone ts s1
  match sig with | some t => signalToken part t ts s2 | none => s2

/-- Frees the generation of a replay whose nodes have all retired, and retires it (R404). -/
def settleRun (rid : Nat) (s : State) : State :=
  match mfind rid s.runs with
  | none => s
  | some r =>
    if r.retired.length == (if r.failed then r.started.length else r.nodes.length) then
      let s1 := match (distRead s r.part (r.obj + 2) 1).1 with
        | .ok b => (distWrite s r.part (r.obj + 2) 1 (if bit b r.gen then b - 2 ^ r.gen else b)).getD s
        | .error _ => s
      let s2 := { s1 with runs := merase rid s1.runs }
      if r.failed then s2 else recordRetired r.part r.dl r.status r.sigTok r.gone (r.toks.flatMap (fun e => e.2)) s2
    else s

/-- A child grid of a block has retired, with its releases: a saved block waits for room once none is left (R35). -/
def kidDone (bid : Nat) (ts : List Tok) (s : State) : State :=
  match mfind bid s.blocks with
  | none => s
  | some b =>
    let s1 := setBlock { b with kids := b.kids - 1, toks := b.toks ++ ts } s
    if b.kids = 1 && b.place == .saved .join then
      modPart (((getGrid s b.grid).map (fun g => g.part)).getD 0) (fun p => { p with restores := p.restores ++ [bid] }) s1
    else s1

/-- Retires a grid whose blocks and child grids have all retired (R34), and then its parent where that was the last. -/
def settleGrid : Nat → Nat → State → State
  | 0, _, s => s
  | fuel + 1, gid, s =>
    match mfind gid s.grids with
    | none => s
    | some g =>
      if g.unplaced || g.resident != 0 || g.kids != 0 then s
      else
        let s1 := { s with grids := merase gid s.grids }
        let ts := gridTok gid :: g.toks
        let s2 := match g.status with | some pa => recordRetired g.part g.dl pa g.sigTok g.gone ts s1 | none => s1
        let s3 := match g.node with
          | some (rid, n) => settleRun rid { s2 with runs := mmodify rid (fun r => { r with retired := r.retired ++ [n], gone := r.gone ++ g.gone, toks := minsert n ts r.toks }) s2.runs }
          | none => s2
        match g.parent with
        | some (bid, pg) => settleGrid fuel pg (modGrid pg (fun p => { p with kids := p.kids - 1, gone := p.gone ++ g.gone, toks := p.toks ++ ts }) (kidDone bid ts s3))
        | none => s3

/-- Retires a block whose groups have all retired: its resources and its context area return (R7, R41). -/
def settleBlock (bid : Nat) (s : State) : State :=
  match mfind bid s.blocks with
  | none => s
  | some b =>
    if !(groupsOf s b).isEmpty then s
    else
      let left := b.groups.filter (fun i => s.pool.dirty.any (fun e => e.2.contains i))
      let s1 := { s with blocks := merase bid s.blocks, groups := s.groups.filter (fun e => !b.groups.contains e.1)
                         past := s.past.filter (fun e => !decide (padPlace bid 0 ≤ e.1 ∧ e.1 < padPlace (bid + 1) 0)) }
      let part := ((getGrid s b.grid).map (fun g => g.part)).getD 0
      let s2 := modPart part (fun p => { p with ctxUsed := p.ctxUsed - b.ctx, restores := p.restores.filter (fun i => i != bid) }) s1
      settleGrid 12 b.grid (modGrid b.grid (fun g => { g with resident := g.resident - 1, gone := g.gone ++ left }) s2)

/-- The slices that home a partition's lines once a resize is over (R389). -/
def newSlices (p : Part) : Nat := if p.growing then p.slices else p.nslices

/-- Is a resource of the partition leaving it (R386)? -/
def leaving (own next : Nat) : Bool := own &&& next != own

/-- The partition's registers once it is deleted (R379). -/
def deletedPart (p : Part) : Part := { result := p.result }

/-- Takes a resize on through the states that have no work left (R386); a state without work passes at once (log 31). SHUNT lasts until
every block of a leaving core is moved: restored on another, or saved while no other can hold it (R388). -/
def settleResize : Nat → Nat → State → State
  | 0, _, s => s
  | fuel + 1, part, s =>
    let p := getPart s part
    let here := fun (b : Block) => isResident b && coreLeaves p b.core && (((getGrid s b.grid).map (fun g => g.part == part)).getD false)
    if p.state = 3 then
      if s.blocks.any (fun e => here e.2 || (e.2.place == .saved .shunt && p.restores.contains e.1 && (pickSaved s part e.2).isSome)) then s else settleResize fuel part (setPart part { p with state := 4, oldSlices := p.slices, moved := [] } s)
    else if p.state = 4 then
      if p.oldSlices = newSlices p ∨ p.oldSlices = 0 ∨ newSlices p = 0 then
        settleResize fuel part (partIrq part 4 (setPart part { p with state := if p.growing then 0 else 5, oldSlices := 0, moved := [] } s))
      else s
    else if p.state = 5 then (if leaving p.chgrps p.nchgrps then s else settleResize fuel part (setPart part { p with state := 6 } s))
    else if p.state = 6 then
      if leaving p.quads p.nquads || leaving p.slices p.nslices || leaving p.chgrps p.nchgrps then s
      else
        let s1 := partIrq part 4 (setPart part { p with state := 0, forward := [] } s)
        if p.quads = 0 ∧ p.slices = 0 ∧ p.chgrps = 0 then
          { setPart part (deletedPart p) s1 with tlb := s1.tlb.filter (fun e => e.part != part), dray := s1.dray.filter (fun e => e.1 / 2 ^ 16 != part) }
        else s1
    else s

/-- The register blocks free on a core (R19). -/
def freeRegs (s : State) (core : Nat) : Nat := 128 - sumOf (((residents s core).flatMap (groupsOf s)).map (regsKept s))

/-- The oldest waiting growth request of a core. -/
def oldestWaiter (s : State) (core : Nat) : Option (Group × Nat) :=
  match (getCore s core).waiters with
  | (gid, t) :: _ => (mfind gid s.groups).map (fun g => (g, t))
  | [] => none

/-- RALLOC_GRANT (R22): operand a is the core, whose oldest request is granted, where that leaves the cooperative blocks of a shrink
their room (R388, log 70). -/
def evRallocGrant (s : State) : Option State :=
  match oldestWaiter s s.ev.a with
  | none => none
  | some (g, t) =>
    let moves := coopMoves s (partOf s g)
    if freeRegs s s.ev.a < t - g.k || !(moves.isEmpty || roomFor s (partOf s g) [(s.ev.a, { blocks := 0, regs := t - g.k })] moves) then none
    else
      let s1 := modCore s.ev.a (fun c => { c with waiters := c.waiters.drop 1 }) s
      some (settleResize 4 (partOf s g) (notePre (partOf s g) (setGroup { setAlloc t g with wait := .none } s1)))

/-- RALLOC_GRANT (R22). -/
def execRallocGrant (s : State) : Host.Outcome State Fault Refusal := eventOut s (evRallocGrant s)

/-- RFREE_RETURN (R22): operand a is the group; no register that it gives up is pending. -/
def evRfreeReturn (s : State) : Option State :=
  match mfind s.ev.a s.groups with
  | none => none
  | some g =>
    match g.wait, mfind g.bid s.blocks with
    | .rfree t, some b =>
      if !isResident b || g.pend.any (fun e => decide (32 * t * 96 ≤ e.1 ∧ e.1 < 768 * 96)) then none
      else
        let back := regsKept s g != regsKept s { g with k := t }
        some (notePre (partOf s g) (modCore b.core (fun c => if back then { c with lastReturn := s.cycle } else c) (setGroup { setAlloc t g with wait := .none } s)))
    | _, _ => none

/-- RFREE_RETURN (R22). -/
def execRfreeReturn (s : State) : Host.Outcome State Fault Refusal := eventOut s (evRfreeReturn s)

/-- The block to spill: that of the youngest waiting group whose grid is not cooperative (R24, R25). -/
def spillBlock (s : State) (core : Nat) : Option Block :=
  ((getCore s core).waiters.reverse.filterMap (fun w => (mfind w.1 s.groups).bind (fun g => mfind g.bid s.blocks))).find? (fun b =>
    b.place == .resident && !(((getGrid s b.grid).map (fun g => g.coop)).getD true))

/-- GROWTH_DEADLOCK_SPILL (R24): operand a is the core. -/
def evGrowthDeadlockSpill (s : State) : Option State :=
  match oldestWaiter s s.ev.a with
  | none => none
  | some (g, t) =>
    if t - g.k ≤ freeRegs s s.ev.a || s.cycle < (getCore s s.ev.a).lastReturn + 16384 ||
        (residents s s.ev.a).any (fun b => b.place == .draining .spill) then none
    else (spillBlock s s.ev.a).map (fun b => setBlock { b with place := .draining .spill } s)

/-- GROWTH_DEADLOCK_SPILL (R24). -/
def execGrowthDeadlockSpill (s : State) : Host.Outcome State Fault Refusal := eventOut s (evGrowthDeadlockSpill s)

/-- A retiring group releases what it has done at DEVICE scope, as part of its grid's retirement (R34, R243). -/
def retireRelease (s : State) (g : Group) (grid : Nat) : State := releasePast s g.gid (some (gridTok grid)) (inRelease s g.gid (g.seq + 1) s.stamp)

/-- GROUP_RETIRE (R7): operand a is the group. What it wrote is released at DEVICE scope (R34; the grid retires no earlier). -/
def evGroupRetire (s : State) : Option State :=
  match mfind s.ev.a s.groups with
  | none => none
  | some g =>
    if g.retired || hasLive g || s.ops.any (fun o => o.gid == g.gid) then none
    else match mfind g.bid s.blocks with
      | none => none
      | some b =>
        let s1 := setGroup { g with retired := true, trigq := [], active := false, wait := .none } (retireRelease s g b.grid)
        let s2 := if isResident b then modCore b.core (fun c => { c with lastReturn := s.cycle }) s1 else s1
        some (settleResize 4 (partOf s g) (notePre (partOf s g) (settleBlock g.bid s2)))

/-- GROUP_RETIRE (R7). -/
def execGroupRetire (s : State) : Host.Outcome State Fault Refusal := eventOut s (evGroupRetire s)

/-- BLOCK_SAVE (R38, R40): operand a is the block, whose access paths other than NT have drained. A fence, which no counter holds, is not
waited for. -/
def evBlockSave (s : State) : Option State :=
  match mfind s.ev.a s.blocks with
  | none => none
  | some b =>
    match b.place with
    | .draining why =>
      if s.ops.any (fun o => o.bid == b.bid && o.path != .nt && !o.isFence) then none
      else
        let part := ((getGrid s b.grid).map (fun g => g.part)).getD 0
        let s1 := modCore b.core (fun c => { c with lastReturn := s.cycle, waiters := c.waiters.filter (fun w => !b.groups.contains w.1) }) s
        let s2 := setBlock { b with place := .saved why, padPages := [] } s1
        let s3 := { s2 with groups := s2.groups.map (fun e => if b.groups.contains e.1 then (e.1, { e.2 with active := false }) else e) }
        let waits := why != .join || b.kids == 0
        let s4 := modPart part (fun p => { p with restores := if waits then p.restores ++ [b.bid] else p.restores }) s3
        some (settleResize 4 part (notePre part s4))
    | _ => none

/-- BLOCK_SAVE (R38). -/
def execBlockSave (s : State) : Host.Outcome State Fault Refusal := eventOut s (evBlockSave s)

/-- The first saved block of a partition that has a core with room (R399). -/
def nextRestore (s : State) (part : Nat) : Option (Nat × Nat) :=
  (getPart s part).restores.findSome? (fun bid => (mfind bid s.blocks).bind (fun b => (pickSaved s part b).map (fun c => (bid, c))))

/-- A group comes back on a core (R42): its loop buffer refills at the next iteration, a JOIN ends, a spill's request is
granted. -/
def restoreGroup (why : SaveWhy) (g : Group) : Group :=
  let g1 := if why == .spill then (match g.wait with | .ralloc t => { setAlloc (max g.k t) g with wait := .none } | _ => g) else g
  let g2 := if why == .join && g1.wait == .join then { g1 with wait := .none } else g1
  { g2 with lbuf := if g2.loops.isEmpty then none else some { base := 0, bytes := [], stale := true } }

/-- Updates on their way to a core reach it, before a block that may have read their bytes elsewhere goes on there (R224, R252). -/
def flushUpdates (core : Nat) (s : State) : State :=
  (s.updates.filter (fun u => u.core == core)).foldl l1Apply { s with updates := s.updates.filter (fun u => u.core != core) }

/-- Restores a block on a core (R42, R399): after JOIN as an acquire (R244), and its triggers are tested (R298). -/
def restoreBlock (s : State) (b : Block) (core : Nat) : State :=
  let why := match b.place with | .saved w => w | _ => .join
  let part := ((getGrid s b.grid).map (fun g => g.part)).getD 0
  let pages := (freePages s core (residents s core)).take (b.padSize / 1024)
  let s1 := setBlock { b with core := core, place := .resident, padPages := pages, joined := if why == .join then [] else b.joined } s
  let s2 := (groupsOf s b).foldl (fun t g => setGroup (restoreGroup why (bindGroup t core { g with slot := 4, gslot := 32 })) t)
    { s1 with groups := s1.groups.map (fun e => if b.groups.contains e.1 then (e.1, { e.2 with slot := 4, gslot := 32 }) else e) }
  let s3 := if why == .shunt then modCore core (fun c => { c with waiters := c.waiters ++ (groupsOf s b).filterMap (fun g => match g.wait with
    | .ralloc t => some (g.gid, t)
    | _ => none) }) s2 else s2
  let s4 := if why == .join then b.groups.foldl (fun t i => acquired t i 4 b.toks) s3 else s3
  modPart part (fun p => { p with restores := p.restores.filter (fun i => i != b.bid), shunted := if why == .shunt then p.shunted + 1 else p.shunted }) (trigNote b.bid (flushUpdates core s4))

/-- BLOCK_RESTORE (R42, R399): operand a is the block. -/
def evBlockRestore (s : State) : Option State :=
  match mfind s.ev.a s.blocks with
  | none => none
  | some b =>
    let part := ((getGrid s b.grid).map (fun g => g.part)).getD 0
    match nextRestore s part with
    | some (bid, core) => if bid = b.bid && !(getPart s part).fatal then some (settleResize 4 part (notePre part (restoreBlock s b core))) else none
    | none => none

/-- BLOCK_RESTORE (R42). -/
def execBlockRestore (s : State) : Host.Outcome State Fault Refusal := eventOut s (evBlockRestore s)

/-- Groups of a slot that stand in its active set and are ready (R27). -/
def activeReady (s : State) (core slot : Nat) : List Group :=
  ((residents s core).flatMap (groupsOf s)).filter (fun g => g.slot == slot && g.active && (nextIssue s g).isSome)

/-- ACTIVE_SET_ENTRY (R27): operand a is the group. It takes a free place, or once it has waited 32 cycles the place of the
group that issued most recently. -/
def evActiveSetEntry (s : State) : Option State :=
  match mfind s.ev.a s.groups with
  | none => none
  | some g =>
    match mfind g.bid s.blocks with
    | none => none
    | some b =>
      if g.active || (nextIssue s g).isNone then none
      else
        let act := activeReady s b.core g.slot
        let last := act.foldl (fun m x => match m with | some (y : Group) => if y.lastIssue < x.lastIssue then some x else m | none => some x) none
        let out := if act.length < 4 then none else last.map (fun x => x.gid)
        if act.length < 4 || g.lastIssue + 32 ≤ slotTime s g then
          let stay := fun (x : Group) => act.any (fun y => y.gid == x.gid) && out != some x.gid
          some { s with groups := s.groups.map (fun e =>
            if e.1 == g.gid then (e.1, { e.2 with active := true })
            else if e.2.slot == g.slot && ((mfind e.2.bid s.blocks).map (fun x => x.core == b.core)).getD false then (e.1, { e.2 with active := stay e.2 })
            else e) }
        else none

/-- ACTIVE_SET_ENTRY (R27). -/
def execActiveSetEntry (s : State) : Host.Outcome State Fault Refusal := eventOut s (evActiveSetEntry s)

/-- YIELD_EXPIRE (R136): operand a is the group. -/
def evYieldExpire (s : State) : Option State :=
  match mfind s.ev.a s.groups with
  | none => none
  | some g => match g.wait with
    | .yield t => if t + 16 ≤ slotTime s g then some (setGroup { g with wait := .none } s) else none
    | _ => none

/-- YIELD_EXPIRE (R136). -/
def execYieldExpire (s : State) : Host.Outcome State Fault Refusal := eventOut s (evYieldExpire s)

/-- TWAIT_RESUME (R139): operand a is the group. -/
def evTwaitResume (s : State) : Option State :=
  match mfind s.ev.a s.groups with
  | none => none
  | some g => match g.wait with
    | .twait t => if t ≤ s.ptp.ns % 2 ^ 64 then some (setGroup { g with wait := .none } s) else none
    | _ => none

/-- TWAIT_RESUME (R139). -/
def execTwaitResume (s : State) : Host.Outcome State Fault Refusal := eventOut s (evTwaitResume s)

/-- The head record of an enabled queue (R395): its address and, where it can be read, its contents. -/
def headOf (s : State) (part q : Nat) : Option (Nat × Option LaunchRec) :=
  let p := getPart s part
  if !p.present || p.fatal || !queueOn p q || queueEmpty p q then none
  else some (headAddr p q, (ownRead s part (headAddr p q) 64).1.map launchRec)

/-- The queue moves on past its head record. -/
def nextRecord (part q : Nat) (s : State) : State :=
  modPart part (fun p => { p with qhead := cset 0 q ((cget 0 q p.qhead + 1) % 2 ^ 32) p.qhead }) s

/-- A record that is not run ends with its STATUS, and the queue moves on (R397). -/
def refuseRecord (part q pa code : Nat) (s : State) : State := nextRecord part q (writeStatus part pa code [] [] s)

/-- The deadline record's choice (R406, R407). -/
structure Choice where
  variant : Nat
  nofit : Bool
  due : Nat
  recAddr : Nat
  launch : LaunchRec

/-- Chooses the variant of a deadline launch now (R407); none where the deadline record or the variant's record is refused. -/
def chooseVariant (s : State) (part addr : Nat) : Option Choice :=
  match (distRead s part addr 64).1 with
  | .error _ => none
  | .ok v =>
    let n := bits v 64 8
    if n = 0 ∨ 4 < n ∨ bits v 80 48 ≠ 0 then none
    else
      let due := bits v 0 64
      let fit := (List.range n).find? (fun k => decide (s.ptp.ns + bits v (384 + 32 * k) 32 ≤ due))
      let k := fit.getD (n - 1)
      match (distRead s part (bits v (128 + 64 * k) 64) 64).1 with
      | .error _ => none
      | .ok w =>
        let r := launchRec w
        if r.bad || bits r.flags 0 8 &&& 0x1A != 0 then none
        else some { variant := k, nofit := fit.isNone, due := due, recAddr := addr, launch := r }

/-- A graph object (R403). -/
structure GraphObj where
  nodes : List Nat
  preds : List Nat
  lastGen : Nat
  busy : Nat
  psize : Nat
  pgen : Nat

/-- Reads a graph object and checks it (R403). -/
def graphObj (s : State) (part addr : Nat) : Option GraphObj :=
  match (distRead s part addr 576).1 with
  | .error _ => none
  | .ok v =>
    let n := bits v 0 8
    let psize := bits v 32 32
    if addr % 4096 ≠ 0 ∨ n = 0 ∨ 64 < n ∨ bits v 24 8 ≠ 0 ∨ psize % 64 ≠ 0 ∨ 65536 < psize ∨ bits v 128 384 ≠ 0 then none
    else match (distRead s part (addr + 576) (64 * n)).1 with
      | .error _ => none
      | .ok w =>
        let nodes := (List.range n).map (fun i => bits w (512 * i) 512)
        let preds := (List.range n).map (fun i => bits v (512 + 64 * i) 64)
        if ((List.range n).zip preds).any (fun e => decide (2 ^ e.1 ≤ e.2)) || nodes.any (fun w => (launchRec w).flags &&& 0x3A != 0) then none
        else some { nodes := nodes, preds := preds, lastGen := bits v 8 8 % 4, busy := bits v 16 8, psize := psize, pgen := bits v 64 64 }

/-- The generation a replay takes: the free one that follows LASTGEN (R404). -/
def freeGen (o : GraphObj) : Option Nat := ((List.range 4).map (fun i => (o.lastGen + 1 + i) % 4)).find? (fun g => !bit o.busy g)

/-- Takes and fills a generation and adds the replay (R404); none where the patch or the generation cannot be reached. -/
def takeGen (s : State) (part q pa addr params : Nat) (o : GraphObj) (gen : Nat) (cls sig : Option Nat) (dl : Option Deadline) (acq : List Tok) : Option State :=
  let dst := (o.pgen + gen * o.psize) % 2 ^ 64
  let src := if params = 0 then (o.pgen + o.lastGen * o.psize) % 2 ^ 64 else params
  match (distRead s part src o.psize).1 with
  | .error _ => none
  | .ok v =>
    match (distWrite s part dst o.psize v).bind (fun t => distWrite t part (addr + 1) 2 (gen + (o.busy ||| 2 ^ gen) * 256)) with
    | none => none
    | some s1 =>
      let n := newOrder part s1
      let id := newId n.2
      some { id.2 with runs := minsert id.1 { rid := id.1, part := part, queue := q, order := n.1, cls := cls, obj := addr, gen := gen, genAddr := dst
                                              nodes := o.nodes, preds := o.preds, status := pa, sigTok := sig, dl := dl, acq := acq } id.2.runs }

/-- The token a record signals at its end (R401). -/
def sigOf (r : LaunchRec) : Option Nat := if r.sigEn then some r.sigTok else none

/-- Starts the launch `r` of queue `q`'s head record at `pa` (R397, R436); `acq` are the releases of the token that the record awaited. -/
def launchFrom (s : State) (part q pa : Nat) (r : LaunchRec) (cls : Nat) (sig : Option Nat) (dl : Option Deadline) (acq : List Tok) : State :=
  let g := launchGrid s part r
  match g.1 with
  | none => refuseRecord part q pa 4 g.2
  | some gr =>
    let o := newOrder part g.2
    let t := startGrid o.2 { gr with queue := q, order := o.1, cls := cls, status := some pa, sigTok := sig, dl := dl, acq := acq }
    if t.1 = 0 then nextRecord part q t.2 else refuseRecord part q pa t.1 t.2

/-- Starts a replay of queue `q`'s head record; none while all four generations are held (R404). -/
def replayFrom (s : State) (part q pa addr params : Nat) (cls sig : Option Nat) (dl : Option Deadline) (acq : List Tok) : Option State :=
  match graphObj s part addr with
  | none => some (refuseRecord part q pa 4 s)
  | some o => match freeGen o with
    | none => none
    | some gen => match takeGen s part q pa addr params o gen cls sig dl acq with
      | some t => some (nextRecord part q t)
      | none => some (refuseRecord part q pa 4 s)

/-- Writes CHOICE of a deadline record (R407). -/
def writeChoice (s : State) (part : Nat) (c : Choice) : State :=
  (distWrite s part (c.recAddr + 9) 1 (c.variant + (if c.nofit then 4 else 0))).getD s

/-- What starting a queue's head record gives, with whether it is a graph replay; none where it waits (R397 to R407). A token
record starts nothing here. -/
def startHead (s : State) (part q : Nat) : Option (Bool × State) :=
  match headOf s part q with
  | none => none
  | some (pa, none) => some (false, refuseRecord part q pa 4 (ownRead s part pa 64).2)
  | some (pa, some r) =>
    if !waitHolds s part r then none
    else if r.bad then some (false, refuseRecord part q pa 4 s)
    else if r.token then none
    else if r.graph then (replayFrom s part q pa r.kernel r.params none (sigOf r) none (waitToks s part r)).map (fun t => (true, t))
    else if r.deadline then
      match chooseVariant s part r.kernel with
      | none => some (false, refuseRecord part q pa 4 s)
      | some c =>
        let d : Deadline := { recAddr := c.recAddr, variant := c.variant, due := c.due }
        let s1 := writeChoice s part c
        if c.launch.graph then (replayFrom s1 part q pa c.launch.kernel c.launch.params (some r.cls) (sigOf r) (some d) (waitToks s part r)).map (fun t => (true, t))
        else some (false, launchFrom s1 part q pa c.launch r.cls (sigOf r) (some d) (waitToks s part r))
    else some (false, launchFrom s part q pa r r.cls (sigOf r) none (waitToks s part r))

/-- The node of lowest index that is not started and whose predecessors have all retired (R405). -/
def readyNode (r : GraphRun) : Option Nat :=
  if r.failed then none
  else (List.range r.nodes.length).find? (fun n => !r.started.contains n && (List.range n).all (fun k => !bit (r.preds.getD n 0) k || r.retired.contains k))

/-- Has the queue a replay with a node to start whose blocks come before those of the record or node at `order` (R405)? -/
def nodeFirst (s : State) (part q : Nat) (order : Option Nat) : Bool :=
  s.runs.any (fun e => e.2.part == part && e.2.queue == q && (readyNode e.2).any (fun n => order.all (fun k => decide (e.2.order + n < k))))

/-- What the distributor of a partition does next (R398, R399). -/
inductive DistAct where
  | restore (bid core : Nat)
  | place (gid core : Nat)
  | start (q : Nat) (graph : Bool) (t : State)
  | none

/-- What a selected queue places or starts: the first of its child grids that has room, the next block of its own records, or, once it has no
child grid left to place and no node to start, its head record (R33, R399, R405). -/
def oneQueue (s : State) (part q : Nat) : DistAct :=
  let kids := childGrids s part q
  match firstGrid (kids.filter (fun g => (pickNew s g).isSome)) with
  | some g => .place g.gid ((pickNew s g).getD 0)
  | none => match queueGrid s part q with
    | some g => (match pickNew s g with
      | some c => if nodeFirst s part q (some g.order) then .none else .place g.gid c
      | none => .none)
    | none => if !kids.isEmpty || nodeFirst s part q none then .none
      else match startHead s part q with
        | some (gr, t) => .start q gr t
        | none => .none

/-- The first queue, in the order in which they are considered, that has something to place or to start. -/
def queueAct (s : State) (part : Nat) (pre : List (Nat × Nat)) : List Nat → DistAct
  | [] => .none
  | q :: qs =>
    if (mfind q pre).isSome then queueAct s part pre qs
    else match oneQueue s part q with
      | .none => queueAct s part pre qs
      | a => a

/-- Does a saved block that waits for room stand before the blocks of a queue that have not started: is its own queue of equal or higher
priority (R24, R388)? -/
def savedFirst (s : State) (part q : Nat) : Bool :=
  let p := getPart s part
  p.restores.any (fun bid => ((mfind bid s.blocks).bind (fun b => getGrid s b.grid)).any (fun g => decide (queuePrio p q ≤ queuePrio p g.queue)))

/-- The distributor's next act: restored blocks, then the selected queue (R24, R33, R398, R399). -/
def distNext (s : State) (part : Nat) : DistAct :=
  let p := getPart s part
  if !p.present || p.fatal then .none
  else match nextRestore s part with
    | some (b, c) => .restore b c
    | none => queueAct s part (preempted s part) ((queueOrder p).filter (fun q => !savedFirst s part q))

/-- The turn of a priority moves on past a queue that has placed blocks (R398). -/
def passTurn (part q : Nat) (s t : State) : State :=
  if t.blocks.length = s.blocks.length then t
  else modPart part (fun p => { p with rr := cset 0 (queuePrio p q) ((q + 1) % 64) p.rr }) t

/-- BLOCK_PLACE (R20, R399): operand a is the partition. The turn of the queue's priority moves on past it (R398). -/
def evBlockPlace (s : State) : Option State :=
  match distNext s s.ev.a with
  | .place gid core =>
    match getGrid s gid with
    | some g =>
      some (settleResize 4 s.ev.a (notePre s.ev.a (passTurn s.ev.a g.queue s (placeBlock s gid core))))
    | none => none
  | _ => none

/-- BLOCK_PLACE (R20). -/
def execBlockPlace (s : State) : Host.Outcome State Fault Refusal := eventOut s (evBlockPlace s)

/-- RECORD_START (R398): operand a is the partition and b the queue, whose head record is no graph replay. A cooperative grid is placed as it
starts, and the turn moves on. -/
def evRecordStart (s : State) : Option State :=
  match distNext s s.ev.a with
  | .start q false t => if q = s.ev.b then some (notePre s.ev.a (passTurn s.ev.a q s t)) else none
  | _ => none

/-- RECORD_START (R398). -/
def execRecordStart (s : State) : Host.Outcome State Fault Refusal := eventOut s (evRecordStart s)

/-- GRAPH_REPLAY_START (R404): operand a is the partition and b the queue, whose head record replays a graph. -/
def evGraphReplayStart (s : State) : Option State :=
  match distNext s s.ev.a with
  | .start q true t => if q = s.ev.b then some (notePre s.ev.a t) else none
  | _ => none

/-- GRAPH_REPLAY_START (R404). -/
def execGraphReplayStart (s : State) : Host.Outcome State Fault Refusal := eventOut s (evGraphReplayStart s)

/-- A replay fails: its record's STATUS, and it starts no further node (R436). -/
def failRun (rid code : Nat) (s : State) : State :=
  match mfind rid s.runs with
  | none => s
  | some r => settleRun rid (writeStatus r.part r.status code [] [] { s with runs := minsert rid { r with failed := true } s.runs })

/-- The releases that a node's start acquires: those of its predecessors' retirement, or for a root those of the token that the replay's
record awaited (R245, R405). -/
def nodeAcq (r : GraphRun) (n : Nat) : List Tok :=
  let ps := (List.range n).filter (fun k => bit (r.preds.getD n 0) k)
  if ps.isEmpty then r.acq else ps.flatMap (fun k => (mfind k r.toks).getD [])

/-- GRAPH_NODE_START (R405, R436): operand a is the replay. A cooperative node, which is placed as it starts, waits while its queue is
pre-empted (R36). -/
def evGraphNodeStart (s : State) : Option State :=
  match mfind s.ev.a s.runs with
  | none => none
  | some r =>
    match readyNode r with
    | none => none
    | some n =>
      let rec0 := launchRec (r.nodes.getD n 0)
      let l := { rec0 with params := (r.genAddr + rec0.params) % 2 ^ 64 }
      if l.bad then some (failRun r.rid 4 s)
      else if l.coop && (mfind r.queue (preempted s r.part)).isSome then none
      else
        let g := launchGrid s r.part l
        match g.1 with
        | none => some (failRun r.rid 4 g.2)
        | some gr =>
          let t := startGrid g.2 { gr with queue := r.queue, order := r.order + n, cls := r.cls.getD gr.cls, node := some (r.rid, n), acq := nodeAcq r n }
          some (notePre r.part (if t.1 = 0 then passTurn r.part r.queue s { t.2 with runs := mmodify r.rid (fun r => { r with started := r.started ++ [n] }) t.2.runs }
            else failRun r.rid t.1 t.2))

/-- GRAPH_NODE_START (R405). -/
def execGraphNodeStart (s : State) : Host.Outcome State Fault Refusal := eventOut s (evGraphNodeStart s)

/-- TOKEN_RECORD_FIRE (R402): operand a is the partition and b the queue, whose head is a token record whose time has come. -/
def evTokenRecordFire (s : State) : Option State :=
  match headOf s s.ev.a s.ev.b with
  | some (pa, some r) =>
    if r.token && !r.bad && waitHolds s s.ev.a r && decide (r.params ≤ s.ptp.ns) && (queueGrid s s.ev.a s.ev.b).isNone then
      some (signalToken s.ev.a r.sigTok (waitToks s s.ev.a r) (nextRecord s.ev.a s.ev.b (writeStatus s.ev.a pa 1 [] [] s)))
    else none
  | _ => none

/-- TOKEN_RECORD_FIRE (R402). -/
def execTokenRecordFire (s : State) : Host.Outcome State Fault Refusal := eventOut s (evTokenRecordFire s)

/-- TOK_SIGNAL (R400): operand a is the partition and b the value written. -/
def evTokSignal (s : State) : Option State :=
  if (getPart s s.ev.a).present then some (if s.ev.b < 256 then signalToken s.ev.a s.ev.b [] s else s) else none

/-- TOK_SIGNAL (R400). -/
def execTokSignal (s : State) : Host.Outcome State Fault Refusal := eventOut s (evTokSignal s)

/-- QUEUE_TAIL is written (R395); a virtual function reaches only its own queues (R425). -/
def writeTail (part q v vf : Nat) (s : State) : State :=
  let p := getPart s part
  let t := v % 2 ^ 32
  if queueSize p q < (t + 2 ^ 32 - cget 0 q p.qhead) % 2 ^ 32 || (vf != 0 && (queueVf p q != vf || mfind vf s.vfs != some part)) then s
  else setPart part { p with qtail := cset 0 q t p.qtail } s

/-- QUEUE_TAIL (R395): operand a is the partition, b the queue, c the value; who is the virtual function that writes, if
any. -/
def evQueueTail (s : State) : Option State :=
  if (getPart s s.ev.a).present && decide (s.ev.b < 64) then some (writeTail s.ev.a s.ev.b s.ev.c (s.ev.who.getD 0) s) else none

/-- QUEUE_TAIL (R395). -/
def execQueueTail (s : State) : Host.Outcome State Fault Refusal := eventOut s (evQueueTail s)

/-- Is every queue that a virtual function holds disabled and empty (R380)? -/
def vfIdle (s : State) (vf : Nat) : Bool :=
  s.parts.all (fun e => (List.range 64).all (fun q => queueVf e.2 q != vf || (!queueOn e.2 q && queueEmpty e.2 q)))

/-- The owner that a write of a queue's VF field gives: a function is reassigned only while its queues are disabled and empty,
but takes further queues of its own partition at any time (R380). -/
def newOwner (s : State) (part old vf : Nat) : Nat :=
  if vf = old then old
  else if 192 < vf then old
  else if old != 0 && !vfIdle s old then old
  else if vf != 0 && mfind vf s.vfs != some part && !vfIdle s vf then old
  else vf

/-- QUEUE_CFG is written (R378, R380, R394): a SIZE above 12 and an owner that may not be given keep their old values; a ring outside
the partition's own channel groups leaves the register as it is. -/
def writeQueueCfg (part q v0 : Nat) (s : State) : State :=
  let p := getPart s part
  let old := cget 0 q p.qcfg
  let size := if 12 < bits v0 12 4 then bits old 12 4 else bits v0 12 4
  let vf := newOwner s part (bits old 4 8) (bits v0 4 8)
  let v := bits v0 0 4 + vf * 16 + size * 2 ^ 12 + bits v0 16 40 * 2 ^ 16
  if !ownsRange p (bits v 16 40 * 4096) (64 * 2 ^ (size + 4)) then s
  else
    let s1 := setPart part { p with qcfg := cset 0 q v p.qcfg } s
    let s2 := if vf != 0 && vf != bits old 4 8 then { s1 with vfs := minsert vf part s1.vfs } else s1
    notePre part s2

/-- QUEUE_CFG (R394): operand a is the partition, b the queue, c the value. -/
def evQueueCfg (s : State) : Option State :=
  if (getPart s s.ev.a).present && decide (s.ev.b < 64) then some (writeQueueCfg s.ev.a s.ev.b s.ev.c s) else none

/-- QUEUE_CFG (R394). -/
def execQueueCfg (s : State) : Host.Outcome State Fault Refusal := eventOut s (evQueueCfg s)

end Sys2Proof.Machine
end

