-- ==== Sys2Proof/Machine/Render.lean ====
section
/-! DEFINITION. RTRAV and TEXF (spec/19 R311, R312, R317, R321): what they read at issue. The results come by events
(EvRender). -/

namespace Sys2Proof.Machine

/-- A load of the RY path (R312): `n` destination registers, the lanes that access, and those whose sources are poisoned. -/
def renderOp (x : Ctx) (n : Nat) (bad : Nat → Bool) (kind : List Nat → OpKind) : Res :=
  let ls := reissue x (enLanes x)
  let dead := reissue x (ppLanes x) ++ ls.filter bad
  let go := ls.filter (fun l => !bad l)
  let g1 := dead.foldl (fun g l => (List.range n).foldl (fun g k => putPoison (putReg g (x.r.d + k) l 0) (x.r.d + k) l true) g) x.g
  let s1 := setGroup (go.foldl (fun g l => pendReg x.r.d n l g) g1) x.s
  let own := if dead.isEmpty then none else some (0, 0, false)
  if x.inReplay && go.isEmpty then .ok s1 { own := own }
  else
    let oid := s1.nextOp
    let s2 := addOp s1 (opOf x .ry (kind go))
    .ok (if go.isEmpty then endOp oid s2 else pump s2) { poisoned := !dead.isEmpty, own := own }

/-- RTRAV (R317). -/
def bodyRtrav (x : Ctx) : Res :=
  let root := srcB x x.lo
  if (enLanes x).isEmpty && (ppLanes x).isEmpty then .ok x.s {}
  else if root.2 then trapAll x .poison
  else
    let ray := fun (l : Nat) => (List.range 8).map (fun k => readSrc x tyU32 (x.r.a + k) x.r.ra l)
    renderOp x 8 (fun l => (ray l).any (fun w => w.2)) (fun ls => .rtrav x.r.fn x.r.d root.1 (ls.map (fun l => (l, (ray l).map (fun w => w.1)))))

/-- TEXF (R321, R322). -/
def bodyTexf (x : Ctx) : Res :=
  let ws := (List.range 8).map (fun k => (getReg x.g (x.r.c + k) 0, getPoison x.g (x.r.c + k) 0))
  if (enLanes x).isEmpty && (ppLanes x).isEmpty then .ok x.s {}
  else if ws.any (fun w => w.2) then trapAll x .poison
  else
    let rec_ := ws.map (fun w => w.1)
    match surfBad (wordsNum rec_) with
    | some c => trapAll x c
    | none => renderOp x 4 (fun l => (srcA x l).2 || (srcB x l).2) (fun ls => .texf x.r.d rec_ (ls.map (fun l => (l, (srcA x l).1, (srcB x l).1))))

/-- RTRAV (R317). -/
def execRtrav (f : Form) (s : State) : Host.Outcome State Fault Refusal := runWord (rawOf 0xc0 f) bodyRtrav s

/-- TEXF (R321). -/
def execTexf (f : Form) (s : State) : Host.Outcome State Fault Refusal := runWord (rawOf 0xc1 f) bodyTexf s

end Sys2Proof.Machine
end

