-- ==== Sys2Proof/Machine/EvRender.lean ====
section
/-! DEFINITION. The completions of RTRAV and TEXF (spec/19 R317 to R322). -/

namespace Sys2Proof.Machine

/-- The results of a render operation reach their registers, or a lane's fault poisons them (R214, R320, R322); at service level it
is a double trap and poisons nothing (R411). -/
def landRender (o : Op) (d n : Nat) (rs : List (Nat × Except Halt (List Nat))) (s : State) : State :=
  rs.foldl (fun t e => match e.2 with
    | .ok ws => landReg o.gid d n e.1 (wordsNum ws) false t
    | .error (.fault f) =>
      if o.service then partFatal o.part (opCore s o) (landReg o.gid d n e.1 0 false t)
      else ownPoison (landReg o.gid d n e.1 0 true t) o e.1 f.1 f.2 false []
    | .error (.far _ _) => t) s

/-- Completes the operation named by operand a once no lane waits for a peer. -/
def renderDone (s : State) (ok : OpKind → Option (Nat × Nat)) : Option State :=
  match findOp s s.ev.a with
  | none => none
  | some o =>
    match ok o.kind with
    | none => none
    | some (d, n) =>
      if o.isOpen || engineHeld s o then none
      else
        let r := renderLanes s o
        if (renderNeeds r.1).isEmpty then some (endOp o.oid (landRender o d n r.1 r.2)) else none

/-- RTRAV_COMPLETE (R317): operand a is the operation. -/
def evRtravComplete (s : State) : Option State := renderDone s (fun k => match k with | .rtrav _ d _ _ => some (d, 8) | _ => none)

/-- RTRAV_COMPLETE (R317). -/
def execRtravComplete (s : State) : Host.Outcome State Fault Refusal := eventOut s (evRtravComplete s)

/-- TEXF_COMPLETE (R322): operand a is the operation. -/
def evTexfComplete (s : State) : Option State := renderDone s (fun k => match k with | .texf d _ _ => some (d, 4) | _ => none)

/-- TEXF_COMPLETE (R322). -/
def execTexfComplete (s : State) : Host.Outcome State Fault Refusal := eventOut s (evTexfComplete s)

end Sys2Proof.Machine
end

