-- ==== Sys2Proof/Machine/HostSide.lean ====
section
/-! DEFINITION. The host's accesses to device memory and the host-shared window (spec/11 R195 to R197, spec/21 R367). -/

namespace Sys2Proof.Machine

/-- Does an access of the host lie in one 64-byte half of a line of local HBM (R195)? -/
def hostSpan (pa n : Nat) : Bool := decide (1 ≤ n ∧ pa / 64 = (pa + n - 1) / 64 ∧ pa + n ≤ 2 ^ 42)

/-- The half of a line that the host holds, as its cache has it. -/
def hostHas (s : State) (pa : Nat) : Option Nat :=
  match mfind (pa / 64) s.hostHalf with
  | some h => some (h.dirty.getD (memGet s h.pa 64))
  | none => none

/-- The host takes a half into its cache (R195): no core keeps a copy of the line. -/
def hostTake (pa : Nat) (dirty : Option Nat) (s : State) : State :=
  let s1 := l1Drop (recallOwner s (lineOf pa) none) (lineOf pa) (fun _ => true)
  { s1 with hostHalf := minsert (pa / 64) { pa := pa / 64 * 64, dirty := dirty } s1.hostHalf }

/-- May the host cache device memory over the link of its request (R195, R367)? -/
def hostCaches (s : State) (pa : Nat) : Bool :=
  let link := s.ev.who.getD 0
  inHostWin s pa && decide (link < 2 ∧ 2 ≤ linkMode s link)

/-- HOST_READ (R195): operand a is the address and b the length; the flag says that the host caches the half, which it may do
only in the host-shared window and, over the link named, under CXL 3.1 or 3.2 (R367). A data error is reported (R200). -/
def evHostRead (s : State) : Option State :=
  let pa := hostAt s s.ev.a
  if !hostSpan s.ev.a s.ev.b then none
  else if s.ev.flag && !hostCaches s s.ev.a then none
  else if (hostHas s pa).isSome then some s
  else
    let t := l2Mend (recallOwner s (lineOf pa) none) (lineOf pa)
    some (if lineBad t pa then lineError (partOfLine t pa) (pa / 128 * 128) t else if s.ev.flag then hostTake pa none t else t)

/-- HOST_READ (R195). -/
def execHostRead (s : State) : Host.Outcome State Fault Refusal := eventOut s (evHostRead s)

/-- HOST_WRITE (R195): operand a is the address, b the length and c the bytes; the flag says that the host writes the half in
its cache, which it may do as for HOST_READ. The reserved area is read-only to the host (R434). -/
def evHostWrite (s : State) : Option State :=
  let pa := hostAt s s.ev.a
  if !hostSpan s.ev.a s.ev.b || inReserved s.ev.a then none
  else if s.ev.flag then
    if !hostCaches s s.ev.a || (lineBad s pa && (hostHas s pa).isNone) then none
    else
      let t := recallOwner s (lineOf pa) none
      let old := (hostHas t pa).getD (memGet t (pa / 64 * 64) 64)
      some (hostTake pa (some (putBytes old (pa % 64) s.ev.b s.ev.c)) t)
  else some (deviceWrite pa s.ev.b s.ev.c s)

/-- HOST_WRITE (R195). -/
def execHostWrite (s : State) : Host.Outcome State Fault Refusal := eventOut s (evHostWrite s)

/-- HOST_WINBASE is written (R196): ignored where it changes BASE with EN set; clearing EN back-invalidates every half that
the host owns. -/
def writeWinBase (v0 : Nat) (s : State) : State :=
  let v := bits v0 0 1 + bits v0 21 31 * 2 ^ 21
  if bit s.hostWinBase 0 && bits v 21 31 != bits s.hostWinBase 21 31 then s
  else
    let s1 := if bit s.hostWinBase 0 && !bit v 0 then s.hostHalf.foldl (fun t e => claimHalf t e.2.pa 64) s else s
    { s1 with hostWinBase := v }

/-- HOST_WINBASE (R196): operand a is the value. -/
def execHostWinbase (s : State) : Host.Outcome State Fault Refusal := eventOut s (some (writeWinBase s.ev.a s))

/-- HOST_WINSIZE is written (R196): ignored while EN is set. -/
def writeWinSize (v : Nat) (s : State) : State := if bit s.hostWinBase 0 then s else { s with hostWinSize := v % 2 ^ 22 }

/-- HOST_WINSIZE (R196): operand a is the value. -/
def execHostWinsize (s : State) : Host.Outcome State Fault Refusal := eventOut s (some (writeWinSize s.ev.a s))

end Sys2Proof.Machine
end

