-- ==== Sys2Proof/Machine/Mgmt.lean ====
section
/-! DEFINITION. Registers of cores, slices and partitions that instructions and drivers reach (spec/11 R177 to R183, R209,
spec/25 R421 to R426): local-store banks, L2 ways, TLB invalidations, the debug unit. -/

namespace Sys2Proof.Machine

/-- The pad pages of a bank that resident blocks of the core hold (R179, R184). -/
def bankPages (s : State) (core bank : Nat) : Nat :=
  sumOf (s.blocks.map (fun e => if e.2.core == core then (e.2.padPages.filter (fun pg => pg / 64 == bank)).length else 0))

/-- Does a FIFO bank hold a wagon (R180)? -/
def bankHolds (s : State) (core bank : Nat) : Bool :=
  s.parts.any (fun e => e.2.chans.any (fun c => c.2.core == core && c.2.bank == bank && !c.2.wagons.isEmpty))

def modBank (core bank : Nat) (f : Bank → Bank) (s : State) : State :=
  modCore core (fun c => { c with banks := minsert bank (f (getBank c bank)) c.banks }) s

/-- LS_BANKSTAT (R179). -/
def bankStat (s : State) (core bank : Nat) : Nat :=
  let b := getBank (getCore s core) bank
  b.mode % 4 + b.state * 4 + (if b.hold then 16 else 0) + b.result * 32 + bankPages s core bank * 256

/-- Why a request is rejected (R180). -/
def bankRefusal (s : State) (core v : Nat) : Option Nat :=
  let k := bits v 0 5
  let b := getBank (getCore s core) k
  let gate := bit v 7
  let leaves := b.state == 0 && (gate || bits v 5 2 != b.mode)
  if bits v 5 2 = 3 then some 4
  else if b.state = 1 ∨ b.state = 2 then some 3
  else if b.mode = 1 && leaves && bankPages s core k != 0 then some 1
  else if b.mode = 2 && leaves && (bankHolds s core k || b.intake.isSome) then some 2
  else none

/-- The lines of a way that leaves lookup are gone from the core's L1, and what it held exclusively is back at its home (R181). -/
def dropWay (core k : Nat) (s : State) : State := l1Leave s (fun c _ e => c == core && e.way == k)

/-- LS_BANKCTL is written (R178, R180, R181): with GO, a request. A READY bank that leaves its mode is SWITCHING, a GATED one
that is brought up WAKING; `target` is the mode to come, 4 when the bank is being gated. -/
def bankWrite (core v : Nat) (s : State) : State :=
  let s1 := modCore core (fun c => { c with bankctl := v % 512 }) s
  if !bit v 9 then s1
  else
    let k := bits v 0 5
    let m := bits v 5 2
    match bankRefusal s core v with
    | some r => modBank core k (fun b => { b with hold := bit v 8, result := r }) s1
    | none =>
      let b := getBank (getCore s core) k
      let s2 := modBank core k (fun b => { b with hold := bit v 8, result := 0 }) s1
      if b.state = 3 then (if bit v 7 then s2 else modBank core k (fun b => { b with mode := m, state := 2, target := m }) s2)
      else if bit v 7 || m != b.mode then
        let s3 := modBank core k (fun b => { b with mode := m, state := 1, target := if bit v 7 then 4 else m }) s2
        if b.mode = 0 then dropWay core k s3 else s3
      else s2

/-- Is a request on the bank still running (R421)? -/
def bankBusy (s : State) (core bank : Nat) : Bool :=
  let b := getBank (getCore s core) bank
  b.state == 1 || b.state == 2

/-- Ends the operations of CSRWs that wait for a bank (R421). -/
def endBankOps (core bank : Nat) (s : State) : State :=
  (s.ops.filter (fun o => opCore s o == core && (match o.kind with | .service 0 b => b == bank | _ => false))).foldl (fun t o => endOp o.oid t) s

/-- The pages that a TLB_INV value covers, as an address and a length within 57 bits (R423). -/
def tlbRange (v : Nat) : Nat × Nat :=
  if bit v 0 then (0, 2 ^ 57)
  else
    let lg := if bits v 1 2 = 0 then 16 else if bits v 1 2 = 1 then 21 else 30
    (bits v 16 41 * 2 ^ 16 / 2 ^ lg * 2 ^ lg, 2 ^ lg)

/-- Does a range of virtual addresses meet a page? -/
def meetsVa (r : Nat × Nat) (va n : Nat) : Bool := decide (va % 2 ^ 57 < r.1 + r.2 ∧ r.1 < va % 2 ^ 57 + n)

/-- Is an access that was translated through the pages not yet complete (R208, R423)? A store or atomic is once every update of it is
acknowledged (R229). -/
def tlbBusy (s : State) (part : Nat) (r : Nat × Nat) : Bool :=
  s.ops.any (fun o => o.part == part && !o.finished && o.accs.any (fun a =>
    !a.pad && a.act != 5 && meetsVa r a.va (max 1 a.n) && (a.isOpen || s.updates.any (fun u => u.oid == o.oid))))

/-- What an invalidation does when it completes (R208, R209, R423). One of a smaller SIZE than a page drops the entries it overlaps, and
clears VALID where it covers VBASE itself: the model's choice (log 66). -/
def tlbDrop (part : Nat) (r : Nat × Nat) (s : State) : State :=
  let s1 := tlbEvict (fun e => e.part == part && meetsVa r (e.vpage * 2 ^ e.log) (2 ^ e.log)) s
  { s1 with groups := s1.groups.map (fun e => if partOf s e.2 == part then
      (e.1, { e.2 with xregs := e.2.xregs.map (fun x => if x.2.valid && meetsVa r x.2.vbase 1 then (x.1, { x.2 with valid := false }) else x) }) else e) }

/-- TLB_INV is written (R423): the invalidation joins those of the partition. -/
def tlbWrite (part v : Nat) (oid : Option Nat) (s : State) : State :=
  if bits v 1 2 = 3 then s
  else
    let w := bits v 0 3 + bits v 16 41 * 2 ^ 16
    modPart part (fun p => { p with tlbInvReg := w, tlbInv := p.tlbInv ++ [(w, oid)] }) s

/-- A register of the debug unit: a compare entry (R426). -/
def dbgWrite (core k v : Nat) (s : State) : State := modCore core (fun c => { c with dbgCmp := cset 0 k (v % 2 ^ 64) c.dbgCmp }) s

/-- A register that CSRR and CSRW name (R422): who holds it, its place there, whether user level may read it, and whether it
is written. -/
inductive Csr where
  | tr (k : Nat)
  | scratch (k : Nat)
  | svcEntry
  | devstat
  | pwrstat
  | dbgCmp (k : Nat)
  | dbgCtl
  | bankCtl
  | bankStat (k : Nat)
  | tlbInv
deriving DecidableEq, Repr

/-- The CSR numbers (R422). -/
def csrOf (n : Nat) : Option Csr :=
  if n < 8 then some (.tr n)
  else if 0x10 ≤ n ∧ n < 0x14 then some (.scratch (n - 0x10))
  else if n = 0x20 then some .svcEntry
  else if n = 0x30 then some .devstat
  else if n = 0x31 then some .pwrstat
  else if 0x40 ≤ n ∧ n < 0x48 then some (.dbgCmp (n - 0x40))
  else if n = 0x48 then some .dbgCtl
  else if n = 0x50 then some .bankCtl
  else if 0x60 ≤ n ∧ n < 0x80 then some (.bankStat (n - 0x60))
  else if n = 0x80 then some .tlbInv
  else none

def Csr.userReads : Csr → Bool
  | .devstat => true
  | .pwrstat => true
  | _ => false

def Csr.writable : Csr → Bool
  | .scratch _ => true
  | .dbgCmp _ => true
  | .dbgCtl => true
  | .bankCtl => true
  | .tlbInv => true
  | _ => false

/-- A register as it reads on a core of a partition for a group (R413, R422). -/
def csrRead (s : State) (core part : Nat) (g : Group) : Csr → Nat
  | .tr 0 => g.tr.cause
  | .tr 1 => g.tr.pc
  | .tr 2 => g.tr.lane0
  | .tr 3 => g.tr.lane1
  | .tr 4 => g.tr.origin
  | .tr 5 => g.tr.srctr
  | .tr 6 => g.tr.addr
  | .tr _ => g.tr.aux
  | .scratch k => cget 0 k g.scratch
  | .svcEntry => (getPart s part).svcEntry
  | .devstat => s.boot.devstat
  | .pwrstat => s.boot.pwrStat
  | .dbgCmp k => cget 0 k (getCore s core).dbgCmp
  | .dbgCtl => readDbgCtl s core
  | .bankCtl => (getCore s core).bankctl
  | .bankStat k => bankStat s core k
  | .tlbInv => (getPart s part).tlbInvReg

/-- L2_WAYCTL of a slice (R183): ON in [15:0], READY in [31:16]; the model's own bits [47:32] are set while a way's dirty
lines are being written. -/
def waysOf (s : State) (slice : Nat) : Nat := cget 0xFFFFFFFF slice s.ways

def setWays (slice v : Nat) (s : State) : State := { s with ways := cset 0xFFFFFFFF slice v s.ways }

/-- Way `w` leaves lookup (R183). -/
def wayGate (slice w : Nat) (s : State) : State :=
  let v := waysOf s slice
  if bit v w then setWays slice (v - 2 ^ w - (if bit v (16 + w) then 2 ^ (16 + w) else 0) + (if bit v (32 + w) then 0 else 2 ^ (32 + w))) s else s

/-- Way `w` is powered and being filled (R183). -/
def wayWake (slice w : Nat) (s : State) : State :=
  let v := waysOf s slice
  if bit v w then s else setWays slice (v + 2 ^ w) s

/-- L2_WAYCTL is written. -/
def wayWrite (slice v : Nat) (s : State) : State :=
  (List.range 16).foldl (fun t w => if bit v w then wayWake slice w t else wayGate slice w t) s

/-- Does a partition own the slice (R378)? -/
def ownsSlice (p : Part) (n : Nat) : Bool := bit p.slices n
def sliceOwned (s : State) (n : Nat) : Bool := s.parts.any (fun e => e.2.present && ownsSlice e.2 n)

/-- LS_BANK_SWITCH (R180): operand a is the core and b the value, with GO set and GATE clear. -/
def execLsBankSwitch (s : State) : Host.Outcome State Fault Refusal :=
  eventOut s (if bit s.ev.b 9 && !bit s.ev.b 7 && coreOwned s s.ev.a then some (bankWrite s.ev.a s.ev.b s) else none)

/-- LS_BANK_GATE (R180): operand a is the core and b the value, with GO and GATE set. -/
def execLsBankGate (s : State) : Host.Outcome State Fault Refusal :=
  eventOut s (if bit s.ev.b 9 && bit s.ev.b 7 && coreOwned s s.ev.a then some (bankWrite s.ev.a s.ev.b s) else none)

/-- LS_BANK_SWITCH_DONE (R181): operand a is the core and b the bank, which is gated, or is filled with zeros for its new mode. -/
def evLsBankSwitchDone (s : State) : Option State :=
  let b := getBank (getCore s s.ev.a) s.ev.b
  if b.state ≠ 1 then none
  else
    let s1 := modBank s.ev.a s.ev.b (fun b => { b with state := if b.target = 4 then 3 else 2 }) s
    some (if b.target = 4 then endBankOps s.ev.a s.ev.b s1 else s1)

/-- LS_BANK_SWITCH_DONE (R181). -/
def execLsBankSwitchDone (s : State) : Host.Outcome State Fault Refusal := eventOut s (evLsBankSwitchDone s)

/-- LS_BANK_WAKE_DONE (R181): operand a is the core and b the bank. -/
def evLsBankWakeDone (s : State) : Option State :=
  if (getBank (getCore s s.ev.a) s.ev.b).state = 2 then
    some (endBankOps s.ev.a s.ev.b (modBank s.ev.a s.ev.b (fun b => { b with state := 0 }) s)) else none

/-- LS_BANK_WAKE_DONE (R181). -/
def execLsBankWakeDone (s : State) : Host.Outcome State Fault Refusal := eventOut s (evLsBankWakeDone s)

/-- L2_WAY_GATE (R183): operand a is the slice and b the way. -/
def execL2WayGate (s : State) : Host.Outcome State Fault Refusal :=
  eventOut s (if s.ev.b < 16 ∧ bit (waysOf s s.ev.a) s.ev.b ∧ sliceOwned s s.ev.a then some (wayGate s.ev.a s.ev.b s) else none)

/-- L2_WAY_GATE_DONE (R183): operand a is the slice and b the way. -/
def execL2WayGateDone (s : State) : Host.Outcome State Fault Refusal :=
  eventOut s (if s.ev.b < 16 ∧ bit (waysOf s s.ev.a) (32 + s.ev.b) then some (setWays s.ev.a (waysOf s s.ev.a - 2 ^ (32 + s.ev.b)) s) else none)

/-- L2_WAY_WAKE (R183): operand a is the slice and b the way. -/
def execL2WayWake (s : State) : Host.Outcome State Fault Refusal :=
  eventOut s (if s.ev.b < 16 ∧ !bit (waysOf s s.ev.a) s.ev.b ∧ sliceOwned s s.ev.a then some (wayWake s.ev.a s.ev.b s) else none)

/-- L2_WAY_WAKE_DONE (R183): operand a is the slice and b the way. -/
def execL2WayWakeDone (s : State) : Host.Outcome State Fault Refusal :=
  let v := waysOf s s.ev.a
  eventOut s (if s.ev.b < 16 ∧ bit v s.ev.b ∧ !bit v (16 + s.ev.b) ∧ !bit v (32 + s.ev.b) then some (setWays s.ev.a (v + 2 ^ (16 + s.ev.b)) s) else none)

/-- TLB_INV (R423): operand a is the partition and b the value written through the management window. -/
def execTlbInv (s : State) : Host.Outcome State Fault Refusal :=
  eventOut s (if (getPart s s.ev.a).present then some (tlbWrite s.ev.a s.ev.b none s) else none)

/-- TLB_INV_COMPLETE (R423): operand a is the partition; its oldest invalidation completes. -/
def evTlbInvComplete (s : State) : Option State :=
  match (getPart s s.ev.a).tlbInv with
  | [] => none
  | (v, oid) :: rest =>
    if tlbBusy s s.ev.a (tlbRange v) then none
    else
      let s1 := modPart s.ev.a (fun p => { p with tlbInv := rest }) (tlbDrop s.ev.a (tlbRange v) s)
      some (match oid with | some i => endOp i s1 | none => s1)

/-- TLB_INV_COMPLETE (R423). -/
def execTlbInvComplete (s : State) : Host.Outcome State Fault Refusal := eventOut s (evTlbInvComplete s)

/-- DRAY_CFG is written (R210): every frame is invalid. A write whose frames and tags do not lie in the partition's own
channel groups is ignored (R378). -/
def drayWriteCfg (part v : Nat) (s : State) : State :=
  if !ownsRange (getPart s part) (bits v 16 36 * 65536) (bits v 0 16 * 65664) then s
  else modPart part (fun p => { p with drayCfg := v % 2 ^ 52 }) { s with dray := s.dray.filter (fun e => e.1 / 2 ^ 16 != part) }

/-- DRAY_CFG (R210): operand a is the partition and b the value. -/
def execDrayCfg (s : State) : Host.Outcome State Fault Refusal :=
  eventOut s (if (getPart s s.ev.a).present then some (drayWriteCfg s.ev.a s.ev.b s) else none)

end Sys2Proof.Machine
end

