-- ==== Sys2Proof/Machine/Sha.lean ====
section
/-! DEFINITION. SHA-512 and Ed25519, which the firmware uses (spec/25 R427 to R431, spec/03 R81, R83). The spec names them and
does not define them: they are those of FIPS 180-4 and RFC 8032 (PRESUMED, log 12). Byte strings are lists of numbers. -/

namespace Sys2Proof.Machine

/-- The round constants of SHA-512. -/
def shaK : List Nat :=
  [0x428a2f98d728ae22, 0x7137449123ef65cd, 0xb5c0fbcfec4d3b2f, 0xe9b5dba58189dbbc, 0x3956c25bf348b538, 0x59f111f1b605d019, 0x923f82a4af194f9b, 0xab1c5ed5da6d8118] ++
  [0xd807aa98a3030242, 0x12835b0145706fbe, 0x243185be4ee4b28c, 0x550c7dc3d5ffb4e2, 0x72be5d74f27b896f, 0x80deb1fe3b1696b1, 0x9bdc06a725c71235, 0xc19bf174cf692694] ++
  [0xe49b69c19ef14ad2, 0xefbe4786384f25e3, 0x0fc19dc68b8cd5b5, 0x240ca1cc77ac9c65, 0x2de92c6f592b0275, 0x4a7484aa6ea6e483, 0x5cb0a9dcbd41fbd4, 0x76f988da831153b5] ++
  [0x983e5152ee66dfab, 0xa831c66d2db43210, 0xb00327c898fb213f, 0xbf597fc7beef0ee4, 0xc6e00bf33da88fc2, 0xd5a79147930aa725, 0x06ca6351e003826f, 0x142929670a0e6e70] ++
  [0x27b70a8546d22ffc, 0x2e1b21385c26c926, 0x4d2c6dfc5ac42aed, 0x53380d139d95b3df, 0x650a73548baf63de, 0x766a0abb3c77b2a8, 0x81c2c92e47edaee6, 0x92722c851482353b] ++
  [0xa2bfe8a14cf10364, 0xa81a664bbc423001, 0xc24b8b70d0f89791, 0xc76c51a30654be30, 0xd192e819d6ef5218, 0xd69906245565a910, 0xf40e35855771202a, 0x106aa07032bbd1b8] ++
  [0x19a4c116b8d2d0c8, 0x1e376c085141ab53, 0x2748774cdf8eeb99, 0x34b0bcb5e19b48a8, 0x391c0cb3c5c95a63, 0x4ed8aa4ae3418acb, 0x5b9cca4f7763e373, 0x682e6ff3d6b2b8a3] ++
  [0x748f82ee5defb2fc, 0x78a5636f43172f60, 0x84c87814a1f0ab72, 0x8cc702081a6439ec, 0x90befffa23631e28, 0xa4506cebde82bde9, 0xbef9a3f7b2c67915, 0xc67178f2e372532b] ++
  [0xca273eceea26619c, 0xd186b8c721c0c207, 0xeada7dd6cde0eb1e, 0xf57d4f7fee6ed178, 0x06f067aa72176fba, 0x0a637dc5a2c898a6, 0x113f9804bef90dae, 0x1b710b35131c471b] ++
  [0x28db77f523047d84, 0x32caab7b40c72493, 0x3c9ebe0a15c9bebc, 0x431d67c49c100d4c, 0x4cc5d4becb3e42b6, 0x597f299cfc657e2a, 0x5fcb6fab3ad6faec, 0x6c44198c4a475817]

/-- The initial hash value. -/
def shaInit : List Nat :=
  [0x6a09e667f3bcc908, 0xbb67ae8584caa73b, 0x3c6ef372fe94f82b, 0xa54ff53a5f1d36f1] ++
  [0x510e527fade682d1, 0x9b05688c2b3e6c1f, 0x1f83d9abfb41bd6b, 0x5be0cd19137e2179]

/-- A 64-bit word rotated right. -/
def rotr64 (x n : Nat) : Nat := (x >>> n) ||| ((x <<< (64 - n)) % 2 ^ 64)

/-- The number whose bytes, highest first, are given. -/
def ofBytesBE (bs : List Nat) : Nat := bs.foldl (fun a b => a * 256 + b % 256) 0

/-- The `n` bytes of a number, highest first. -/
def bytesBE (n w : Nat) : List Nat := (bytesOf n w).reverse

/-- The message schedule, in reverse: `n` more words after those given. -/
def shaSched : Nat → List Nat → List Nat
  | 0, w => w
  | n + 1, w =>
    let a := w.getD 1 0
    let b := w.getD 14 0
    let s1 := rotr64 a 19 ^^^ rotr64 a 61 ^^^ (a >>> 6)
    let s0 := rotr64 b 1 ^^^ rotr64 b 8 ^^^ (b >>> 7)
    shaSched n ((s1 + w.getD 6 0 + s0 + w.getD 15 0) % 2 ^ 64 :: w)

/-- One round of the compression with the constant and the schedule's word. -/
def shaRound (v : List Nat) (kw : Nat × Nat) : List Nat :=
  match v with
  | [a, b, c, d, e, f, g, h] =>
    let t1 := h + (rotr64 e 14 ^^^ rotr64 e 18 ^^^ rotr64 e 41) + ((e &&& f) ^^^ ((2 ^ 64 - 1 - e) &&& g)) + kw.1 + kw.2
    let t2 := (rotr64 a 28 ^^^ rotr64 a 34 ^^^ rotr64 a 39) + ((a &&& b) ^^^ (a &&& c) ^^^ (b &&& c))
    [(t1 + t2) % 2 ^ 64, a, b, c, (d + t1) % 2 ^ 64, e, f, g]
  | _ => v

/-- The hash value after one block of 128 bytes. -/
def shaBlock (hv block : List Nat) : List Nat :=
  let w0 := (List.range 16).map (fun i => ofBytesBE ((block.drop (8 * i)).take 8))
  let w := (shaSched 64 w0.reverse).reverse
  let v := (shaK.zip w).foldl shaRound hv
  (hv.zip v).map (fun e => (e.1 + e.2) % 2 ^ 64)

/-- The hash value after the blocks of a padded message. -/
def shaBlocks : Nat → List Nat → List Nat → List Nat
  | 0, hv, _ => hv
  | n + 1, hv, m => shaBlocks n (shaBlock hv (m.take 128)) (m.drop 128)

/-- SHA-512 of a byte string. -/
def sha512 (m : List Nat) : List Nat :=
  let n := m.length
  let pad := (239 - n % 128) % 128
  let padded := m ++ [0x80] ++ List.replicate pad 0 ++ bytesBE 16 (8 * n)
  (shaBlocks (padded.length / 128) shaInit padded).flatMap (bytesBE 8)

/-- The field prime of edwards25519. -/
def edP : Nat := 2 ^ 255 - 19

/-- The order of its base point. -/
def edL : Nat := 2 ^ 252 + 27742317777372353535851937790883648493

/-- A power modulo the field prime; `n` bits of the exponent count. -/
def edPow : Nat → Nat → Nat → Nat
  | 0, _, _ => 1
  | n + 1, x, e => let y := edPow n (x * x % edP) (e / 2); if e % 2 = 1 then x * y % edP else y

def edInv (x : Nat) : Nat := edPow 255 x (edP - 2)

/-- The curve's constant d. -/
def edD : Nat := (edP - 121665) * edInv 121666 % edP

/-- A point in extended coordinates X, Y, Z, T. -/
abbrev EdPt := Nat × Nat × Nat × Nat

def edAdd (p q : EdPt) : EdPt :=
  match p, q with
  | (x1, y1, z1, t1), (x2, y2, z2, t2) =>
    let a := (y1 + edP - x1) * (y2 + edP - x2) % edP
    let b := (y1 + x1) * (y2 + x2) % edP
    let c := 2 * t1 * t2 * edD % edP
    let d := 2 * z1 * z2 % edP
    let e := b + edP - a
    let f := d + edP - c
    let g := d + c
    let h := b + a
    (e * f % edP, g * h % edP, f * g % edP, e * h % edP)

/-- A multiple of a point; `n` bits of the factor count. -/
def edMul : Nat → Nat → EdPt → EdPt
  | 0, _, _ => (0, 1, 1, 0)
  | n + 1, k, p => let q := edMul n (k / 2) (edAdd p p); if k % 2 = 1 then edAdd p q else q

/-- Are two points the same? -/
def edSame (p q : EdPt) : Bool :=
  (p.1 * q.2.2.1) % edP == (q.1 * p.2.2.1) % edP && (p.2.1 * q.2.2.1) % edP == (q.2.1 * p.2.2.1) % edP

/-- The point with a y and the low bit of its x. -/
def edPoint (y sign : Nat) : Option EdPt :=
  if edP ≤ y then none
  else
    let x2 := (y * y + edP - 1) % edP * edInv ((edD * y % edP * y + 1) % edP) % edP
    let x0 := edPow 253 x2 ((edP + 3) / 8)
    let x1 := if x0 * x0 % edP = x2 then x0 else x0 * edPow 255 2 ((edP - 1) / 4) % edP
    if x1 * x1 % edP ≠ x2 then none
    else if x1 = 0 ∧ sign = 1 then none
    else
      let x := if x1 % 2 = sign then x1 else edP - x1
      some (x, y, 1, x * y % edP)

/-- The base point. -/
def edB : EdPt := (edPoint (4 * edInv 5 % edP) 0).getD (0, 1, 1, 0)

/-- The 32 bytes of a point. -/
def edEncode (p : EdPt) : List Nat :=
  let z := edInv p.2.2.1
  bytesOf 32 (p.2.1 * z % edP + 2 ^ 255 * (p.1 * z % edP % 2))

def edDecode (bs : List Nat) : Option EdPt := let n := ofBytes bs; edPoint (n % 2 ^ 255) (n / 2 ^ 255 % 2)

/-- The secret scalar and the prefix of a 32-byte seed. -/
def edSecret (seed : List Nat) : Nat × List Nat :=
  let h := sha512 seed
  (ofBytes (h.take 32) % 2 ^ 254 / 8 * 8 + 2 ^ 254, h.drop 32)

/-- The public key of a seed. -/
def edPublic (seed : List Nat) : List Nat := edEncode (edMul 255 (edSecret seed).1 edB)

/-- The signature of a message. -/
def edSign (seed m : List Nat) : List Nat :=
  let sk := edSecret seed
  let pub := edEncode (edMul 255 sk.1 edB)
  let r := ofBytes (sha512 (sk.2 ++ m)) % edL
  let rs := edEncode (edMul 253 r edB)
  let k := ofBytes (sha512 (rs ++ pub ++ m)) % edL
  rs ++ bytesOf 32 ((r + k * sk.1) % edL)

/-- Does a signature of 64 bytes check under a public key? -/
def edVerify (pub m sig : List Nat) : Bool :=
  match edDecode (sig.take 32), edDecode pub with
  | some r, some a =>
    let sc := ofBytes (sig.drop 32)
    let k := ofBytes (sha512 (sig.take 32 ++ pub ++ m)) % edL
    decide (sc < edL) && edSame (edMul 253 sc edB) (edAdd r (edMul 253 k a))
  | _, _ => false

end Sys2Proof.Machine
end

