-- ==== Sys2Proof/Machine/Resize.lean ====
section
/-! DEFINITION. Partitions and their resizes (spec/23 R378 to R393), and the registers PART_WCHAN and LANDAU_PID. -/

namespace Sys2Proof.Machine

/-- Resources that other partitions own or a running growth of theirs has latched (R378, R385). -/
def takenBy (s : State) (part : Nat) (own next : Part → Nat) : Nat :=
  (s.parts.filter (fun e => e.1 != part)).foldl (fun m e => m ||| own e.2 ||| (if e.2.state != 0 && e.2.growing then next e.2 else 0)) 0

/-- The entries of an evacuation table as frame numbers; none where the table breaks R390. `leave` and `stay` are the channel
groups that leave and that remain. -/
def evacTable (s : State) (at_ leave stay : Nat) : Option (List (Nat × Nat)) :=
  let n := memGet s at_ 16
  if 2 ^ 26 < n ∨ 2 ^ 42 < at_ + 16 + 16 * n then none
  else if (List.range ((16 + 16 * n) / 128 + 2)).any (fun k => lineBad s (at_ + 128 * k)) then none
  else
    let es := (List.range n).map (fun k => (memGet s (at_ + 16 + 16 * k) 8, memGet s (at_ + 24 + 16 * k) 8))
    let frame := fun (set pa : Nat) => pa % 65536 == 0 && decide (pa < 2 ^ 42) && bit set (pa / 2 ^ 35) && !inReserved pa
    if es.all (fun e => frame leave e.1 && frame stay e.2) && decide (es.map (fun e => e.1)).Nodup && decide (es.map (fun e => e.2)).Nodup then
      some (es.map (fun e => (e.1 / 65536, e.2 / 65536)))
    else none

/-- The partition with a resize's targets latched (R386). -/
def latched (p : Part) (grow : Bool) (evac : List (Nat × Nat)) : Part :=
  { p with state := 1, result := 0, shunted := 0, growing := grow, nquads := p.tquads, nslices := p.tslices, nchgrps := p.tchgrps
           evacPending := evac, forward := [] }

/-- Can the remaining cores take every cooperative block of the leaving ones (R385)? -/
def coopRoom (s : State) (part : Nat) : Bool := roomFor s part [] (coopMoves s part)

/-- Does a block of the partition exist, resident or saved? -/
def hasBlocks (s : State) (part : Nat) : Bool := s.blocks.any (fun e => ((getGrid s e.2.grid).map (fun g => g.part == part)).getD false)

/-- Nothing of a partition that a fatal error stopped runs any more (R432, log 32). -/
def clearPart (part : Nat) (s : State) : State :=
  let gone := s.groups.filter (fun e => partOf s e.2 == part)
  let isGone := fun (i : Nat) => gone.any (fun e => e.1 == i)
  { s with
    groups := s.groups.filter (fun e => !isGone e.1)
    ops := s.ops.filter (fun o => !isGone o.gid)
    blocks := s.blocks.filter (fun e => !(((getGrid s e.2.grid).map (fun g => g.part == part)).getD false))
    grids := s.grids.filter (fun e => e.2.part != part)
    runs := s.runs.filter (fun e => e.2.part != part)
    cores := s.cores.map (fun e => (e.1, { e.2 with waiters := e.2.waiters.filter (fun w => !isGone w.1) })) }

/-- Why a GO is refused, in the order of R385; 0 when it is accepted, with the evacuation table. -/
def goCheck (s : State) (part : Nat) (grow : Bool) : Nat × List (Nat × Nat) :=
  let p := getPart s part
  let sets := [(p.quads, p.tquads), (p.slices, p.tslices), (p.chgrps, p.tchgrps)]
  let same := sets.all (fun e => e.1 == e.2)
  let nested := sets.all (fun e => if grow then e.1 &&& e.2 == e.1 else e.1 &&& e.2 == e.2)
  let taken := (p.tquads &&& takenBy s part Part.quads Part.nquads) + (p.tslices &&& takenBy s part Part.slices Part.nslices) +
    (p.tchgrps &&& takenBy s part Part.chgrps Part.nchgrps)
  let empties := (sets.filter (fun e => e.2 == 0)).length
  let leaves := p.chgrps - (p.chgrps &&& p.tchgrps)
  let q := latched p grow []
  let table := if grow || leaves == 0 then some [] else evacTable s (bits p.evac 4 48 * 16) leaves p.tchgrps
  if p.state ≠ 0 then (1, [])
  else if same || !nested then (2, [])
  else if grow && taken != 0 then (3, [])
  else if !grow && (empties == 1 || empties == 2) then (4, [])
  else if !grow && empties == 3 && ((List.range 64).any (queueOn p) || (!p.fatal && hasBlocks s part)) then (4, [])
  else if p.chans.any (fun c => coreLeaves q c.2.core) then (5, [])
  else if !grow && !(p.fatal && empties == 3) && !coopRoom (setPart part q s) part then (6, [])
  else match table with
    | none => (7, [])
    | some t => (0, t)

/-- GO (R385): operand a is the partition; the flag is GROW. A refused GO changes nothing but RESULT. -/
def goAct (part : Nat) (grow : Bool) (s : State) : State :=
  let c := goCheck s part grow
  let p := getPart s part
  if c.1 = 0 then
    let s1 := setPart part (latched p grow c.2) s
    if p.fatal && !grow && p.tquads == 0 then clearPart part s1 else s1
  else setPart part { p with result := c.1 } s

/-- PART_RESIZE's GROW bit is written, and GO with it (R383, R385). -/
def evGoResize (s : State) : Option State :=
  if s.ev.a < 40 then some (goAct s.ev.a s.ev.flag (modPart s.ev.a (fun p => { p with grow := s.ev.flag }) s)) else none

/-- GO (R385). -/
def execGoResize (s : State) : Host.Outcome State Fault Refusal := eventOut s (evGoResize s)

/-- CANCEL in PLAN (R386); ignored in any other state. -/
def cancelAct (part : Nat) (s : State) : State :=
  let p := getPart s part
  if p.state = 1 then partIrq part 4 (setPart part { p with state := 0, evacPending := [] } s) else s

/-- CANCEL (R386): operand a is the partition. -/
def execCancel (s : State) : Host.Outcome State Fault Refusal := eventOut s (if s.ev.a < 40 then some (cancelAct s.ev.a s) else none)

/-- EVDONE ends forwarding and starts SCRUB, once every listed frame is copied (R390); ignored otherwise. -/
def evdoneAct (part : Nat) (s : State) : State :=
  let p := getPart s part
  if p.state = 5 && p.evacPending.isEmpty then settleResize 4 part (setPart part { p with state := 6, forward := [] } s) else s

/-- EVDONE (R390): operand a is the partition. -/
def execEvdone (s : State) : Host.Outcome State Fault Refusal := eventOut s (if s.ev.a < 40 then some (evdoneAct s.ev.a s) else none)

/-- PLAN_DONE (R386): operand a is the partition. -/
def evPlanDone (s : State) : Option State :=
  let p := getPart s s.ev.a
  if p.state ≠ 1 then none
  else some (settleResize 4 s.ev.a (setPart s.ev.a { p with state := if p.growing then 2 else 3 } s))

/-- PLAN_DONE (R386). -/
def execPlanDone (s : State) : Host.Outcome State Fault Refusal := eventOut s (evPlanDone s)

/-- The attestation record of a new partition (R431). -/
def firstAr (part : Nat) : List Nat := sha512 (List.replicate 64 0 ++ [part] ++ bytesOf 16 Config.serial.toNat)

/-- ADMIT (R386, R392, R431): operand a is the partition. Joining resources become its own; one that had none is created. -/
def evAdmit (s : State) : Option State :=
  let p := getPart s s.ev.a
  if p.state ≠ 2 then none
  else
    let p1 := { p with quads := p.nquads, slices := p.nslices, chgrps := p.nchgrps, present := true, state := 4, oldSlices := p.slices, moved := []
                       ar := if p.present then p.ar else firstAr s.ev.a }
    some (settleResize 4 s.ev.a (notePre s.ev.a (setPart s.ev.a p1 s)))

/-- ADMIT (R386). -/
def execAdmit (s : State) : Host.Outcome State Fault Refusal := eventOut s (evAdmit s)

/-- Is a block on its way from the core to another (R388)? -/
def moving (s : State) (part core : Nat) : Bool :=
  s.blocks.any (fun e => e.2.core == core && (e.2.place == .draining .shunt || (e.2.place == .saved .shunt && (pickSaved s part e.2).isSome)))

/-- SHUNT_MOVE (R388): operand a is the block. Its move begins: it stops issuing and its paths drain. A core's blocks move one
at a time, the next once the last is restored. -/
def evShuntMove (s : State) : Option State :=
  match mfind s.ev.a s.blocks with
  | none => none
  | some b =>
    let part := ((getGrid s b.grid).map (fun g => g.part)).getD 0
    let p := getPart s part
    if p.state = 3 && coreLeaves p b.core && b.place == .resident && !moving s part b.core then
      some (setBlock { b with place := .draining .shunt } s)
    else none

/-- SHUNT_MOVE (R388). -/
def execShuntMove (s : State) : Host.Outcome State Fault Refusal := eventOut s (evShuntMove s)

/-- The lines that a partition's homes hold an entry of (R188, R389). -/
def heldLines (s : State) (part : Nat) : List Nat :=
  let p := getPart s part
  let ls := s.dir.map (fun e => e.1) ++ s.l1.map (fun e => e.1 % 2 ^ 45)
  (ls.filter (fun l => ownsPa p (l * 128) || decide (2 ^ 35 ≤ l))).eraseDups

/-- Must the line still move to its new home (R389)? -/
def mustMove (p : Part) (line : Nat) : Bool :=
  homeSlice p.oldSlices (line * 128) != homeSlice (newSlices p) (line * 128) && (mfind line p.moved).isNone

/-- REHASH_SWEEP (R389): operand a is the partition and b the line, whose entry moves to its new home as one step. -/
def evRehashSweep (s : State) : Option State :=
  let p := getPart s s.ev.a
  if p.state = 4 && (heldLines s s.ev.a).contains s.ev.b && mustMove p s.ev.b then
    some (setPart s.ev.a { p with moved := minsert s.ev.b true p.moved } s)
  else none

/-- REHASH_SWEEP (R389). -/
def execRehashSweep (s : State) : Host.Outcome State Fault Refusal := eventOut s (evRehashSweep s)

/-- REHASH_DONE (R389): operand a is the partition; no entry is left to move. -/
def evRehashDone (s : State) : Option State :=
  let p := getPart s s.ev.a
  if p.state = 4 && !((heldLines s s.ev.a).any (mustMove p)) then
    some (settleResize 4 s.ev.a (setPart s.ev.a { p with oldSlices := newSlices p, moved := [] } s))
  else none

/-- REHASH_DONE (R389). -/
def execRehashDone (s : State) : Host.Outcome State Fault Refusal := eventOut s (evRehashDone s)

/-- Moves the addresses of one frame to another. -/
def moveFrame (src dst pa : Nat) : Nat := if pa / 65536 = src then dst * 65536 + pa % 65536 else pa

/-- A table with the entries of frame `src` copied over those of frame `dst`; a frame has `w` keys. -/
def shiftFrame {α : Type} (src dst w : Nat) (m : List (Nat × α)) : List (Nat × α) :=
  (m.filter (fun e => e.1 / w == src)).foldl (fun t e => minsert (dst * w + e.1 % w) e.2 t) (m.filter (fun e => e.1 / w != dst))

/-- Copies a frame with its line tags, and forwards what is outstanding on it (R390). -/
def copyFrame (src dst : Nat) (s : State) : State :=
  let inFrame := fun (f line : Nat) => line / 512 == f
  let s1 := (s.hostHalf.filter (fun e => e.2.pa / 65536 == src || e.2.pa / 65536 == dst)).foldl (fun t e => claimHalf t e.2.pa 64) s
  let gone := fun (line : Nat) => inFrame src line || inFrame dst line
  { s1 with
    mem := shiftFrame src dst 65536 s1.mem
    past := shiftFrame src dst 65536 s1.past
    tags := shiftFrame src dst 512 s1.tags
    lineErr := shiftFrame src dst 512 s1.lineErr
    l1 := s1.l1.filter (fun e => !gone (e.1 % 2 ^ 45))
    updates := s1.updates.filter (fun u => !gone (lineOf u.pa))
    dir := s1.dir.filter (fun e => !gone e.1)
    il := s1.il.filter (fun e => !gone (e.1 % 2 ^ 45))
    ops := s1.ops.map (fun o => { o with
      accs := o.accs.map (fun a => { a with pieces := a.pieces.map (fun p => { p with pa := moveFrame src dst p.pa }) })
      kind := match o.kind with
        | .cache fn rs inv => .cache fn (rs ++ (rs.filter (fun r => decide (r.1 < (src + 1) * 65536 ∧ src * 65536 < r.1 + r.2))).map (fun r =>
            (r.1 - min r.1 (src * 65536) + dst * 65536, min r.2 65536))) inv
        | k => k }) }

/-- EVAC_FRAME_COPY (R390): operand a is the partition; the first listed frame that is not copied yet is copied, and
forwarding to it begins. -/
def evEvacFrameCopy (s : State) : Option State :=
  let p := getPart s s.ev.a
  match p.evacPending with
  | (src, dst) :: rest =>
    if p.state ≠ 5 then none
    else some (modPart s.ev.a (fun p => { p with evacPending := rest, forward := minsert src dst p.forward }) (copyFrame src dst s))
  | [] => none

/-- EVAC_FRAME_COPY (R390). -/
def execEvacFrameCopy (s : State) : Host.Outcome State Fault Refusal := eventOut s (evEvacFrameCopy s)

/-- Empties a core quad (R391, R393, log 33); a wagon channel opened there since the GO goes with its FIFO bank. -/
def scrubQuad (part q : Nat) (s0 : State) : State :=
  let mine := fun (c : Nat) => c / 4 == q
  let s := modPart part (fun p => { p with chans := p.chans.filter (fun c => !mine c.2.core) }) (tlbEvict (fun e => e.part == part && mine e.core) s0)
  { s with
    l1 := s.l1.filter (fun e => !mine (e.1 / 2 ^ 45))
    il := s.il.filter (fun e => !mine (e.1 / 2 ^ 45))
    updates := s.updates.filter (fun u => !mine u.core)
    dir := s.dir.map (fun e => (e.1, { e.2 with owner := e.2.owner.filter (fun c => !mine c) }))
    cores := s.cores.filter (fun e => !mine e.1) }

/-- Zeroes a channel group, but for the reserved area (R391, R434). -/
def scrubGroup (part n : Nat) (s : State) : State :=
  let mine := fun (pa : Nat) => pa / 2 ^ 35 == n && !inReserved pa
  let p := getPart s part
  let frames := bits p.drayCfg 16 36 * 65536
  let dropDray := decide (frames < (n + 1) * 2 ^ 35 ∧ n * 2 ^ 35 < frames + bits p.drayCfg 0 16 * 65664)
  { s with
    mem := s.mem.filter (fun e => !mine e.1)
    tags := s.tags.filter (fun e => !mine (e.1 * 128))
    lineErr := s.lineErr.filter (fun e => !mine (e.1 * 128))
    hostHalf := s.hostHalf.filter (fun e => !mine e.2.pa)
    l1 := s.l1.filter (fun e => !mine (e.1 % 2 ^ 45 * 128))
    il := s.il.filter (fun e => !mine (e.1 % 2 ^ 45 * 128))
    updates := s.updates.filter (fun u => !mine u.pa)
    dir := s.dir.filter (fun e => !mine (e.1 * 128))
    past := s.past.filter (fun e => !mine e.1)
    dray := if dropDray then s.dray.filter (fun e => e.1 / 2 ^ 16 != part) else s.dray }

/-- The groups whose pool lines a partition's slices hold: those of no other partition. -/
def otherGroups (s : State) (part : Nat) : List Nat :=
  (s.groups.filter (fun e => partOf s e.2 != part)).map (fun e => e.1) ++
  (s.grids.filter (fun e => e.2.part != part)).flatMap (fun e => e.2.gone) ++ (s.runs.filter (fun e => e.2.part != part)).flatMap (fun e => e.2.gone)

/-- Empties an L2 slice (R391): the dirty pool lines at home there are written back, and its directory entries go. All its ways are on
again. -/
def scrubSlice (part n : Nat) (s : State) : State :=
  let p := getPart s part
  let here := fun (line : Nat) => homeSlice p.slices (line * 128) == n
  let others := otherGroups s part
  setWays n 0xFFFFFFFF { s with
    pool := { s.pool with dirty := s.pool.dirty.filterMap (fun e =>
      if here e.1 then (let gs := e.2.filter (fun g => others.contains g); if gs.isEmpty then none else some (e.1, gs)) else some e) }
    l2Err := s.l2Err.filter (fun e => !(here e.1 && ownsPa p (e.1 * 128)))
    dir := s.dir.filter (fun e => !(here e.1 && (ownsPa p (e.1 * 128) || (isPool s e.1 && e.2.owner.isNone)))) }

/-- Is an access to the channel group still outstanding? -/
def groupBusy (s : State) (n : Nat) : Bool :=
  s.ops.any (fun o => o.accs.any (fun a => a.isOpen && a.pieces.any (fun p => p.pa / 2 ^ 35 == n)))

/-- SCRUB_DONE (R391): operand a is the partition, b the kind of the leaving resource (0 core quad, 1 L2 slice, 2 channel
group) and c its number. It enters the free pool. -/
def evScrubDone (s : State) : Option State :=
  let p := getPart s s.ev.a
  let n := s.ev.c
  let leaves := fun (own next : Nat) => p.state == 6 && bit own n && !bit next n
  let finish := fun (f : Part → Part) (t : State) => some (settleResize 4 s.ev.a (modPart s.ev.a f t))
  if s.ev.b = 0 && leaves p.quads p.nquads then finish (fun p => { p with quads := p.quads - 2 ^ n }) (scrubQuad s.ev.a n s)
  else if s.ev.b = 1 && leaves p.slices p.nslices then finish (fun p => { p with slices := p.slices - 2 ^ n }) (scrubSlice s.ev.a n s)
  else if s.ev.b = 2 && leaves p.chgrps p.nchgrps && !groupBusy s n then
    finish (fun p => { p with chgrps := p.chgrps - 2 ^ n }) (scrubGroup s.ev.a n s)
  else none

/-- SCRUB_DONE (R391). -/
def execScrubDone (s : State) : Host.Outcome State Fault Refusal := eventOut s (evScrubDone s)

/-- PART_WCHAN is written (R381). -/
def writeWchan (part v0 : Nat) (s : State) : State :=
  let p := getPart s part
  let v := v0 % 2 ^ 64
  if s.parts.any (fun e => e.1 != part && e.2.wchan &&& v != 0) || p.chans.any (fun c => !bit v c.1) then s
  else setPart part { p with wchan := v } s

/-- PART_WCHAN (R381): operand a is the partition and b the value. -/
def execPartWchan (s : State) : Host.Outcome State Fault Refusal :=
  eventOut s (if (getPart s s.ev.a).present then some (writeWchan s.ev.a s.ev.b s) else none)

/-- LANDAU_PID is written (R371): the write waits until no job of the partition is queued or running. -/
def writePid (part v : Nat) (s : State) : State := settlePid part (modPart part (fun p => { p with pidNext := some (v % 2 ^ 13) }) s)

/-- LANDAU_PID (R371): operand a is the partition and b the value. -/
def execLandauPid (s : State) : Host.Outcome State Fault Refusal :=
  eventOut s (if (getPart s s.ev.a).present then some (writePid s.ev.a s.ev.b s) else none)

end Sys2Proof.Machine
end

