-- ==== Sys2Proof/Machine/Firmware.lean ====
section
/-! DEFINITION. The management space, boot, the mailbox, the loader, and what stops or slows the package (spec/25 R424, R425,
R427 to R435). -/

namespace Sys2Proof.Machine

/-- Performs an event's work as a register write. -/
def viaEvent (f : State → Option State) (a : EvArgs) (s : State) : State :=
  { ((f { s with ev := a }).getD s) with ev := s.ev }

/-- Word `k` of a set held as one number, and the number with that word replaced. -/
def wordOf (v k : Nat) : Nat := bits v (64 * k) 64
def setWord (v k w : Nat) : Nat := putBytes v (8 * k) 8 w

/-- A mailbox register (R428), by its offset in the mailbox's page. -/
def mbxRead (s : State) (off : Nat) : Nat :=
  if off = 0 then s.boot.mbxCmd
  else if off = 8 then s.boot.mbxStat
  else if 0x10 ≤ off ∧ off < 0x30 then s.boot.mbxArg.getD ((off - 0x10) / 8) 0
  else if 0x30 ≤ off ∧ off < 0x50 then s.boot.mbxRsp.getD ((off - 0x30) / 8) 0
  else 0

/-- A package register (R424). -/
def pkgRead (s : State) (off : Nat) : Nat :=
  if 0x100 ≤ off ∧ off < 0x140 then cget 0 ((off - 0x100) / 8) s.fab.members
  else match off with
    | 0x0 => s.boot.devstat
    | 0x8 => s.boot.pwrStat
    | 0x140 => s.fab.class_
    | 0x148 => s.fab.mctab
    | 0x150 => s.fab.nacklog
    | 0x158 => s.fab.errlog
    | 0x200 => s.pool.rtab
    | 0x210 => s.pool.fstat
    | 0x300 => s.ptp.cfg
    | 0x308 => s.ptp.stat
    | 0x400 => s.hostWinBase
    | 0x408 => s.hostWinSize
    | _ => 0

/-- PART_STAT (R384). -/
def partStat (p : Part) : Nat := p.state + p.result * 2 ^ 8 + p.shunted % 2 ^ 16 * 2 ^ 32

/-- A register of a partition's per-core block (R424). -/
def coreRead (s : State) (core r : Nat) : Nat :=
  if r = 0 then (getCore s core).bankctl
  else if 8 ≤ r ∧ r < 0x108 then bankStat s core ((r - 8) / 8)
  else if 0x108 ≤ r ∧ r < 0x148 then cget 0 ((r - 0x108) / 8) (getCore s core).dbgCmp
  else if r = 0x148 then readDbgCtl s core
  else 0

/-- A register of a partition's window (R379, R424). -/
def winRead (s : State) (part off : Nat) : Nat :=
  let p := getPart s part
  if 0x80 ≤ off ∧ off < 0x98 then wordOf p.tquads ((off - 0x80) / 8)
  else if 0x98 ≤ off ∧ off < 0xB8 then wordOf p.tslices ((off - 0x98) / 8)
  else if 0xB8 ≤ off ∧ off < 0xC8 then wordOf p.tchgrps ((off - 0xB8) / 8)
  else if off = 0x100 then (if p.grow then 2 else 0)
  else if off = 0x108 then partStat p
  else if !p.present then 0
  else if off < 0x18 then wordOf p.quads (off / 8)
  else if off < 0x38 then wordOf p.slices ((off - 0x18) / 8)
  else if off < 0x48 then wordOf p.chgrps ((off - 0x38) / 8)
  else if 0x1000 ≤ off ∧ off < 0x1200 then cget 0 ((off - 0x1000) / 8) p.qcfg
  else if 0x1200 ≤ off ∧ off < 0x1400 then cget 0 ((off - 0x1200) / 8) p.qtail
  else if 0x1400 ≤ off ∧ off < 0x1600 then cget 0 ((off - 0x1400) / 8) p.qhead
  else if 0x80000 ≤ off ∧ off < 0xE0000 then
    (if ownsCore p ((off - 0x80000) / 0x200) then coreRead s ((off - 0x80000) / 0x200) (off % 0x200) else 0)
  else if 0xE0000 ≤ off ∧ off < 0xE0800 then (if ownsSlice p ((off - 0xE0000) / 8) then waysOf s ((off - 0xE0000) / 8) % 2 ^ 32 else 0)
  else match off with
    | 0x110 => p.evac
    | 0x118 => p.ctxpool
    | 0x120 => p.wchan
    | 0x128 => p.tokbase
    | 0x130 => p.fdom
    | 0x138 => p.pid
    | 0x140 => p.svcEntry
    | 0x148 => p.transRoot
    | 0x150 => p.shadowOff
    | 0x158 => p.drayCfg
    | 0x160 => p.tlbInvReg
    | 0x170 => p.istat
    | _ => 0

/-- The 64-bit register at an aligned offset of the management space as it reads (R424); what names no register reads 0. -/
def mgmtRead (s : State) (off : Nat) : Nat :=
  if off < 0x10000 then pkgRead s off
  else if off < 0x20000 then mbxRead s (off - 0x10000)
  else if off < 0x30000 then ofBytes ((List.range 8).map (fun i => (cget 0 (off - 0x20000 + i) s.boot.mbxData).toNat))
  else if 0x100000 ≤ off ∧ off < 0x2900000 then winRead s (off / 0x100000 - 1) (off % 0x100000)
  else 0

/-- Is the register 32 bits wide (R424)? -/
def mgmt32 (off : Nat) : Bool := decide (0x100000 ≤ off) && (off % 0x100000 == 0x168 || decide (0x1200 ≤ off % 0x100000 ∧ off % 0x100000 < 0x1600))

/-- The bits of a register that read as set and that a one clears: a 4-byte write of the other half leaves them (R424). -/
def mgmtW1c (off : Nat) : Nat :=
  if off = 0x210 then 0xF0 else if 0x100000 ≤ off ∧ off % 0x100000 = 0x170 then 2 ^ 64 - 1 else 0

/-- Is the mailbox busy (R428)? -/
def mbxBusy (s : State) : Bool := bit s.boot.mbxStat 0

/-- A write of a mailbox register (R428): ignored while a command runs. -/
def mbxWrite (off v : Nat) (s : State) : State :=
  if mbxBusy s then s
  else if off = 0 then
    { s with boot := { s.boot with mbxCmd := v % 2 ^ 16, mbxStat := if bit v 31 then s.boot.mbxStat + 1 else s.boot.mbxStat } }
  else if 0x10 ≤ off ∧ off < 0x30 then { s with boot := { s.boot with mbxArg := s.boot.mbxArg.set ((off - 0x10) / 8) v } }
  else s

/-- Writes the mailbox's data buffer. -/
def dataWrite (off n v : Nat) (s : State) : State :=
  if mbxBusy s then s
  else { s with boot := { s.boot with mbxData := (List.range n).foldl (fun m i => cset 0 (off + i) (BitVec.ofNat 8 (bits v (8 * i) 8)) m) s.boot.mbxData } }

/-- A write of a package register (R424). -/
def pkgWrite (off v : Nat) (s : State) : State :=
  if 0x100 ≤ off ∧ off < 0x140 then viaEvent evFabMembers { a := (off - 0x100) / 8, b := v } s
  else match off with
    | 0x140 => viaEvent evFabClass { a := v } s
    | 0x148 => { s with fab := { s.fab with mctab := bits v 0 1 + bits v 19 33 * 2 ^ 19 } }
    | 0x150 =>
      let size := if 15 < bits v 1 5 then bits s.fab.nacklog 1 5 else bits v 1 5
      { s with fab := { s.fab with nacklog := bits v 0 1 + size * 2 + bits v 12 40 * 4096 } }
    | 0x158 => { s with fab := { s.fab with errlog := v } }
    | 0x200 => { s with pool := { s.pool with rtab := v % 2 ^ 52 } }
    | 0x208 => viaEvent evPoolRsync { a := v } s
    | 0x210 =>
      let old := s.pool.fstat
      { s with pool := { s.pool with fstat := bits old 0 4 + (bits old 4 4 - (bits old 4 4 &&& bits v 4 4)) * 16 + bits old 8 4 * 256 + bits v 16 48 * 2 ^ 16 } }
    | 0x300 => viaEvent evPtpCfg { a := v } s
    | 0x308 => { s with ptp := { s.ptp with stat := putBytes s.ptp.stat 1 1 (bits v 8 8) } }
    | 0x400 => writeWinBase v s
    | 0x408 => writeWinSize v s
    | _ => s

/-- A write of a register that must place something in the partition's own channel groups: ignored where it does not (R378). -/
def placeReg (part base n : Nat) (f : Part → Part) (s : State) : State :=
  if ownsRange (getPart s part) base n then modPart part f s else s

/-- A write of a register of a partition's per-core block. -/
def coreWrite (core r v : Nat) (s : State) : State :=
  if r = 0 then bankWrite core v s
  else if 0x108 ≤ r ∧ r < 0x148 then dbgWrite core ((r - 0x108) / 8) v s
  else if r = 0x148 then writeDbgCtl core v s
  else s

/-- A write of PART_RESIZE (R383). -/
def writeResize (part v : Nat) (s : State) : State :=
  let s1 := modPart part (fun p => { p with grow := bit v 1 }) s
  let s2 := if bit v 0 then goAct part (bit v 1) s1 else s1
  let s3 := if bit v 2 then cancelAct part s2 else s2
  if bit v 3 then evdoneAct part s3 else s3

/-- A write of a register of a partition's window (R378 to R381, R424); before the partition exists only its target sets and
PART_RESIZE take writes. -/
def winWrite (part off v : Nat) (s : State) : State :=
  let p := getPart s part
  let up := fun (f : Part → Part) => modPart part f s
  if 0x80 ≤ off ∧ off < 0x98 then up (fun p => { p with tquads := setWord p.tquads ((off - 0x80) / 8) v })
  else if 0x98 ≤ off ∧ off < 0xB8 then up (fun p => { p with tslices := setWord p.tslices ((off - 0x98) / 8) v })
  else if 0xB8 ≤ off ∧ off < 0xC8 then up (fun p => { p with tchgrps := setWord p.tchgrps ((off - 0xB8) / 8) v })
  else if off = 0x100 then writeResize part v s
  else if !p.present then s
  else if 0x1000 ≤ off ∧ off < 0x1200 then writeQueueCfg part ((off - 0x1000) / 8) v s
  else if 0x1200 ≤ off ∧ off < 0x1400 then writeTail part ((off - 0x1200) / 8) v 0 s
  else if 0x80000 ≤ off ∧ off < 0xE0000 then
    (if ownsCore p ((off - 0x80000) / 0x200) then coreWrite ((off - 0x80000) / 0x200) (off % 0x200) v s else s)
  else if 0xE0000 ≤ off ∧ off < 0xE0800 then (if ownsSlice p ((off - 0xE0000) / 8) then wayWrite ((off - 0xE0000) / 8) v s else s)
  else match off with
    | 0x110 => up (fun p => { p with evac := bits v 4 48 * 16 })
    | 0x118 => placeReg part (bits v 16 36 * 65536) (bits v 52 12 * 2 ^ 30) (fun p => { p with ctxpool := bits v 16 48 * 65536 }) s
    | 0x120 => writeWchan part v s
    | 0x128 => placeReg part (bits v 10 42 * 1024) 1024 (fun p => { p with tokbase := bits v 10 42 * 1024 }) s
    | 0x130 => up (fun p => { p with fdom := v % 1024 })
    | 0x138 => writePid part v s
    | 0x140 => up (fun p => { p with svcEntry := v / 4 * 4 })
    | 0x148 => placeReg part (bits v 12 40 * 4096) 4096 (fun p => { p with transRoot := bits v 0 1 + bits v 12 40 * 4096 }) s
    | 0x150 => up (fun p => { p with shadowOff := bits v 0 1 + bits v 3 49 * 8 })
    | 0x158 => drayWriteCfg part v s
    | 0x160 => tlbWrite part v none s
    | 0x168 => if v % 2 ^ 32 < 256 then signalToken part (v % 2 ^ 32) [] s else s
    | 0x170 => up (fun p => { p with istat := p.istat - (p.istat &&& v) })
    | _ => s

/-- A write of the management space by the physical function's driver (R424): aligned, 4 or 8 bytes. -/
def mgmtWrite (off v0 n : Nat) (s : State) : State :=
  if !(n = 4 ∨ n = 8) ∨ off % n ≠ 0 then s
  else if 0x20000 ≤ off ∧ off < 0x30000 then dataWrite (off - 0x20000) n v0 s
  else if mgmt32 (off / 8 * 8) && off % 8 != 0 then s
  else
    let at_ := off / 8 * 8
    let keep := mgmtRead s at_
    let v := if n = 8 then v0 % 2 ^ 64 else if mgmt32 at_ then v0 % 2 ^ 32 else putBytes (keep - (keep &&& mgmtW1c at_)) (off % 8) 4 v0
    if at_ < 0x10000 then pkgWrite at_ v s
    else if at_ < 0x20000 then mbxWrite (at_ - 0x10000) v s
    else if 0x100000 ≤ at_ ∧ at_ < 0x2900000 then winWrite (at_ / 0x100000 - 1) (at_ % 0x100000) v s
    else s

/-- A write of a virtual function's window (R425). -/
def vfWrite (vf off v n : Nat) (s : State) : State :=
  if !(n = 4 ∨ n = 8) ∨ off % n ≠ 0 then s
  else match mfind vf s.vfs with
    | none => s
    | some part =>
      if !(getPart s part).present then s
      else if off = 8 then { s with vfIstat := cset 0 vf (cget 0 vf s.vfIstat - (cget 0 vf s.vfIstat &&& (if n = 4 then v % 2 ^ 32 else v))) s.vfIstat }
      else if 0x1200 ≤ off ∧ off < 0x1400 ∧ off % 8 = 0 then writeTail part ((off - 0x1200) / 8) v vf s
      else if off = 0x2000 then (if v % 2 ^ 32 < 256 then signalToken part (v % 2 ^ 32) [] s else s)
      else s

/-- What a virtual function reads at an offset of its window (R379, R425): PART_STAT, VF_ISTAT, and the tails and heads of the queues
that it owns; all else reads 0. -/
def vfRead (s : State) (vf off : Nat) : Nat :=
  match mfind vf s.vfs with
  | none => 0
  | some part =>
    let p := getPart s part
    if off % 8 ≠ 0 ∨ !p.present then 0
    else if off = 0 then partStat p
    else if off = 8 then cget 0 vf s.vfIstat
    else if 0x1200 ≤ off ∧ off < 0x1400 then (if queueVf p ((off - 0x1200) / 8) = vf then cget 0 ((off - 0x1200) / 8) p.qtail else 0)
    else if 0x1400 ≤ off ∧ off < 0x1600 then (if queueVf p ((off - 0x1400) / 8) = vf then cget 0 ((off - 0x1400) / 8) p.qhead else 0)
    else 0

/-- MGMT_REGISTER_WRITE (R424, R425): operand a is the offset, b the value and c the bytes written; who is the virtual function
that writes in its own window, if any. -/
def evMgmtRegisterWrite (s : State) : Option State :=
  match s.ev.who with
  | some vf => some (vfWrite vf s.ev.a s.ev.b s.ev.c s)
  | none => some (mgmtWrite s.ev.a s.ev.b s.ev.c s)

/-- MGMT_REGISTER_WRITE (R424). -/
def execMgmtRegisterWrite (s : State) : Host.Outcome State Fault Refusal := eventOut s (evMgmtRegisterWrite s)

/-- MODE and STAGE of DEVSTAT (R427). -/
def modeOf (s : State) : Nat := bits s.boot.devstat 1 3
def stageOf (s : State) : Nat := bits s.boot.devstat 4 4

/-- DEVSTAT with READY, MODE, STAGE and FWVER as given; DUMPVALID stays. -/
def setDevstat (ready mode stage ver : Nat) (b : Boot) : Boot :=
  { b with devstat := ready + mode * 2 + stage * 16 + bits b.devstat 8 1 * 256 + ver * 2 ^ 16 }

/-- Boot steps 3 to 5 (R427, R433): every line of HBM is zero, the RAS ring is empty, the package is ready. -/
def bootTail (ver : Nat) (s : State) : State :=
  let s1 := { s with mem := s.mem.filter (fun e => decide (2 ^ 42 ≤ e.1)), tags := [], lineErr := [], boot := setDevstat 1 1 5 ver s.boot }
  memSet s1 (rasBase + 8) 4 524160

/-- Boot from step 2 on, with the firmware of an image running; that the record names the part's own serial is asked of a replacement
alone (R427, R429). -/
def bootRest (ver : Nat) (s : State) : State :=
  if Config.recordOk s.boot.cfgRec then bootTail ver s else { s with boot := setDevstat 0 0 15 ver s.boot }

/-- Boot from step 1 on (R427). -/
def bootAll (s : State) : State :=
  if Config.imageOk s.boot.flash then bootRest (Config.imageVersion s.boot.flash).toNat s else { s with boot := setDevstat 0 0 14 0 s.boot }

/-- RESET (R427): operand a is the set of Ethernet ports whose links then train, xs their addresses. The flash, the package's
number and the host's and the pool's own memory stay (log 34). -/
def evReset (s : State) : Option State :=
  some (bootAll { State.reset with
    pkg := s.pkg, hostLinks := s.hostLinks, fresh := s.fresh, ptp := { servo := { draws := s.ptp.servo.draws } }, mem := s.mem.filter (fun e => decide (2 ^ 42 ≤ e.1))
    boot := { State.reset.boot with flash := s.boot.flash, cfgRec := s.boot.cfgRec }
    fab := { State.reset.fab with ethUp := s.ev.a % 256, ethAddr := (List.range 8).zip s.ev.xs } })

/-- RESET (R427). -/
def execResetEvent (s : State) : Host.Outcome State Fault Refusal :=
  match evReset s with
  | some t => .next t
  | none => .next s

/-- What a mailbox command gives: its RESULT, the bytes it leaves in MBX_DATA, MBX_RSP0 and the state. -/
structure MbxOut where
  result : Nat
  data : List Nat := []
  rsp : Nat := 0
  st : State

/-- A command that only fails. -/
def mbxFail (s : State) (r : Nat) : MbxOut := { result := r, st := s }

/-- A command's end (R428): BUSY clears, the outcome is readable and vector 0 of the physical function is raised. -/
def mbxEnd (o : MbxOut) : State :=
  let b := o.st.boot
  let data := ((List.range o.data.length).zip o.data).foldl (fun m e => cset 0 e.1 (BitVec.ofNat 8 e.2) m) b.mbxData
  raiseIrq 0 0 { o.st with boot := { b with mbxStat := o.result * 256 + o.data.length * 2 ^ 16, mbxRsp := [o.rsp, 0, 0, 0], mbxData := data } }

/-- The command `code` that the host has started runs to its end (R428, R429). -/
def mailbox (code : Nat) (permitted : Bool) (run : MbxOut) (s : State) : Option State :=
  if mbxBusy s && s.boot.mbxCmd == code then some (mbxEnd (if permitted then run else mbxFail s 4)) else none

/-- Argument `k` of the mailbox. -/
def mbxArg (s : State) (k : Nat) : Nat := s.boot.mbxArg.getD k 0

/-- The first `n` bytes of MBX_DATA. -/
def mbxBytes (s : State) (n : Nat) : List Nat := (List.range n).map (fun i => (cget 0 i s.boot.mbxData).toNat)

/-- The first `n` bytes of the staging area. -/
def stagedBytes (s : State) (n : Nat) : List Nat := (List.range n).map (fun i => (cget 0 i s.boot.staging).toNat)

/-- The staging area holds 64 MiB (R429). -/
abbrev stagingSize : Nat := 2 ^ 26

/-- IMG_CHUNK. -/
def mbxImgChunk (s : State) : MbxOut :=
  let off := mbxArg s 0
  let n := mbxArg s 1
  if 65536 < n ∨ stagingSize < off + n then mbxFail s 2
  else { result := 0, st := { s with boot := { s.boot with staging := (List.range n).foldl (fun m i => cset 0 (off + i) (cget 0 i s.boot.mbxData) m) s.boot.staging } } }

/-- IMG_RUN: the image is checked and runs, and the boot order goes on (R427). -/
def mbxImgRun (s : State) : MbxOut :=
  if stagingSize < mbxArg s 0 then mbxFail s 2
  else
    let img := stagedBytes s (mbxArg s 0)
    if Config.imageOk img then { result := 0, st := bootRest (Config.imageVersion img).toNat s } else mbxFail s 3

/-- IMG_FLASH. -/
def mbxImgFlash (s : State) : MbxOut :=
  if stagingSize < mbxArg s 0 then mbxFail s 2
  else
    let img := stagedBytes s (mbxArg s 0)
    if Config.imageOk img then { result := 0, st := { s with boot := { s.boot with flash := img } } } else mbxFail s 3

/-- CFG_WRITE: at STAGE 15 the boot order goes on from step 3 (R427). -/
def mbxCfgWrite (s : State) : MbxOut :=
  if 65536 < mbxArg s 0 then mbxFail s 2
  else
    let r := mbxBytes s (mbxArg s 0)
    if Config.recordOk r && Config.recordOwn r then
      let s1 := { s with boot := { s.boot with cfgRec := r } }
      { result := 0, st := if stageOf s = 15 then bootTail (bits s.boot.devstat 16 32) s1 else s1 }
    else mbxFail s 3

/-- PWR_LIMIT. -/
def mbxPwrLimit (s : State) : MbxOut :=
  let w := mbxArg s 0
  if 1000 ≤ w ∧ w ≤ 5000 then { result := 0, st := { s with boot := { s.boot with pwrStat := putBytes s.boot.pwrStat 2 2 w } } } else mbxFail s 2

/-- A command on a partition: RESULT 2 where it does not exist. -/
def onPart (s : State) (f : Part → MbxOut) : MbxOut :=
  let p := getPart s (mbxArg s 0)
  if mbxArg s 0 < 40 ∧ p.present then f p else mbxFail s 2

/-- Puts a partition back at the end of a command. -/
def partDone (s : State) (p : Part) : MbxOut := { result := 0, st := setPart (mbxArg s 0) p s }

/-- The slots of a partition whose key's hash begins with the 4 bytes of a KEYID (R431). -/
def slotFor (p : Part) (keyId : Nat) : Option (Nat × List Nat) := p.keys.find? (fun e => ofBytes ((sha512 e.2).take 4) == keyId)

/-- KEY_SET (R431). -/
def mbxKeySet (s : State) : MbxOut :=
  onPart s (fun p =>
    let slot := mbxArg s 1
    let key := mbxBytes s 32
    if 16 ≤ slot then mbxFail s 2
    else match slotFor { p with keys := merase slot p.keys } (ofBytes ((sha512 key).take 4)) with
      | some _ => mbxFail s 2
      | none => partDone s { p with ar := sha512 (p.ar ++ [1, slot] ++ key), keys := minsert slot key p.keys })

/-- KEY_CLEAR (R431). -/
def mbxKeyClear (s : State) : MbxOut :=
  onPart s (fun p => if 16 ≤ mbxArg s 1 then mbxFail s 2
    else partDone s { p with ar := sha512 (p.ar ++ [2, mbxArg s 1]), keys := merase (mbxArg s 1) p.keys })

/-- LOAD_POLICY (R431). -/
def mbxLoadPolicy (s : State) : MbxOut :=
  onPart s (fun p => if 2 ≤ mbxArg s 1 then mbxFail s 2
    else partDone s { p with ar := sha512 (p.ar ++ [3, mbxArg s 1]), policy := mbxArg s 1 == 1 })

/-- The package's serial and identity key. -/
def serialBytes : List Nat := bytesOf 16 Config.serial.toNat
def identitySeed : List Nat := bytesOf 32 Config.identitySeed.toNat

/-- IDENTITY. -/
def mbxIdentity (s : State) : MbxOut := { result := 0, data := edPublic identitySeed ++ serialBytes, st := s }

/-- QUOTE (R429, R430). -/
def mbxQuote (s : State) : MbxOut :=
  onPart s (fun p =>
    let m := p.ar ++ mbxBytes s 32 ++ [mbxArg s 0] ++ serialBytes
    { result := 0, data := m ++ edSign identitySeed m, st := s })

/-- A segment entry of a container (spec/03 R81). -/
structure Seg where
  kind : Nat
  pageLog : Nat
  flags : Nat
  keyId : Nat
  voff : Nat
  fileOff : Nat
  fileSize : Nat
  memSize : Nat
  zero : Nat
  head : List Nat
  measure : List Nat
  sig : List Nat

def segOf (bs : List Nat) : Seg :=
  let n := fun (o k : Nat) => ofBytes ((bs.drop o).take k)
  { kind := n 0 1, pageLog := n 1 1, flags := n 2 2, keyId := n 4 4, voff := n 8 8, fileOff := n 16 8, fileSize := n 24 8, memSize := n 32 8
    zero := n 40 24, head := bs.take 64, measure := (bs.drop 64).take 64, sig := (bs.drop 128).take 64 }

/-- Is an entry free of reserved values, misplaced fields and contents outside the file (spec/03 R81, R83)? -/
def segOk (len : Nat) (g : Seg) : Bool :=
  decide (1 ≤ g.kind ∧ g.kind ≤ 6) && (g.pageLog == 16 || g.pageLog == 21 || g.pageLog == 30) && decide (g.flags < 4) && g.zero == 0 &&
    g.voff % 2 ^ g.pageLog == 0 && decide (g.fileSize ≤ g.memSize) && (g.kind != 4 || g.fileSize == 0) && decide (g.fileOff + g.fileSize ≤ len)

/-- Are the bytes that a segment of kernel descriptors lists as zero all zero (spec/03 R82, R83)? -/
def descsOk (contents : List Nat) (g : Seg) : Bool :=
  g.kind != 5 || ((List.range contents.length).zip contents).all (fun (i, b) => decide (i % 64 < 32) || b == 0)

/-- Do two entries that are loaded overlap in memory? -/
def segMeet (a b : Seg) : Bool := a.kind != 6 && b.kind != 6 && decide (a.voff < b.voff + b.memSize ∧ b.voff < a.voff + a.memSize)

/-- Bytes of the container, from `at_` on, as memory holds them. -/
def fileBytes (s : State) (part at_ n : Nat) : List Nat := (List.range n).map (fun i => memByte s (homePa s part (at_ + i)))

/-- The pages of a segment, each as the address of its leaf and the leaf: the partition's page table maps every one with the
segment's page size in memory the partition may reach (log 37). -/
def segPages (s : State) (part load : Nat) (g : Seg) : Option (List (Nat × Nat)) :=
  if g.kind = 6 then some []
  else
    let ps := (List.range (ceilDiv g.memSize (2 ^ g.pageLog))).map (fun k =>
      let va := (load + g.voff + k * 2 ^ g.pageLog) % 2 ^ 64
      match (walk s part va).1 with
      | some (leaf, lg, at_) =>
        if lg = g.pageLog ∧ va % 2 ^ lg = 0 ∧ paFault s part (bits leaf 16 36 * 65536) false = none then some (at_, leaf) else none
      | none => none)
    if ps.all Option.isSome then some (ps.filterMap id) else none

/-- A leaf of a segment's page, with EX, and CMP and BORROW as the entry's FLAGS have them. -/
def segLeaf (g : Seg) (ex leaf : Nat) : Nat := leaf - bits leaf 4 1 * 16 - bits leaf 9 2 * 512 + bits g.flags 0 2 * 512 + ex * 16

/-- Rewrites the leaves of a segment's pages. -/
def setLeaves (g : Seg) (ex part : Nat) (ps : List (Nat × Nat)) (s : State) : State :=
  ps.foldl (fun t e => physWrite (homePa t part e.1) 8 (segLeaf g ex e.2) t) s

/-- Copies a segment into its pages with EX clear; the excess reads zero (R430, spec/03 R81). -/
def copySeg (part base : Nat) (g : Seg) (ps : List (Nat × Nat)) (s : State) : State :=
  let size := 2 ^ g.pageLog
  ((List.range ps.length).zip ps).foldl (fun t e =>
    let n := min size (g.memSize - e.1 * size)
    let m := min n (g.fileSize - e.1 * size)
    let bs := fileBytes s part (base + g.fileOff + e.1 * size) m ++ List.replicate (n - m) 0
    let pa := homePa t part (bits e.2.2 16 36 * 65536)
    (List.range (ceilDiv n 128)).foldl (fun u j =>
      let chunk := (bs.drop (128 * j)).take 128
      lineWrite u part (lineOf pa + j) ((List.range chunk.length).zip chunk) (bit g.flags 0)) t) (setLeaves g 0 part ps s)

/-- Does a segment pass MEASURE and SIG under the partition's keys and policy (R430, R431, spec/03 R83)? -/
def segChecks (s : State) (part base : Nat) (p : Part) (g : Seg) : Bool :=
  g.measure == sha512 (g.head ++ fileBytes s part (base + g.fileOff) g.fileSize) &&
  (if g.keyId = 0 then p.policy && g.sig.all (fun b => b == 0)
   else match slotFor p g.keyId with
     | some (_, key) => edVerify key g.measure g.sig
     | none => false)

/-- The entries of a container whose header is sound (spec/03 R80, R83); none otherwise. -/
def segTable (s : State) (part base len : Nat) : Option (List Seg) :=
  let h := ofBytes (fileBytes s part base 64)
  let n := bits h 48 16
  let tab := bits h 64 64
  if len < 64 || bits h 0 32 != 0x434F5658 || bits h 32 16 != 1 || n == 0 || decide (255 < n) || tab % 64 != 0 || bits h 128 384 != 0 ||
      decide (len < tab + 192 * n) || (List.range (len / 128 + 2)).any (fun k => decide (128 * k < base % 128 + len) && lineBad s (homePa s part (base / 128 * 128 + 128 * k))) then none
  else some ((List.range n).map (fun k => segOf (fileBytes s part (base + tab + 192 * k) 192)))

/-- A rejected container (R429): RESULT 3 with the index of the first failing segment. -/
def loadFails (s : State) (k : Nat) : MbxOut := { result := 3, rsp := k, st := s }

/-- LOAD (R430). A container whose header fails names segment 0 (log 37). -/
def mbxLoad (s : State) : MbxOut :=
  onPart s (fun p =>
    let part := mbxArg s 0
    let base := mbxArg s 1
    let len := mbxArg s 2
    let load := mbxArg s 3
    if !ownsRange p base len then mbxFail s 2
    else match segTable s part base len with
      | none => loadFails s 0
      | some gs =>
        let idx := (List.range gs.length).zip gs
        match idx.find? (fun e => !segOk len e.2 || (gs.take e.1).any (segMeet e.2) || (segPages s part load e.2).isNone ||
            !descsOk (fileBytes s part (base + e.2.fileOff) e.2.fileSize) e.2) with
        | some (k, _) => loadFails s k
        | none =>
          let pages := fun (g : Seg) => (segPages s part load g).getD []
          let s1 := gs.foldl (fun t g => if g.kind = 6 then t else copySeg part base g (pages g) t) s
          match idx.find? (fun e => !segChecks s part base p e.2) with
          | some (k, _) => loadFails s1 k
          | none =>
            let ar := gs.foldl (fun ar g => sha512 (ar ++ g.measure ++ bytesOf 4 g.keyId)) p.ar
            let s2 := setPart part { getPart s1 part with ar := ar } s1
            { result := 0, st := gs.foldl (fun t g => if g.kind = 1 then setLeaves g 1 part (pages g) t else t) s2 })

/-- IMG_CHUNK (R429). -/
def execImgChunk (s : State) : Host.Outcome State Fault Refusal := eventOut s (mailbox 1 (stageOf s == 14 || modeOf s == 1) (mbxImgChunk s) s)

/-- IMG_RUN (R429). -/
def execImgRun (s : State) : Host.Outcome State Fault Refusal := eventOut s (mailbox 2 (stageOf s == 14) (mbxImgRun s) s)

/-- IMG_FLASH (R429). -/
def execImgFlash (s : State) : Host.Outcome State Fault Refusal := eventOut s (mailbox 3 (modeOf s == 1) (mbxImgFlash s) s)

/-- CFG_WRITE (R429). -/
def execCfgWrite (s : State) : Host.Outcome State Fault Refusal := eventOut s (mailbox 4 (stageOf s == 15 || modeOf s == 1) (mbxCfgWrite s) s)

/-- TEST_ENTER (R427, R429). -/
def execTestEnter (s : State) : Host.Outcome State Fault Refusal :=
  eventOut s (mailbox 5 (modeOf s == 0) { result := 0, st := { s with boot := { s.boot with devstat := s.boot.devstat + 4 } } } s)

/-- PWR_LIMIT (R429). -/
def execPwrLimit (s : State) : Host.Outcome State Fault Refusal := eventOut s (mailbox 6 (modeOf s == 1 || modeOf s == 2) (mbxPwrLimit s) s)

/-- DUMP_RELEASE (R429, R434). -/
def execDumpRelease (s : State) : Host.Outcome State Fault Refusal :=
  eventOut s (mailbox 7 true { result := 0, st := { s with boot := { s.boot with devstat := s.boot.devstat - bits s.boot.devstat 8 1 * 256, dump := none } } } s)

/-- IDENTITY (R429). -/
def execIdentity (s : State) : Host.Outcome State Fault Refusal := eventOut s (mailbox 8 (modeOf s == 1) (mbxIdentity s) s)

/-- KEY_SET (R431). -/
def execKeySet (s : State) : Host.Outcome State Fault Refusal := eventOut s (mailbox 9 (modeOf s == 1) (mbxKeySet s) s)

/-- KEY_CLEAR (R431). -/
def execKeyClear (s : State) : Host.Outcome State Fault Refusal := eventOut s (mailbox 10 (modeOf s == 1) (mbxKeyClear s) s)

/-- LOAD_POLICY (R431). -/
def execLoadPolicy (s : State) : Host.Outcome State Fault Refusal := eventOut s (mailbox 11 (modeOf s == 1) (mbxLoadPolicy s) s)

/-- LOAD (R430). -/
def execLoadContainer (s : State) : Host.Outcome State Fault Refusal := eventOut s (mailbox 12 (modeOf s == 1) (mbxLoad s) s)

/-- QUOTE (R429). -/
def execQuote (s : State) : Host.Outcome State Fault Refusal := eventOut s (mailbox 13 (modeOf s == 1) (mbxQuote s) s)

/-- MBX_UNKNOWN_COMMAND (R429): a code outside the table. -/
def execMbxUnknownCommand (s : State) : Host.Outcome State Fault Refusal :=
  eventOut s (if 1 ≤ s.boot.mbxCmd ∧ s.boot.mbxCmd ≤ 13 then none else mailbox s.boot.mbxCmd true (mbxFail s 1) s)

/-- Every partition stops and MODE is 4 (R432). -/
def stopAll (s : State) : State :=
  { s with parts := s.parts.map (fun e => (e.1, if e.2.present then { e.2 with fatal := true } else e.2))
           boot := { s.boot with devstat := s.boot.devstat - bits s.boot.devstat 1 3 * 2 + 8 } }

/-- Power is removed, and no dump is written (R432). -/
def powerLost (s : State) : State := { stopAll s with boot := { (stopAll s).boot with powerOff := true } }

/-- THERMAL_TRIP (R432). -/
def execThermalTrip (s : State) : Host.Outcome State Fault Refusal := eventOut s (some (powerLost s))

/-- FEED_FAULT (R432). -/
def execFeedFault (s : State) : Host.Outcome State Fault Refusal := eventOut s (some (powerLost s))

/-- PACKAGE_FATAL_ERROR (R432, R434): operand a is the cause, 0 for firmware state and 1 for the loss of HBM stack b. -/
def evPackageFatalError (s : State) : Option State :=
  let parts := (s.parts.filter (fun e => e.2.present)).foldl (fun m e => m ||| 2 ^ e.1) 0
  let kind := if s.ev.a = 1 then 6 else (Config.freeByte s.fresh).toNat
  some (writeDump (2 + s.ev.a) parts (rasLog kind 2 none (if s.ev.a = 1 then s.ev.b % 32 * 2 ^ 16 else 0) 0 (stopAll { s with fresh := s.fresh + 1 })))

/-- PACKAGE_FATAL_ERROR (R432). -/
def execPackageFatalError (s : State) : Host.Outcome State Fault Refusal := eventOut s (evPackageFatalError s)

/-- PWR_STAT with a power, a clock and the cap on HBM bandwidth (R435); the clock's fraction keeps its worth. -/
def setClock (power clock : Nat) (cap : Bool) (s : State) : State :=
  let old := max 1 (bits s.boot.pwrStat 32 12)
  { s with
    boot := { s.boot with hbmCap := cap
                          pwrStat := min power 65535 + bits s.boot.pwrStat 16 16 * 2 ^ 16 + clock * 2 ^ 32 + (if cap || clock < 2100 then 2 ^ 44 else 0) }
    ptp := { s.ptp with frac := s.ptp.frac * clock / old } }

/-- POWER_LIMIT_CONTROL (R435): operand a is the power averaged over 1 ms. Above the limit the clock falls by a step, and at its
least HBM bandwidth is capped; otherwise whether the cap is lifted or the clock rises by a step is free (log 38). -/
def evPowerLimitControl (s : State) : Option State :=
  let limit := bits s.boot.pwrStat 16 16
  let clock := bits s.boot.pwrStat 32 12
  if limit < s.ev.a then
    some (if 1050 < clock then setClock s.ev.a (max 1050 (clock - 25)) s.boot.hbmCap s else setClock s.ev.a clock true s)
  else
    let s1 := { s with fresh := s.fresh + 1 }
    let up := Config.freeChoice s.fresh % 2 == 1
    some (if !up then setClock s.ev.a clock s.boot.hbmCap s1
      else if s.boot.hbmCap then setClock s.ev.a clock false s1
      else setClock s.ev.a (min 2100 (clock + 25)) false s1)

/-- POWER_LIMIT_CONTROL (R435). -/
def execPowerLimitControl (s : State) : Host.Outcome State Fault Refusal := eventOut s (evPowerLimitControl s)

end Sys2Proof.Machine
end

