-- ==== Sys2Proof/Machine/Sys.lean ====
section
/-! DEFINITION. The system class (spec/25 R419 to R423): registers, return from service, time, service calls. -/

namespace Sys2Proof.Machine

/-- The privilege and number checks of CSRR and CSRW (R417, R421), then poison; `k` performs it. -/
def csrAccess (x : Ctx) (write : Bool) (val : Nat × Bool) (k : Csr → Res) : Res :=
  let n := uB x
  if (ppLanes x).isEmpty && (enLanes x).isEmpty then .ok x.s {}
  else if n.2 then trapAll x .poison
  else match csrOf (n.1 % 2 ^ 32) with
    | none => trapAll x .operandForm
    | some c =>
      if (!x.g.service && (write || !c.userReads)) || (write && !c.writable) then trapAll x .privilege
      else ctlPoison x val.2 (k c)

/-- CSRR (R421). -/
def bodyCsrr (x : Ctx) : Res :=
  csrAccess x false (0, false) (fun c => .ok (setGroup (writeDst x x.g x.r.d 2 0 (csrRead x.s x.b.core x.part x.g c) false) x.s) {})

/-- An operation of the SV path for a write whose effect runs on (R421). -/
def svRuns (x : Ctx) (what bank : Nat) (s : State) : State := addOp s (opOf x .sv (.service what bank))

/-- What CSRW does (R421, R422). -/
def csrWrite (x : Ctx) (c : Csr) (v : Nat) : Res :=
  let s := x.s
  match c with
  | .scratch k => .ok (setGroup { x.g with scratch := cset 0 k v x.g.scratch } s) {}
  | .dbgCmp k => .ok (dbgWrite x.b.core k v s) {}
  | .dbgCtl => .ok (writeDbgCtl x.b.core v s) {}
  | .bankCtl =>
    let oid := s.nextOp
    let s1 := svRuns x 0 (bits v 0 5) (bankWrite x.b.core v s)
    .ok (if bit v 9 && (bankRefusal s x.b.core v).isNone && bankBusy s1 x.b.core (bits v 0 5) then s1 else endOp oid s1) {}
  | .tlbInv =>
    if !(getPart s x.part).tlbInv.isEmpty then .hold
    else
      let oid := s.nextOp
      let s1 := tlbWrite x.part v (some oid) (svRuns x 1 0 s)
      .ok (if (getPart s1 x.part).tlbInv.isEmpty then endOp oid s1 else s1) {}
  | _ => .ok s {}

/-- CSRW (R421). -/
def bodyCsrw (x : Ctx) : Res :=
  let v := uC x
  csrAccess x true v (fun c =>
    let old := csrRead x.s x.b.core x.part x.g c
    let w := v.1 % 2 ^ 64
    csrWrite x c (if x.r.fn = 0 then w else if x.r.fn = 1 then old ||| w else old &&& (2 ^ 64 - 1 - w)))

/-- The lanes of the trap are advanced past the instruction at TR_PC (R419); the flag says that the outermost loop begins a new
iteration. -/
def skipLanes (g : Group) (len : Nat) : Group × Bool :=
  let ls := (lanesOf g.live).filter (fun l => bit (g.tr.lane0 + 2 ^ 64 * g.tr.lane1) l)
  let n := (g.tr.pc + len) % 2 ^ 64
  let g1 := ls.foldl (fun g l => arrive g.tr.pc false g (l, n)) g
  let c := closeLoops 8 { g1 with loops := popEmpty g1.loops } false
  let g2 := dropCapture g.loops c.1
  (if g.replay.isSome then stepReplay g2 (maskOf ls) else g2, c.2)

/-- ERET.SKIP leaves the group so (R419); a stale capture is made again where the skip begins a new iteration (R134). -/
def skipTo (g : Group) (len : Nat) (s : State) : State :=
  let k := skipLanes g len
  let s1 := setGroup (endReplay k.1) s
  if k.2 then recapture s1 g.gid else s1

/-- A replay that ends before it is done (R419). -/
def stopReplay (g : Group) : Group :=
  match g.replay with
  | some r => { loadSnap g r.back with replay := none }
  | none => g

/-- ERET (R419). -/
def bodyEret (x : Ctx) : Res :=
  if !x.g.service then trapAll x .privilege
  else
    let g := { x.g with service := false }
    let done := fun (g : Group) => Res.ok (setGroup (endReplay g) x.s) { stay := x.mask }
    match x.r.fn with
    | 1 => done (if g.win.opened && g.replay.isNone then beginReplay g else g)
    | 2 =>
      let f := fetchAt x.s g g.tr.pc
      (match f.1 with
       | .ok w =>
         .ok (skipTo g w.raw.len f.2) { stay := x.mask }
       | .error _ => trapAll x .fetch)
    | 3 => done (windowClose (stopReplay g))
    | _ => done g

/-- TIME (R48, R421). -/
def bodyTime (x : Ctx) : Res :=
  if (ppLanes x).isEmpty && (enLanes x).isEmpty then .ok x.s {}
  else ctlPoison x false (.ok (setGroup (writeDst x x.g x.r.d 2 0 (if x.r.fn = 0 then x.s.ptp.ns % 2 ^ 64 else x.s.cycle % 2 ^ 64) false) x.s) {})

/-- SVC (R410, R421): the enabled lanes go past it and the group enters its service routine. In replay it only advances
them. -/
def bodySvc (x : Ctx) : Res :=
  let en := enLanes x
  ctlPoison x false (
    if en.isEmpty then .ok x.s {}
    else
      let off := maskOf (x.lanes.filter (fun l => !en.contains l))
      if x.inReplay then .ok x.s { stay := off }
      else .ok (takeTrap x.s x.g x.pc { cause := .svc, lanes := maskOf en, code := x.r.a + 1024 * x.r.b }) { stay := off })

/-- CSRR (R421). -/
def execCsrr (f : Form) (s : State) : Host.Outcome State Fault Refusal := runWord (rawOf 0xe0 f) bodyCsrr s

/-- CSRW (R421). -/
def execCsrw (f : Form) (s : State) : Host.Outcome State Fault Refusal := runWord (rawOf 0xe1 f) bodyCsrw s

/-- ERET (R419). -/
def execEret (f : Form) (s : State) : Host.Outcome State Fault Refusal := runWord (rawOf 0xe2 f) bodyEret s

/-- TIME (R421). -/
def execTime (f : Form) (s : State) : Host.Outcome State Fault Refusal := runWord (rawOf 0xe3 f) bodyTime s

/-- SVC (R421). -/
def execSvc (f : Form) (s : State) : Host.Outcome State Fault Refusal := runWord (rawOf 0xe4 f) bodySvc s

end Sys2Proof.Machine
end

