-- ==== Sys2Proof/Machine/Dispatch.lean ====
section
/-! DEFINITION. What each instruction does: one arm per constructor. -/

namespace Sys2Proof.Machine

def exec (i : Instr) (s : State) : Host.Outcome State Fault Refusal :=
  match i with
  | .iadd u b a d => Sys2Proof.Machine.execIadd u b a d s
  | .iaddExt f => Sys2Proof.Machine.execIaddExt f s
  | .isub u b a d => Sys2Proof.Machine.execIsub u b a d s
  | .isubExt f => Sys2Proof.Machine.execIsubExt f s
  | .imul u b a d => Sys2Proof.Machine.execImul u b a d s
  | .imulExt f => Sys2Proof.Machine.execImulExt f s
  | .imulh u b a d => Sys2Proof.Machine.execImulh u b a d s
  | .imulhExt f => Sys2Proof.Machine.execImulhExt f s
  | .imad f => Sys2Proof.Machine.execImad f s
  | .imadw f => Sys2Proof.Machine.execImadw f s
  | .iaddc f => Sys2Proof.Machine.execIaddc f s
  | .ineg u b a d => Sys2Proof.Machine.execIneg u b a d s
  | .inegExt f => Sys2Proof.Machine.execInegExt f s
  | .iabs u b a d => Sys2Proof.Machine.execIabs u b a d s
  | .iabsExt f => Sys2Proof.Machine.execIabsExt f s
  | .imin u b a d => Sys2Proof.Machine.execImin u b a d s
  | .iminExt f => Sys2Proof.Machine.execIminExt f s
  | .imax u b a d => Sys2Proof.Machine.execImax u b a d s
  | .imaxExt f => Sys2Proof.Machine.execImaxExt f s
  | .iand u b a d => Sys2Proof.Machine.execIand u b a d s
  | .iandExt f => Sys2Proof.Machine.execIandExt f s
  | .ior u b a d => Sys2Proof.Machine.execIor u b a d s
  | .iorExt f => Sys2Proof.Machine.execIorExt f s
  | .ixor u b a d => Sys2Proof.Machine.execIxor u b a d s
  | .ixorExt f => Sys2Proof.Machine.execIxorExt f s
  | .andn u b a d => Sys2Proof.Machine.execAndn u b a d s
  | .andnExt f => Sys2Proof.Machine.execAndnExt f s
  | .inot u b a d => Sys2Proof.Machine.execInot u b a d s
  | .inotExt f => Sys2Proof.Machine.execInotExt f s
  | .shl u b a d => Sys2Proof.Machine.execShl u b a d s
  | .shlExt f => Sys2Proof.Machine.execShlExt f s
  | .shr u b a d => Sys2Proof.Machine.execShr u b a d s
  | .shrExt f => Sys2Proof.Machine.execShrExt f s
  | .sar u b a d => Sys2Proof.Machine.execSar u b a d s
  | .sarExt f => Sys2Proof.Machine.execSarExt f s
  | .rotl u b a d => Sys2Proof.Machine.execRotl u b a d s
  | .rotlExt f => Sys2Proof.Machine.execRotlExt f s
  | .bfx f => Sys2Proof.Machine.execBfx f s
  | .bfi f => Sys2Proof.Machine.execBfi f s
  | .popc u b a d => Sys2Proof.Machine.execPopc u b a d s
  | .popcExt f => Sys2Proof.Machine.execPopcExt f s
  | .clz u b a d => Sys2Proof.Machine.execClz u b a d s
  | .clzExt f => Sys2Proof.Machine.execClzExt f s
  | .ctz u b a d => Sys2Proof.Machine.execCtz u b a d s
  | .ctzExt f => Sys2Proof.Machine.execCtzExt f s
  | .brev u b a d => Sys2Proof.Machine.execBrev u b a d s
  | .brevExt f => Sys2Proof.Machine.execBrevExt f s
  | .icmp u b a d => Sys2Proof.Machine.execIcmp u b a d s
  | .icmpExt f => Sys2Proof.Machine.execIcmpExt f s
  | .sel f => Sys2Proof.Machine.execSel f s
  | .lea f => Sys2Proof.Machine.execLea f s
  | .mov u b a d => Sys2Proof.Machine.execMov u b a d s
  | .movExt f => Sys2Proof.Machine.execMovExt f s
  | .bysel f => Sys2Proof.Machine.execBysel f s
  | .fadd u b a d => Sys2Proof.Machine.execFadd u b a d s
  | .faddExt f => Sys2Proof.Machine.execFaddExt f s
  | .fsub u b a d => Sys2Proof.Machine.execFsub u b a d s
  | .fsubExt f => Sys2Proof.Machine.execFsubExt f s
  | .fmul u b a d => Sys2Proof.Machine.execFmul u b a d s
  | .fmulExt f => Sys2Proof.Machine.execFmulExt f s
  | .ffma f => Sys2Proof.Machine.execFfma f s
  | .fmin u b a d => Sys2Proof.Machine.execFmin u b a d s
  | .fminExt f => Sys2Proof.Machine.execFminExt f s
  | .fmax u b a d => Sys2Proof.Machine.execFmax u b a d s
  | .fmaxExt f => Sys2Proof.Machine.execFmaxExt f s
  | .fminp f => Sys2Proof.Machine.execFminp f s
  | .fmaxp f => Sys2Proof.Machine.execFmaxp f s
  | .fcmp u b a d => Sys2Proof.Machine.execFcmp u b a d s
  | .fcmpExt f => Sys2Proof.Machine.execFcmpExt f s
  | .frcp u b a d => Sys2Proof.Machine.execFrcp u b a d s
  | .frcpExt f => Sys2Proof.Machine.execFrcpExt f s
  | .frsq u b a d => Sys2Proof.Machine.execFrsq u b a d s
  | .frsqExt f => Sys2Proof.Machine.execFrsqExt f s
  | .fsqrt u b a d => Sys2Proof.Machine.execFsqrt u b a d s
  | .fsqrtExt f => Sys2Proof.Machine.execFsqrtExt f s
  | .fdiv f => Sys2Proof.Machine.execFdiv f s
  | .fexp2 u b a d => Sys2Proof.Machine.execFexp2 u b a d s
  | .fexp2Ext f => Sys2Proof.Machine.execFexp2Ext f s
  | .flog2 u b a d => Sys2Proof.Machine.execFlog2 u b a d s
  | .flog2Ext f => Sys2Proof.Machine.execFlog2Ext f s
  | .fsin f => Sys2Proof.Machine.execFsin f s
  | .fcos f => Sys2Proof.Machine.execFcos f s
  | .frnd f => Sys2Proof.Machine.execFrnd f s
  | .fclass f => Sys2Proof.Machine.execFclass f s
  | .fldexp f => Sys2Proof.Machine.execFldexp f s
  | .ffrexp f => Sys2Proof.Machine.execFfrexp f s
  | .padd2 f => Sys2Proof.Machine.execPadd2 f s
  | .pmul2 f => Sys2Proof.Machine.execPmul2 f s
  | .pfma2 f => Sys2Proof.Machine.execPfma2 f s
  | .cvt f => Sys2Proof.Machine.execCvt f s
  | .qblk f => Sys2Proof.Machine.execQblk f s
  | .dqblk f => Sys2Proof.Machine.execDqblk f s
  | .shfl f => Sys2Proof.Machine.execShfl f s
  | .matchOp f => Sys2Proof.Machine.execMatchOp f s
  | .ballot f => Sys2Proof.Machine.execBallot f s
  | .vote f => Sys2Proof.Machine.execVote f s
  | .redu f => Sys2Proof.Machine.execRedu f s
  | .scan f => Sys2Proof.Machine.execScan f s
  | .nop rest => Sys2Proof.Machine.execNop rest s
  | .nopExt f => Sys2Proof.Machine.execNopExt f s
  | .bra rest => Sys2Proof.Machine.execBra rest s
  | .braExt f => Sys2Proof.Machine.execBraExt f s
  | .brx f => Sys2Proof.Machine.execBrx f s
  | .call rest => Sys2Proof.Machine.execCall rest s
  | .callExt f => Sys2Proof.Machine.execCallExt f s
  | .ret rest => Sys2Proof.Machine.execRet rest s
  | .retExt f => Sys2Proof.Machine.execRetExt f s
  | .loopOp f => Sys2Proof.Machine.execLoopOp f s
  | .lbinv f => Sys2Proof.Machine.execLbinv f s
  | .exitOp rest => Sys2Proof.Machine.execExitOp rest s
  | .exitOpExt f => Sys2Proof.Machine.execExitOpExt f s
  | .yield rest => Sys2Proof.Machine.execYield rest s
  | .yieldExt f => Sys2Proof.Machine.execYieldExt f s
  | .trap f => Sys2Proof.Machine.execTrap f s
  | .brk f => Sys2Proof.Machine.execBrk f s
  | .waitc f => Sys2Proof.Machine.execWaitc f s
  | .bar f => Sys2Proof.Machine.execBar f s
  | .abinit f => Sys2Proof.Machine.execAbinit f s
  | .abarv f => Sys2Proof.Machine.execAbarv f s
  | .abwait f => Sys2Proof.Machine.execAbwait f s
  | .abexp f => Sys2Proof.Machine.execAbexp f s
  | .stgw f => Sys2Proof.Machine.execStgw f s
  | .stgp f => Sys2Proof.Machine.execStgp f s
  | .spawn f => Sys2Proof.Machine.execSpawn f s
  | .joinOp f => Sys2Proof.Machine.execJoinOp f s
  | .ralloc f => Sys2Proof.Machine.execRalloc f s
  | .rfree f => Sys2Proof.Machine.execRfree f s
  | .twait f => Sys2Proof.Machine.execTwait f s
  | .ld u b a d => Sys2Proof.Machine.execLd u b a d s
  | .ldExt f => Sys2Proof.Machine.execLdExt f s
  | .st u b a d => Sys2Proof.Machine.execSt u b a d s
  | .stExt f => Sys2Proof.Machine.execStExt f s
  | .ldp f => Sys2Proof.Machine.execLdp f s
  | .stp f => Sys2Proof.Machine.execStp f s
  | .atom f => Sys2Proof.Machine.execAtom f s
  | .atomn f => Sys2Proof.Machine.execAtomn f s
  | .atomw f => Sys2Proof.Machine.execAtomw f s
  | .atomp f => Sys2Proof.Machine.execAtomp f s
  | .fence f => Sys2Proof.Machine.execFence f s
  | .xfence f => Sys2Proof.Machine.execXfence f s
  | .xlt f => Sys2Proof.Machine.execXlt f s
  | .pref f => Sys2Proof.Machine.execPref f s
  | .cflush f => Sys2Proof.Machine.execCflush f s
  | .cinv f => Sys2Proof.Machine.execCinv f s
  | .hcopy f => Sys2Proof.Machine.execHcopy f s
  | .hxpose f => Sys2Proof.Machine.execHxpose f s
  | .hfill f => Sys2Proof.Machine.execHfill f s
  | .hrem f => Sys2Proof.Machine.execHrem f s
  | .hsig f => Sys2Proof.Machine.execHsig f s
  | .htrig f => Sys2Proof.Machine.execHtrig f s
  | .gath f => Sys2Proof.Machine.execGath f s
  | .scat f => Sys2Proof.Machine.execScat f s
  | .mloop f => Sys2Proof.Machine.execMloop f s
  | .mzero f => Sys2Proof.Machine.execMzero f s
  | .mtrd f => Sys2Proof.Machine.execMtrd f s
  | .mtwr f => Sys2Proof.Machine.execMtwr f s
  | .mldt f => Sys2Proof.Machine.execMldt f s
  | .mstt f => Sys2Proof.Machine.execMstt f s
  | .rtrav f => Sys2Proof.Machine.execRtrav f s
  | .texf f => Sys2Proof.Machine.execTexf f s
  | .wsend f => Sys2Proof.Machine.execWsend f s
  | .wrecv f => Sys2Proof.Machine.execWrecv f s
  | .wbay f => Sys2Proof.Machine.execWbay f s
  | .coll f => Sys2Proof.Machine.execColl f s
  | .cmpj f => Sys2Proof.Machine.execCmpj f s
  | .cmpq f => Sys2Proof.Machine.execCmpq f s
  | .csrr f => Sys2Proof.Machine.execCsrr f s
  | .csrw f => Sys2Proof.Machine.execCsrw f s
  | .eret f => Sys2Proof.Machine.execEret f s
  | .time f => Sys2Proof.Machine.execTime f s
  | .svc f => Sys2Proof.Machine.execSvc f s
  | .loadDataReturn => Sys2Proof.Machine.execLoadDataReturn s
  | .groupRetire => Sys2Proof.Machine.execGroupRetire s
  | .blockPlace => Sys2Proof.Machine.execBlockPlace s
  | .rallocGrant => Sys2Proof.Machine.execRallocGrant s
  | .rfreeReturn => Sys2Proof.Machine.execRfreeReturn s
  | .growthDeadlockSpill => Sys2Proof.Machine.execGrowthDeadlockSpill s
  | .blockSave => Sys2Proof.Machine.execBlockSave s
  | .blockRestore => Sys2Proof.Machine.execBlockRestore s
  | .activeSetEntry => Sys2Proof.Machine.execActiveSetEntry s
  | .yieldExpire => Sys2Proof.Machine.execYieldExpire s
  | .twaitResume => Sys2Proof.Machine.execTwaitResume s
  | .htrigFire => Sys2Proof.Machine.execHtrigFire s
  | .haulOpComplete => Sys2Proof.Machine.execHaulOpComplete s
  | .haulOpFault => Sys2Proof.Machine.execHaulOpFault s
  | .hremSignal => Sys2Proof.Machine.execHremSignal s
  | .ntOpComplete => Sys2Proof.Machine.execNtOpComplete s
  | .gathScatComplete => Sys2Proof.Machine.execGathScatComplete s
  | .mloopKstep => Sys2Proof.Machine.execMloopKstep s
  | .mloopComplete => Sys2Proof.Machine.execMloopComplete s
  | .tileOpComplete => Sys2Proof.Machine.execTileOpComplete s
  | .rtravComplete => Sys2Proof.Machine.execRtravComplete s
  | .texfComplete => Sys2Proof.Machine.execTexfComplete s
  | .homeStoreApply => Sys2Proof.Machine.execHomeStoreApply s
  | .sharerUpdate => Sys2Proof.Machine.execSharerUpdate s
  | .storeComplete => Sys2Proof.Machine.execStoreComplete s
  | .l1Fill => Sys2Proof.Machine.execL1Fill s
  | .ownershipRecall => Sys2Proof.Machine.execOwnershipRecall s
  | .farAtomic => Sys2Proof.Machine.execFarAtomic s
  | .directoryRebuild => Sys2Proof.Machine.execDirectoryRebuild s
  | .hostRead => Sys2Proof.Machine.execHostRead s
  | .hostWrite => Sys2Proof.Machine.execHostWrite s
  | .poolBackInvalidate => Sys2Proof.Machine.execPoolBackInvalidate s
  | .tlbInv => Sys2Proof.Machine.execTlbInv s
  | .tlbInvComplete => Sys2Proof.Machine.execTlbInvComplete s
  | .lsBankSwitch => Sys2Proof.Machine.execLsBankSwitch s
  | .lsBankGate => Sys2Proof.Machine.execLsBankGate s
  | .lsBankSwitchDone => Sys2Proof.Machine.execLsBankSwitchDone s
  | .lsBankWakeDone => Sys2Proof.Machine.execLsBankWakeDone s
  | .l2WayGate => Sys2Proof.Machine.execL2WayGate s
  | .l2WayGateDone => Sys2Proof.Machine.execL2WayGateDone s
  | .l2WayWake => Sys2Proof.Machine.execL2WayWake s
  | .l2WayWakeDone => Sys2Proof.Machine.execL2WayWakeDone s
  | .hostWinbase => Sys2Proof.Machine.execHostWinbase s
  | .hostWinsize => Sys2Proof.Machine.execHostWinsize s
  | .drayCfg => Sys2Proof.Machine.execDrayCfg s
  | .fabMembers => Sys2Proof.Machine.execFabMembers s
  | .peerUnreachable => Sys2Proof.Machine.execPeerUnreachable s
  | .fabClass => Sys2Proof.Machine.execFabClass s
  | .read => Sys2Proof.Machine.execRead s
  | .readData => Sys2Proof.Machine.execReadData s
  | .write => Sys2Proof.Machine.execWrite s
  | .atomicReq => Sys2Proof.Machine.execAtomicReq s
  | .atomicData => Sys2Proof.Machine.execAtomicData s
  | .acknowledgement => Sys2Proof.Machine.execAcknowledgement s
  | .rateIncrease => Sys2Proof.Machine.execRateIncrease s
  | .signal => Sys2Proof.Machine.execSignal s
  | .wagon => Sys2Proof.Machine.execWagon s
  | .credit => Sys2Proof.Machine.execCredit s
  | .multicastWrite => Sys2Proof.Machine.execMulticastWrite s
  | .multicastCopyDrop => Sys2Proof.Machine.execMulticastCopyDrop s
  | .branchNack => Sys2Proof.Machine.execBranchNack s
  | .poolLinkLost => Sys2Proof.Machine.execPoolLinkLost s
  | .poolLinkDownTimeout => Sys2Proof.Machine.execPoolLinkDownTimeout s
  | .poolRequestTimeout => Sys2Proof.Machine.execPoolRequestTimeout s
  | .poolRsync => Sys2Proof.Machine.execPoolRsync s
  | .landauJobStart => Sys2Proof.Machine.execLandauJobStart s
  | .uetMessage => Sys2Proof.Machine.execUetMessage s
  | .landauTimeout => Sys2Proof.Machine.execLandauTimeout s
  | .collChildArrive => Sys2Proof.Machine.execCollChildArrive s
  | .collComplete => Sys2Proof.Machine.execCollComplete s
  | .ptpEventMessage => Sys2Proof.Machine.execPtpEventMessage s
  | .ptpSyncLoss => Sys2Proof.Machine.execPtpSyncLoss s
  | .ptpCfg => Sys2Proof.Machine.execPtpCfg s
  | .queueTail => Sys2Proof.Machine.execQueueTail s
  | .queueCfg => Sys2Proof.Machine.execQueueCfg s
  | .recordStart => Sys2Proof.Machine.execRecordStart s
  | .tokSignal => Sys2Proof.Machine.execTokSignal s
  | .tokenRecordFire => Sys2Proof.Machine.execTokenRecordFire s
  | .graphReplayStart => Sys2Proof.Machine.execGraphReplayStart s
  | .graphNodeStart => Sys2Proof.Machine.execGraphNodeStart s
  | .goResize => Sys2Proof.Machine.execGoResize s
  | .cancel => Sys2Proof.Machine.execCancel s
  | .evdone => Sys2Proof.Machine.execEvdone s
  | .planDone => Sys2Proof.Machine.execPlanDone s
  | .admitEvent => Sys2Proof.Machine.execAdmit s
  | .shuntMove => Sys2Proof.Machine.execShuntMove s
  | .rehashSweep => Sys2Proof.Machine.execRehashSweep s
  | .rehashDone => Sys2Proof.Machine.execRehashDone s
  | .evacFrameCopy => Sys2Proof.Machine.execEvacFrameCopy s
  | .scrubDone => Sys2Proof.Machine.execScrubDone s
  | .partWchan => Sys2Proof.Machine.execPartWchan s
  | .landauPid => Sys2Proof.Machine.execLandauPid s
  | .mgmtRegisterWrite => Sys2Proof.Machine.execMgmtRegisterWrite s
  | .mgo => Sys2Proof.Machine.execMgo s
  | .resetEvent => Sys2Proof.Machine.execResetEvent s
  | .imgChunk => Sys2Proof.Machine.execImgChunk s
  | .imgRun => Sys2Proof.Machine.execImgRun s
  | .imgFlash => Sys2Proof.Machine.execImgFlash s
  | .cfgWrite => Sys2Proof.Machine.execCfgWrite s
  | .testEnter => Sys2Proof.Machine.execTestEnter s
  | .pwrLimit => Sys2Proof.Machine.execPwrLimit s
  | .dumpRelease => Sys2Proof.Machine.execDumpRelease s
  | .identity => Sys2Proof.Machine.execIdentity s
  | .keySet => Sys2Proof.Machine.execKeySet s
  | .keyClear => Sys2Proof.Machine.execKeyClear s
  | .loadPolicy => Sys2Proof.Machine.execLoadPolicy s
  | .loadContainer => Sys2Proof.Machine.execLoadContainer s
  | .quote => Sys2Proof.Machine.execQuote s
  | .mbxUnknownCommand => Sys2Proof.Machine.execMbxUnknownCommand s
  | .thermalTrip => Sys2Proof.Machine.execThermalTrip s
  | .feedFault => Sys2Proof.Machine.execFeedFault s
  | .packageFatalError => Sys2Proof.Machine.execPackageFatalError s
  | .powerLimitControl => Sys2Proof.Machine.execPowerLimitControl s
  | .reservedMajorOpcode w => Sys2Proof.Machine.execReservedMajorOpcode w s
  | .svOperationComplete => Sys2Proof.Machine.execSvOperationComplete s
  | .ngaubPortDown => Sys2Proof.Machine.execNgaubPortDown s
  | .ngaubPortUp => Sys2Proof.Machine.execNgaubPortUp s
  | .poolLinkTrained => Sys2Proof.Machine.execPoolLinkTrained s
  | .uetLinkError => Sys2Proof.Machine.execUetLinkError s

end Sys2Proof.Machine
end

