-- ==== Sys2Proof/Machine/Schedule.lean ====
section
/-! DEFINITION. Which internal event happens next when the agenda is empty: the first that can, oldest operation first
(log 1). Events that the outside world causes, and those the package is free to make or not, come from the agenda only. -/

namespace Sys2Proof.Machine

/-- The event `i` with operands `a`, if it can happen. -/
def ifCan (s : State) (ev : State → Option State) (i : Instr) (a : EvArgs) : Option (Instr × EvArgs) :=
  if (ev { s with ev := a }).isSome then some (i, a) else none

/-- The first event of a list that can happen. -/
def firstOf (s : State) : List ((State → Option State) × Instr × EvArgs) → Option (Instr × EvArgs)
  | [] => none
  | (ev, i, a) :: rest => match ifCan s ev i a with
    | some e => some e
    | none => firstOf s rest

/-- The numbers of an operation's parts of accesses. -/
def partNumbers (o : Op) : List (Nat × Nat) :=
  ((List.range o.accs.length).zip o.accs).flatMap (fun (k, a) => (List.range (max 1 a.pieces.length)).map (fun j => (k, j)))

/-- What may happen to an operation. -/
def opEvents (o : Op) : List ((State → Option State) × Instr × EvArgs) :=
  let lanes := o.accs.map (fun a => (evLoadDataReturn, Instr.loadDataReturn, { a := o.oid, b := a.lane : EvArgs }))
  let far := (List.range o.accs.length).map (fun k => (evFarAtomic, Instr.farAtomic, { a := o.oid, b := k : EvArgs }))
  let parts := (partNumbers o).map (fun (k, j) => (evHomeStoreApply, Instr.homeStoreApply, { a := o.oid, b := k, c := j : EvArgs }))
  let e : EvArgs := { a := o.oid }
  let fault := (evHaulOpFault, Instr.haulOpFault, e)
  match o.kind with
  | .load _ _ _ _ => lanes
  | .pref _ => lanes
  | .store => parts ++ [(evStoreComplete, .storeComplete, e)]
  | .atomic _ _ (some _) _ => lanes ++ far
  | .atomic _ _ none _ => parts ++ far ++ [(evStoreComplete, .storeComplete, e)]
  | .fence _ => []
  | .xlt _ _ => [(evSvOperationComplete, .svOperationComplete, e)]
  | .cache _ _ _ => [(evSvOperationComplete, .svOperationComplete, e)]
  | .haul _ _ _ _ _ => [(evHaulOpComplete, .haulOpComplete, e), fault]
  | .hrem _ _ _ => [(evHremSignal, .hremSignal, e), (evHaulOpComplete, .haulOpComplete, e), fault]
  | .gather _ _ => [(evGathScatComplete, .gathScatComplete, e), fault]
  | .scatter _ _ _ => [(evGathScatComplete, .gathScatComplete, e), fault]
  | .hsig _ _ => [(evNtOpComplete, .ntOpComplete, e), fault]
  | .wsend => [(evNtOpComplete, .ntOpComplete, e), fault]
  | .wrecv _ _ _ => [(evNtOpComplete, .ntOpComplete, e)]
  | .coll _ _ _ _ _ _ _ => [(evCollComplete, .collComplete, e), fault]
  | .mloop _ _ _ _ _ _ => [(evMloopKstep, .mloopKstep, e), (evMloopComplete, .mloopComplete, e)]
  | .tileOp _ _ _ _ _ _ _ _ _ => [(evTileOpComplete, .tileOpComplete, e)]
  | .rtrav _ _ _ _ => [(evRtravComplete, .rtravComplete, e)]
  | .texf _ _ _ => [(evTexfComplete, .texfComplete, e)]
  | .job _ _ => []
  | .service _ _ => []
  | .bare => []
  | .done => []

/-- Does a group's entry in its active set come now: a place is free, or one of the set has issued since the group has? -/
def entersNow (s : State) (g : Group) : Bool :=
  !g.active && !g.retired &&
  (match mfind g.bid s.blocks with
   | some b =>
     let act := activeReady s b.core g.slot
     decide (act.length < 4) || (decide (g.lastIssue + 32 ≤ slotTime s g) && act.any (fun x => decide (g.lastIssue < x.lastIssue)))
   | none => false)

/-- Every ready group whose entry in its active set is due enters it (R27). -/
def enterDue : Nat → State → State
  | 0, s => s
  | fuel + 1, s =>
    match s.groups.findSome? (fun e => if entersNow s e.2 then evActiveSetEntry { s with ev := { a := e.1 } } else none) with
    | some t => enterDue fuel { t with ev := s.ev }
    | none => s

/-- What may happen to a group. -/
def groupEvents (s : State) (g : Group) : List ((State → Option State) × Instr × EvArgs) :=
  let e : EvArgs := { a := g.gid }
  [(evHtrigFire, .htrigFire, e), (evGroupRetire, .groupRetire, e), (evRfreeReturn, .rfreeReturn, e), (evYieldExpire, .yieldExpire, e),
   (evTwaitResume, .twaitResume, e)] ++
  (if entersNow s g then [(evActiveSetEntry, .activeSetEntry, e)] else [])

/-- What may happen to a core and its banks. -/
def coreEvents (c : Nat) (x : Core) : List ((State → Option State) × Instr × EvArgs) :=
  [(evRallocGrant, .rallocGrant, { a := c }), (evGrowthDeadlockSpill, .growthDeadlockSpill, { a := c })] ++
  x.banks.flatMap (fun e => [(evLsBankSwitchDone, .lsBankSwitchDone, { a := c, b := e.1 }), (evLsBankWakeDone, .lsBankWakeDone, { a := c, b := e.1 })])

/-- What may happen to a partition's resize. -/
def resizeEvents (s : State) (part : Nat) (p : Part) : List ((State → Option State) × Instr × EvArgs) :=
  let e : EvArgs := { a := part }
  let scrub := fun (kind own next w : Nat) => ((List.range w).filter (fun n => bit own n && !bit next n)).map
    (fun n => (evScrubDone, Instr.scrubDone, { a := part, b := kind, c := n : EvArgs }))
  match p.state with
  | 1 => [(evPlanDone, .planDone, e)]
  | 2 => [(evAdmit, .admitEvent, e)]
  | 4 => ((heldLines s part).filter (mustMove p)).map (fun l => (evRehashSweep, Instr.rehashSweep, { a := part, b := l : EvArgs })) ++
      [(evRehashDone, .rehashDone, e)]
  | 5 => [(evEvacFrameCopy, .evacFrameCopy, e)]
  | 6 => scrub 0 p.quads p.nquads 192 ++ scrub 1 p.slices p.nslices 256 ++ scrub 2 p.chgrps p.nchgrps 128
  | _ => []

/-- What a partition's distributor does next. -/
def distEvent (s : State) (part : Nat) : Option (Instr × EvArgs) :=
  match distNext s part with
  | .restore bid _ => some (.blockRestore, { a := bid })
  | .place _ _ => some (.blockPlace, { a := part })
  | .start q true _ => some (.graphReplayStart, { a := part, b := q })
  | .start q false _ => some (.recordStart, { a := part, b := q })
  | .none => none

/-- What may happen to a partition. -/
def partEvents (s : State) (part : Nat) (p : Part) : List ((State → Option State) × Instr × EvArgs) :=
  let e : EvArgs := { a := part }
  [(evTlbInvComplete, .tlbInvComplete, e), (evLandauJobStart, .landauJobStart, e), (evLandauTimeout, .landauTimeout, e)] ++ resizeEvents s part p ++
  p.qcfg.map (fun q => (evTokenRecordFire, Instr.tokenRecordFire, { a := part, b := q.1 : EvArgs }))

/-- The mailbox command that the host has started. -/
def mailboxEvent (s : State) : Option (Instr × EvArgs) :=
  if !mbxBusy s then none
  else
    let all : List Instr := [.imgChunk, .imgRun, .imgFlash, .cfgWrite, .testEnter, .pwrLimit, .dumpRelease, .identity, .keySet, .keyClear, .loadPolicy,
      .loadContainer, .quote]
    some (if s.boot.mbxCmd = 0 then .mbxUnknownCommand else all.getD (s.boot.mbxCmd - 1) .mbxUnknownCommand, {})

/-- The way of an L2 slice that is being gated or woken. -/
def wayEvent (s : State) : Option (Instr × EvArgs) :=
  s.ways.findSome? (fun e => (List.range 16).findSome? (fun w =>
    if bit e.2 (32 + w) then some (Instr.l2WayGateDone, { a := e.1, b := w : EvArgs })
    else if bit e.2 w && !bit e.2 (16 + w) then some (Instr.l2WayWakeDone, { a := e.1, b := w : EvArgs })
    else none))

/-- The first internal event that can happen; none without power. -/
def nextEvent (s : State) : Option (Instr × EvArgs) :=
  if s.boot.powerOff then none
  else
    let updates := s.updates.map (fun u => (evSharerUpdate, Instr.sharerUpdate, { a := u.oid, b := u.core, c := u.pa : EvArgs }))
    (firstOf s (updates ++ s.ops.flatMap opEvents ++ s.groups.flatMap (fun e => groupEvents s e.2) ++ s.cores.flatMap (fun e => coreEvents e.1 e.2) ++
      s.blocks.flatMap (fun e => [(evBlockSave, Instr.blockSave, { a := e.1 : EvArgs }), (evShuntMove, Instr.shuntMove, { a := e.1 : EvArgs })]) ++
      s.parts.flatMap (fun e => partEvents s e.1 e.2) ++ s.runs.map (fun e => (evGraphNodeStart, Instr.graphNodeStart, { a := e.1 : EvArgs })))).or
    ((s.parts.findSome? (fun e => distEvent s e.1)).or ((mailboxEvent s).or (wayEvent s)))

end Sys2Proof.Machine
end

