-- ==== Sys2Proof/WellFormed.lean ====
section
/-! DEFINITION. Well-formed instructions: the words are the ones this row's constructor stands for, and neither an
illegal-instruction nor a reserved-field condition of R70 holds (spec/03). What depends on the group (its role,
allocation, level) or on operand codes is checked when the instruction issues. -/

namespace Sys2Proof

open Sys2Proof.Machine

/-- The form is not the compact word of a compact-eligible opcode, which has a row of its own. -/
def Form.ownRow (op : Nat) (f : Form) : Bool :=
  match f with
  | .cmp _ _ _ _ => !((opInfo op).map (fun i => i.elig)).getD false
  | _ => true

/-- Does the constructor stand for these words? Only then does decoding give it back. -/
def Instr.canonical (i : Instr) : Bool :=
  match i with
  | .iadd _ _ _ _ => true
  | .iaddExt f => f.ownRow 0x00
  | .isub _ _ _ _ => true
  | .isubExt f => f.ownRow 0x01
  | .imul _ _ _ _ => true
  | .imulExt f => f.ownRow 0x02
  | .imulh _ _ _ _ => true
  | .imulhExt f => f.ownRow 0x03
  | .imad f => f.ownRow 0x04
  | .imadw f => f.ownRow 0x05
  | .iaddc f => f.ownRow 0x06
  | .ineg _ _ _ _ => true
  | .inegExt f => f.ownRow 0x07
  | .iabs _ _ _ _ => true
  | .iabsExt f => f.ownRow 0x08
  | .imin _ _ _ _ => true
  | .iminExt f => f.ownRow 0x09
  | .imax _ _ _ _ => true
  | .imaxExt f => f.ownRow 0x0A
  | .iand _ _ _ _ => true
  | .iandExt f => f.ownRow 0x0B
  | .ior _ _ _ _ => true
  | .iorExt f => f.ownRow 0x0C
  | .ixor _ _ _ _ => true
  | .ixorExt f => f.ownRow 0x0D
  | .andn _ _ _ _ => true
  | .andnExt f => f.ownRow 0x0E
  | .inot _ _ _ _ => true
  | .inotExt f => f.ownRow 0x0F
  | .shl _ _ _ _ => true
  | .shlExt f => f.ownRow 0x10
  | .shr _ _ _ _ => true
  | .shrExt f => f.ownRow 0x11
  | .sar _ _ _ _ => true
  | .sarExt f => f.ownRow 0x12
  | .rotl _ _ _ _ => true
  | .rotlExt f => f.ownRow 0x13
  | .bfx f => f.ownRow 0x14
  | .bfi f => f.ownRow 0x15
  | .popc _ _ _ _ => true
  | .popcExt f => f.ownRow 0x16
  | .clz _ _ _ _ => true
  | .clzExt f => f.ownRow 0x17
  | .ctz _ _ _ _ => true
  | .ctzExt f => f.ownRow 0x18
  | .brev _ _ _ _ => true
  | .brevExt f => f.ownRow 0x19
  | .icmp _ _ _ _ => true
  | .icmpExt f => f.ownRow 0x1A
  | .sel f => f.ownRow 0x1B
  | .lea f => f.ownRow 0x1C
  | .mov _ _ _ _ => true
  | .movExt f => f.ownRow 0x1D
  | .bysel f => f.ownRow 0x1E
  | .fadd _ _ _ _ => true
  | .faddExt f => f.ownRow 0x20
  | .fsub _ _ _ _ => true
  | .fsubExt f => f.ownRow 0x21
  | .fmul _ _ _ _ => true
  | .fmulExt f => f.ownRow 0x22
  | .ffma f => f.ownRow 0x23
  | .fmin _ _ _ _ => true
  | .fminExt f => f.ownRow 0x24
  | .fmax _ _ _ _ => true
  | .fmaxExt f => f.ownRow 0x25
  | .fminp f => f.ownRow 0x26
  | .fmaxp f => f.ownRow 0x27
  | .fcmp _ _ _ _ => true
  | .fcmpExt f => f.ownRow 0x28
  | .frcp _ _ _ _ => true
  | .frcpExt f => f.ownRow 0x29
  | .frsq _ _ _ _ => true
  | .frsqExt f => f.ownRow 0x2A
  | .fsqrt _ _ _ _ => true
  | .fsqrtExt f => f.ownRow 0x2B
  | .fdiv f => f.ownRow 0x2C
  | .fexp2 _ _ _ _ => true
  | .fexp2Ext f => f.ownRow 0x2D
  | .flog2 _ _ _ _ => true
  | .flog2Ext f => f.ownRow 0x2E
  | .fsin f => f.ownRow 0x2F
  | .fcos f => f.ownRow 0x30
  | .frnd f => f.ownRow 0x31
  | .fclass f => f.ownRow 0x32
  | .fldexp f => f.ownRow 0x33
  | .ffrexp f => f.ownRow 0x34
  | .padd2 f => f.ownRow 0x35
  | .pmul2 f => f.ownRow 0x36
  | .pfma2 f => f.ownRow 0x37
  | .cvt f => f.ownRow 0x40
  | .qblk f => f.ownRow 0x41
  | .dqblk f => f.ownRow 0x42
  | .shfl f => f.ownRow 0x43
  | .matchOp f => f.ownRow 0x44
  | .ballot f => f.ownRow 0x45
  | .vote f => f.ownRow 0x46
  | .redu f => f.ownRow 0x47
  | .scan f => f.ownRow 0x48
  | .nop _ => true
  | .nopExt f => f.ownRow 0x60
  | .bra _ => true
  | .braExt f => f.ownRow 0x61
  | .brx f => f.ownRow 0x62
  | .call _ => true
  | .callExt f => f.ownRow 0x63
  | .ret _ => true
  | .retExt f => f.ownRow 0x64
  | .loopOp f => f.ownRow 0x65
  | .lbinv f => f.ownRow 0x66
  | .exitOp _ => true
  | .exitOpExt f => f.ownRow 0x67
  | .yield _ => true
  | .yieldExt f => f.ownRow 0x68
  | .trap f => f.ownRow 0x69
  | .brk f => f.ownRow 0x6A
  | .waitc f => f.ownRow 0x6B
  | .bar f => f.ownRow 0x6C
  | .abinit f => f.ownRow 0x6D
  | .abarv f => f.ownRow 0x6E
  | .abwait f => f.ownRow 0x6F
  | .abexp f => f.ownRow 0x70
  | .stgw f => f.ownRow 0x71
  | .stgp f => f.ownRow 0x72
  | .spawn f => f.ownRow 0x73
  | .joinOp f => f.ownRow 0x74
  | .ralloc f => f.ownRow 0x75
  | .rfree f => f.ownRow 0x76
  | .twait f => f.ownRow 0x77
  | .ld _ _ _ _ => true
  | .ldExt f => f.ownRow 0x80
  | .st _ _ _ _ => true
  | .stExt f => f.ownRow 0x81
  | .ldp f => f.ownRow 0x82
  | .stp f => f.ownRow 0x83
  | .atom f => f.ownRow 0x84
  | .atomn f => f.ownRow 0x85
  | .atomw f => f.ownRow 0x86
  | .atomp f => f.ownRow 0x87
  | .fence f => f.ownRow 0x88
  | .xfence f => f.ownRow 0x89
  | .xlt f => f.ownRow 0x8A
  | .pref f => f.ownRow 0x8B
  | .cflush f => f.ownRow 0x8C
  | .cinv f => f.ownRow 0x8D
  | .hcopy f => f.ownRow 0xA0
  | .hxpose f => f.ownRow 0xA1
  | .hfill f => f.ownRow 0xA2
  | .hrem f => f.ownRow 0xA3
  | .hsig f => f.ownRow 0xA4
  | .htrig f => f.ownRow 0xA5
  | .gath f => f.ownRow 0xA6
  | .scat f => f.ownRow 0xA7
  | .mloop f => f.ownRow 0xA8
  | .mzero f => f.ownRow 0xA9
  | .mtrd f => f.ownRow 0xAA
  | .mtwr f => f.ownRow 0xAB
  | .mldt f => f.ownRow 0xAC
  | .mstt f => f.ownRow 0xAD
  | .rtrav f => f.ownRow 0xC0
  | .texf f => f.ownRow 0xC1
  | .wsend f => f.ownRow 0xC2
  | .wrecv f => f.ownRow 0xC3
  | .wbay f => f.ownRow 0xC4
  | .coll f => f.ownRow 0xC5
  | .cmpj f => f.ownRow 0xC6
  | .cmpq f => f.ownRow 0xC7
  | .csrr f => f.ownRow 0xE0
  | .csrw f => f.ownRow 0xE1
  | .eret f => f.ownRow 0xE2
  | .time f => f.ownRow 0xE3
  | .svc f => f.ownRow 0xE4
  | .loadDataReturn => true
  | .groupRetire => true
  | .blockPlace => true
  | .rallocGrant => true
  | .rfreeReturn => true
  | .growthDeadlockSpill => true
  | .blockSave => true
  | .blockRestore => true
  | .activeSetEntry => true
  | .yieldExpire => true
  | .twaitResume => true
  | .htrigFire => true
  | .haulOpComplete => true
  | .haulOpFault => true
  | .hremSignal => true
  | .ntOpComplete => true
  | .gathScatComplete => true
  | .mloopKstep => true
  | .mloopComplete => true
  | .tileOpComplete => true
  | .rtravComplete => true
  | .texfComplete => true
  | .homeStoreApply => true
  | .sharerUpdate => true
  | .storeComplete => true
  | .l1Fill => true
  | .ownershipRecall => true
  | .farAtomic => true
  | .directoryRebuild => true
  | .hostRead => true
  | .hostWrite => true
  | .poolBackInvalidate => true
  | .tlbInv => true
  | .tlbInvComplete => true
  | .lsBankSwitch => true
  | .lsBankGate => true
  | .lsBankSwitchDone => true
  | .lsBankWakeDone => true
  | .l2WayGate => true
  | .l2WayGateDone => true
  | .l2WayWake => true
  | .l2WayWakeDone => true
  | .hostWinbase => true
  | .hostWinsize => true
  | .drayCfg => true
  | .fabMembers => true
  | .peerUnreachable => true
  | .fabClass => true
  | .read => true
  | .readData => true
  | .write => true
  | .atomicReq => true
  | .atomicData => true
  | .acknowledgement => true
  | .rateIncrease => true
  | .signal => true
  | .wagon => true
  | .credit => true
  | .multicastWrite => true
  | .multicastCopyDrop => true
  | .branchNack => true
  | .poolLinkLost => true
  | .poolLinkDownTimeout => true
  | .poolRequestTimeout => true
  | .poolRsync => true
  | .landauJobStart => true
  | .uetMessage => true
  | .landauTimeout => true
  | .collChildArrive => true
  | .collComplete => true
  | .ptpEventMessage => true
  | .ptpSyncLoss => true
  | .ptpCfg => true
  | .queueTail => true
  | .queueCfg => true
  | .recordStart => true
  | .tokSignal => true
  | .tokenRecordFire => true
  | .graphReplayStart => true
  | .graphNodeStart => true
  | .goResize => true
  | .cancel => true
  | .evdone => true
  | .planDone => true
  | .admitEvent => true
  | .shuntMove => true
  | .rehashSweep => true
  | .rehashDone => true
  | .evacFrameCopy => true
  | .scrubDone => true
  | .partWchan => true
  | .landauPid => true
  | .mgmtRegisterWrite => true
  | .mgo => true
  | .resetEvent => true
  | .imgChunk => true
  | .imgRun => true
  | .imgFlash => true
  | .cfgWrite => true
  | .testEnter => true
  | .pwrLimit => true
  | .dumpRelease => true
  | .identity => true
  | .keySet => true
  | .keyClear => true
  | .loadPolicy => true
  | .loadContainer => true
  | .quote => true
  | .mbxUnknownCommand => true
  | .thermalTrip => true
  | .feedFault => true
  | .packageFatalError => true
  | .powerLimitControl => true
  | .reservedMajorOpcode w => (opInfo (w.toNat / 4 % 256)).isNone && decide (w.toNat < 2 ^ (8 * (rawReserved w.toNat).len))
  | .svOperationComplete => true
  | .ngaubPortDown => true
  | .ngaubPortUp => true
  | .poolLinkTrained => true
  | .uetLinkError => true

/-- An instruction word, and not an event of the package. -/
def Instr.isWord (i : Instr) : Bool := (rawInstr i).isSome

/-- Well formed: a word of its row with no illegal-instruction and no reserved-field condition. -/
def Instr.wellFormed (i : Instr) : Bool :=
  i.canonical &&
  match rawInstr i with
  | none => false
  | some r =>
    !isIllegal r &&
    match opInfo r.op with
    | none => false
    | some info => !isReserved r info

end Sys2Proof
end

