-- ==== Sys2Proof/Machine/Step.lean ====
section
/-! DEFINITION. One step of the package: the agenda's next turn, else the first internal event that can happen, else the
issue R26 picks, else one idle cycle (logs 1 and 5). -/

namespace Sys2Proof.Machine

/-- A group begins its issue: it performs its next instruction, or takes the fetch fault. -/
def issueOf (s : State) (ready : List (Group × Pick)) (g : Group) (p : Pick) : Host.Outcome State Fault Refusal :=
  let mask := maskOf p.lanes
  match p.got with
  | .error e => .next (fetchTrap (restSlots s ready (beatsOf mask) p.st) g p.pc p.lanes e)
  | .ok f => exec f.instr { endWait g.gid (restSlots s ready (beatsOf mask) p.st) with isu := { gid := g.gid, pc := p.pc, mask := mask } }

/-- A group's turn on the agenda: groups that are due enter their active sets at once, and it issues where it is its slot's choice (R26, R27);
else the cycle passes. -/
def issueTurn (gid : Nat) (s0 : State) : Host.Outcome State Fault Refusal :=
  let s := enterDue s0.groups.length s0
  let ready := readyGroups s
  match chosenIssue s ready gid with
  | none => .next (idleTick s)
  | some (g, p) => issueOf s ready g p

/-- An event's turn. An instruction word is no event: only a group issues one, so its turn changes nothing (log 1). -/
def eventTurn (i : Instr) (a : EvArgs) (s : State) : Host.Outcome State Fault Refusal :=
  if i.isWord then .next s else exec i { s with ev := a }

/-- What happens with an empty agenda. -/
def defaultTurn (s : State) : Host.Outcome State Fault Refusal :=
  match nextEvent s with
  | some (i, a) => eventTurn i a s
  | none =>
    let ready := readyGroups s
    match firstReady s ready with
    | some (g, p) => issueOf s ready g p
    | none => .next (idleTick s)

/-- One step of the package. -/
def step (s : State) : Host.Outcome State Fault Refusal :=
  match s.agenda with
  | [] => defaultTurn s
  | .issue gid :: rest => issueTurn gid { s with agenda := rest }
  | .event i a :: rest => eventTurn i a { s with agenda := rest }

/-- The state in which the next step fetches and performs the word (log 11). -/
def State.withFetchWord (s : State) (nbits w : Nat) : State := placeWord s nbits w

end Sys2Proof.Machine
end

