-- ==== Sys2Proof/Safety.lean ====
section
/-! DEFINITION. What a run of the machine is and what counts as a safe one: no step ends in a fault or a refusal; a trap of
the hardware is a next state, not a fault. And the terms in which claims speak of one issue: the issue that is in progress,
the conditions under which an instruction has its own effect, what it writes and what it leaves alone. -/

namespace Sys2Proof

/-- One step leads from `s` to `t`. -/
def StepsTo (s t : Machine.State) : Prop := Machine.step s = .next t

/-- `t` is reached from `s` by some number of steps. -/
inductive Reaches : Machine.State → Machine.State → Prop where
  | refl (s : Machine.State) : Reaches s s
  | step (s t u : Machine.State) (h : StepsTo s t) (r : Reaches t u) : Reaches s u

/-- Every run from `s` goes on. -/
def Safe (s : Machine.State) : Prop := ∀ t, Reaches s t → ∃ u, StepsTo t u

namespace Machine

/-- Memory has its canonical form: addresses strictly rising, no byte listed that reads as an unlisted one (log 4). -/
abbrev Memory.wf (m : List Host.Cell) : Prop := cellsOk (0 : Byte) m = true

/-- `x` is the issue of the instruction word `i` that stands in progress in `s` (spec/01 R12). -/
structure Issues (i : Instr) (s : State) (x : Ctx) : Prop where
  raw : rawInstr i = some x.r
  st : x.s = s
  group : mfind s.isu.gid s.groups = some x.g
  key : x.g.gid = s.isu.gid
  block : mfind x.g.bid s.blocks = some x.b
  grid : mfind x.b.grid s.grids = some x.gr
  info : x.i = (opInfo x.r.op).getD (ctl false {})
  mask : x.mask = s.isu.mask
  pc : x.pc = s.isu.pc

/-- No condition that R412 puts before the instruction's own effect holds (spec/25 R411, R412, R418; spec/03 R71), and the
group's counters are within their bound (spec/07 R138). -/
structure Goes (x : Ctx) : Prop where
  free : addrBreak x = none
  legal : wordTrap x = none
  level : x.g.service = true → serviceDouble x.r.op = false
  shut : closing x = none
  counters : ∀ e ∈ x.g.cnts, e.2 ≤ 255

/-- No register of the group is poisoned, and the group replays nothing. -/
structure Calm (x : Ctx) : Prop where
  clean : x.g.poison = []
  forward : x.g.replay = none

/-- The destination is vector registers, or uniform ones under UNI (spec/03 R54). -/
def LaneDst (x : Ctx) (n : Nat) : Prop := (isV x.r.d = true ∧ isV (x.r.d + n - 1) = true) ∨ (x.r.uni = true ∧ isS x.r.d = true)

/-- Nothing outside the issuing group changes but the time, its slot's among it. -/
structure KeepsOutside (s t : State) (gid : Nat) : Prop where
  rest : { t with groups := s.groups, cycle := s.cycle, ptp := s.ptp, slotClk := s.slotClk } = s
  clock : { t.ptp with ns := s.ptp.ns, frac := s.ptp.frac, servo := s.ptp.servo } = s.ptp
  others : ∀ h, h ≠ gid → mfind h t.groups = mfind h s.groups

/-- Of the group, an issue without an operation changes at most registers, poison, program counters, loops and parking,
srctr, the window with its history, and what records that it issued. -/
def KeepsGroup (g g' : Group) : Prop :=
  { g' with upc := g.upc, spc := g.spc, regs := g.regs, poison := g.poison, parkWide := g.parkWide, parkLoop := g.parkLoop
            loops := g.loops, lbuf := g.lbuf, srctr := g.srctr, win := g.win, hist := g.hist, seq := g.seq
            lastIssue := g.lastIssue, noBp := g.noBp } = g

/-- The vector and uniform registers (codes below 944) that are no part of the `n` destination registers in a lane of `ls`
keep their contents and their poison. -/
def KeepsRegs (g g' : Group) (d n : Nat) (ls : List Nat) : Prop :=
  ∀ code lane, code < 944 → lane < 96 → (¬ (d ≤ code ∧ code < d + n) ∨ (isV code = true ∧ lane ∉ ls)) →
    getReg g' code lane = getReg g code lane ∧ getPoison g' code lane = getPoison g code lane

/-- The issue writes `f l` to the `n` destination registers of each lane that computes a result, lowest word first, without
poison, and changes nothing else but what follows every issue. -/
def WritesLanes (s t : State) (x : Ctx) (n : Nat) (f : Nat → Nat) : Prop :=
  ∃ g', mfind x.g.gid t.groups = some g' ∧ KeepsOutside s t x.g.gid ∧ KeepsGroup x.g g' ∧
    (∀ l ∈ workLanes x, ∀ k, k < n →
      getReg g' (x.r.d + k) l = bits (f l) (32 * k) 32 ∧ getPoison g' (x.r.d + k) l = false) ∧
    KeepsRegs x.g g' x.r.d n (workLanes x)

/-- Performing `i` in `s` has that effect. -/
def Computes (i : Instr) (s : State) (x : Ctx) (n : Nat) (f : Nat → Nat) : Prop :=
  ∃ t, exec i s = .next t ∧ WritesLanes s t x n f

/-- Performing `i` in `s` writes `v` once to `n` uniform destination registers, without poison, and changes nothing else but what
follows every issue. -/
def WritesOnce (i : Instr) (s : State) (x : Ctx) (n v : Nat) : Prop :=
  ∃ t g', exec i s = .next t ∧ mfind x.g.gid t.groups = some g' ∧ KeepsOutside s t x.g.gid ∧ KeepsGroup x.g g' ∧
    (∀ k, k < n → getReg g' (x.r.d + k) 0 = bits v (32 * k) 32 ∧ getPoison g' (x.r.d + k) 0 = false) ∧ KeepsRegs x.g g' x.r.d n []

/-- Every live lane stands at the group-wide instruction: those of the issue and those parked there before (spec/01 R31). -/
def WholeGroup (x : Ctx) : Prop := (x.g.live &&& ~~~(x.mask ||| parkedHere x)).toNat = 0

/-- The word of `n` bytes that a pad object instruction reaches lies aligned in the block's pad (spec/07 R142,
R146). -/
def PadWordAt (x : Ctx) (n off : Nat) : Prop :=
  off = (uB x).1 % 2 ^ 32 ∧ off % n = 0 ∧ padIn x.b (off : Int) n = true

/-- The group takes the trap of cause `c` for the lanes `ls` in `t` (spec/25 R410, R413): it is at service level, every live
lane's service program counter is SVC_ENTRY, the record holds the cause's code, the address and the lanes; the user-level
program counters and the registers are as they were. -/
structure Traps (x : Ctx) (t : State) (c : Cause) (ls : LaneMask) (g' : Group) : Prop where
  group : mfind x.g.gid t.groups = some g'
  outside : KeepsOutside x.s t x.g.gid
  level : g'.service = true
  entry : ∀ l ∈ lanesOf x.g.live, cget 0 l g'.spc = (getPart x.s (partOf x.s x.g)).svcEntry
  cause : bits g'.tr.cause 0 8 = causeCode c
  addr : g'.tr.pc = x.pc
  lanes : g'.tr.lane0 + 2 ^ 64 * g'.tr.lane1 = ls.toNat
  upc : g'.upc = x.g.upc
  regs : g'.regs = x.g.regs
  poison : g'.poison = x.g.poison
  live : g'.live = x.g.live
  scratch : g'.scratch = x.g.scratch

/-- The package has power and the event `i` is given its operands; nothing else stands in the event's way. -/
def Powered (s : State) : Prop := s.boot.powerOff = false

/-- The issue ends as every issue does, after the state and the outcome its own effect gave; no counter of the group passes
its bound (spec/07 R138). -/
def EndsWith (i : Instr) (s : State) (x : Ctx) (s1 : State) (o : Out) : Prop :=
  overCount s1 x.g.gid = false → exec i s = .next (finishIssue x s1 o)

/-- An event ends in `t`, after which what may leave for a peer has been sent. -/
def Happens (i : Instr) (s t : State) : Prop := exec i s = .next (pump t)

end Machine
end Sys2Proof
end

