-- ==== Sys2Proof/Certificates/Slice0/Obligations.lean ====
section
/-! DEFINITION. The statements for the provers. Each says which rules of spec/ it formalises; what a statement takes from the
model's own choices its docstring says, with the log entry. -/

open Sys2Proof Sys2Proof.Machine

namespace Sys2Proof.Machine

/-- The exact function of sources A, B and C of the instructions of R117. -/
def exactFn : Instr → Option (Int → Int → Int → Int)
  | .iadd _ _ _ _ | .iaddExt _ => some (fun a b _ => a + b)
  | .isub _ _ _ _ | .isubExt _ => some (fun a b _ => a - b)
  | .imul _ _ _ _ | .imulExt _ => some (fun a b _ => a * b)
  | .imad _ => some (fun a b c => a * b + c)
  | .ineg _ _ _ _ | .inegExt _ => some (fun _ b _ => 0 - b)
  | .iabs _ _ _ _ | .iabsExt _ => some (fun _ b _ => if 0 ≤ b then b else 0 - b)
  | .imin _ _ _ _ | .iminExt _ => some (fun a b _ => min a b)
  | .imax _ _ _ _ | .imaxExt _ => some (fun a b _ => max a b)
  | _ => none

/-- The bitwise function of sources A and B at a width of `w` bits (R120). -/
def logicFn (w : Nat) : Instr → Option (Nat → Nat → Nat)
  | .iand _ _ _ _ | .iandExt _ => some (fun a b => (a &&& b) % 2 ^ w)
  | .ior _ _ _ _ | .iorExt _ => some (fun a b => (a ||| b) % 2 ^ w)
  | .ixor _ _ _ _ | .ixorExt _ => some (fun a b => (a ^^^ b) % 2 ^ w)
  | .andn _ _ _ _ | .andnExt _ => some (fun a b => (a &&& (2 ^ 64 - 1 - b % 2 ^ 64)) % 2 ^ w)
  | .inot _ _ _ _ | .inotExt _ => some (fun _ b => 2 ^ w - 1 - b % 2 ^ w)
  | _ => none

/-- The shift of source A by a count, at a width of `w` bits (R120). -/
def shiftFn (w : Nat) : Instr → Option (Nat → Nat → Nat)
  | .shl _ _ _ _ | .shlExt _ => some (fun a k => if k < w then a * 2 ^ k % 2 ^ w else 0)
  | .shr _ _ _ _ | .shrExt _ => some (fun a k => if k < w then a % 2 ^ w / 2 ^ k else 0)
  | .sar _ _ _ _ | .sarExt _ => some (fun a k => wrap w (toSigned w a / (2 ^ (min k w) : Nat)))
  | .rotl _ _ _ _ | .rotlExt _ => some (fun a k => (a % 2 ^ w * 2 ^ (k % w) + a % 2 ^ w / 2 ^ (w - k % w)) % 2 ^ w)
  | _ => none

/-- The counts of bits of R122 over the `w` bits of B, and whether the destination has B's width. -/
def countFn (w : Nat) : Instr → Option ((Nat → Nat) × Bool)
  | .popc _ _ _ _ | .popcExt _ => some (fun b => ((List.range w).filter (fun i => bit b i)).length, false)
  | .clz _ _ _ _ | .clzExt _ => some (fun b => ((List.range w).find? (fun i => bit b (w - 1 - i))).getD w, false)
  | .ctz _ _ _ _ | .ctzExt _ => some (fun b => ((List.range w).find? (fun i => bit b i)).getD w, false)
  | .brev _ _ _ _ | .brevExt _ => some (fun b => ((List.range w).map (fun i => if bit b i then 2 ^ (w - 1 - i) else 0)).sum, true)
  | _ => none

/-- The exact function of the values of A, B and C of the instructions of R154 and R155; `r` is the rounding mode, which R90
gives the sign of an exact zero sum. -/
def floatFn (r : Rnd) : Instr → Option (Val → Val → Val → Val)
  | .fadd _ _ _ _ | .faddExt _ => some (fun a b _ => vadd r a b)
  | .fsub _ _ _ _ | .fsubExt _ => some (fun a b _ => vadd r a b.flip)
  | .fmul _ _ _ _ | .fmulExt _ => some (fun a b _ => vmul a b)
  | .ffma _ => some (fun a b c => vadd r (vmul a b) c)
  | .fdiv _ => some (fun a b _ => vdiv a b)
  | .frcp _ _ _ _ | .frcpExt _ => some (fun _ b _ => vdiv (.fin false 1 1) b)
  | .fsqrt _ _ _ _ | .fsqrtExt _ => some (fun _ b _ => vsqrt b)
  | _ => none

/-- The instructions of R156 to R159 and R161 to R163, as functions of the issue, the lane and the contents of A and B. -/
def floatOther (x : Ctx) (l : Nat) : Instr → Option (Nat → Nat → Nat)
  | .fmin _ _ _ _ | .fminExt _ => some (minMax x.fmt false false)
  | .fmax _ _ _ _ | .fmaxExt _ => some (minMax x.fmt true false)
  | .fminp _ => some (minMax x.fmt false true)
  | .fmaxp _ => some (minMax x.fmt true true)
  | .fcmp _ _ _ _ | .fcmpExt _ => some (fun a b => if fltCond x.r.fn (fval x.fmt a) (fval x.fmt b) then 1 else 0)
  | .frsq _ _ _ _ | .frsqExt _ => some (fun _ b => rsqrtTo x.fmt x.r.sat (fval x.fmt b))
  | .fexp2 _ _ _ _ | .fexp2Ext _ => some (fun _ b => exp2To x.fmt x.r.sat (fval x.fmt b))
  | .flog2 _ _ _ _ | .flog2Ext _ => some (fun _ b => log2To x.fmt x.r.sat (fval x.fmt b))
  | .fsin _ => some (fun _ b => trigTo false x.fmt (fval x.fmt b))
  | .fcos _ => some (fun _ b => trigTo true x.fmt (fval x.fmt b))
  | .frnd _ => some (fun _ b => roundIntegral x.fmt x.rnd (x.sr l 0) b)
  | .fclass _ => some (fun _ b => 2 ^ classBit x.fmt b)
  | .fldexp _ => some (fun a b => roundTo (ldexpVal (fval x.fmt a) (toSigned 32 b)) x.fmt x.rnd x.r.sat (x.sr l 0))
  | .ffrexp _ => some (fun _ b => frexpOut x.fmt x.r.fn b)
  | _ => none

/-- The pair instructions of R160 as functions of one element's values. -/
def pairFn (r : Rnd) : Instr → Option (Val → Val → Val → Val)
  | .padd2 _ => some (fun a b _ => vadd r a b)
  | .pmul2 _ => some (fun a b _ => vmul a b)
  | .pfma2 _ => some (fun a b c => vadd r (vmul a b) c)
  | _ => none

/-- The lanes with the contents of their source B. -/
def votes (x : Ctx) : List (Nat × Nat) := (workLanes x).map (fun l => (l, (srcB x l).1))

/-- What BALLOT, VOTE, REDU and MATCH.FIRST and their like give in a lane from the lanes of P (R171 to R175), and how many registers
that takes. -/
def crossFn (x : Ctx) : Instr → Option (Nat × (Nat → Nat))
  | .matchOp _ =>
    let same := fun (l : Nat) => ((votes x).filter (fun e => e.2 == (srcB x l).1)).map (fun e => e.1)
    if x.r.fn = 0 then some (3, fun l => (maskOf (same l)).toNat) else some (1, fun l => (same l).headD l)
  | .ballot _ => some (3, fun _ => (maskOf (((votes x).filter (fun e => e.2 % 2 == 1)).map (fun e => e.1))).toNat)
  | .vote _ =>
    let ones := (votes x).filter (fun e => e.2 % 2 == 1)
    some (1, fun _ => if (match x.r.fn with | 0 => ones.length == (votes x).length | 1 => !ones.isEmpty | _ => ones.isEmpty || ones.length == (votes x).length) then 1 else 0)
  | .redu _ => some (x.ty.regs, fun _ => reduceOf x x.r.fn (x.sr (((votes x).head?.map (fun e => e.1)).getD 0) 0) ((votes x).map (fun e => e.2)))
  | .scan _ => some (x.ty.regs, fun l => reduceOf x (x.r.fn % 8) (x.sr l 0)
      (((votes x).filter (fun e => decide (e.1 < l ∨ (x.r.fn < 8 ∧ e.1 = l)))).map (fun e => e.2)))
  | _ => none

end Sys2Proof.Machine

/-- R117: IADD, ISUB, IMUL, IMAD, INEG, IABS, IMIN and IMAX, in every form, write in each lane that computes a result the exact
result of their operands, narrowed to TYPE (R86; each element of a PAIR on its own, R87), and change nothing else.
R57, R114: in a group that holds poison they write the same value of the contents as they stand, and a lane's destination is poisoned, in all its
registers, exactly where a source that the lane reads or its predicate is; none of them traps on it. -/
def Obligations.ExactInteger : Prop :=
  (∀ (i : Instr) (F : Int → Int → Int → Int) (s : State) (x : Ctx), exactFn i = some F → Issues i s x → Goes x → Calm x → LaneDst x x.ty.regs →
    Computes i s x x.ty.regs (fun l => exactOut x.ty x.r.sat F (srcA x l).1 (srcB x l).1 (srcC x l).1)) ∧
  (∀ (i : Instr) (F : Int → Int → Int → Int) (s : State) (x : Ctx), exactFn i = some F → Issues i s x → Goes x → x.g.replay = none →
    LaneDst x x.ty.regs →
    ∃ t g', exec i s = .next t ∧ mfind x.g.gid t.groups = some g' ∧ KeepsOutside s t x.g.gid ∧ KeepsRegs x.g g' x.r.d x.ty.regs (workLanes x) ∧
      ∀ l ∈ workLanes x, ∀ k, k < x.ty.regs →
        getReg g' (x.r.d + k) l = bits (exactOut x.ty x.r.sat F (srcA x l).1 (srcB x l).1 (srcC x l).1) (32 * k) 32 ∧
        getPoison g' (x.r.d + k) l = (anyPoisoned x l || (predOf x l).2))

/-- R118, R119: IMULH writes the high w bits of the exact product, taken signed or unsigned as TYPE says; IMADW adds a 64-bit C to the
product of two 32-bit values, modulo 2^64, in a pair; IADDC adds two words and the carry bit 0 of C, or subtracts a word and the
borrow, and writes the word and the carry or borrow as a pair. -/
def Obligations.WideResults : Prop :=
  (∀ (i : Instr) (s : State) (x : Ctx), Issues i s x → Goes x → Calm x →
     (match i with
      | .imulh _ _ _ _ | .imulhExt _ => LaneDst x x.ty.regs → Computes i s x x.ty.regs (fun l =>
          wrap x.ty.width ((intOf x.ty (srcA x l).1 * intOf x.ty (srcB x l).1) / (2 ^ x.ty.width : Nat)))
      | .imadw _ => LaneDst x 2 → Computes i s x 2 (fun l => wrap 64 (intOf x.ty (srcA x l).1 * intOf x.ty (srcB x l).1 + ((srcC x l).1 : Int)))
      | _ => True)) ∧
  (∀ (f : Form) (s : State) (x : Ctx), Issues (.iaddc f) s x → Goes x → Calm x → LaneDst x 2 →
     Computes (.iaddc f) s x 2 (fun l =>
       let a := (srcA x l).1 % 2 ^ 32
       let b := (srcB x l).1 % 2 ^ 32
       let c := (srcC x l).1 % 2
       if x.r.fn = 0 then a + b + c
       else (2 ^ 32 + a - b - c) % 2 ^ 32 + 2 ^ 32 * (if a < b + c then 1 else 0)))

/-- R120: AND, OR, XOR, ANDN and NOT work on the w bits of TYPE; SHL, SHR, SAR and ROTL shift A by the 32-bit count B. -/
def Obligations.LogicAndShifts : Prop :=
  ∀ (i : Instr) (F : Nat → Nat → Nat) (s : State) (x : Ctx), Issues i s x → Goes x → Calm x → LaneDst x x.ty.regs →
    (logicFn x.ty.width i = some F → Computes i s x x.ty.regs (fun l => F (srcA x l).1 (srcB x l).1)) ∧
    (shiftFn x.ty.width i = some F → Computes i s x x.ty.regs (fun l => F (srcA x l).1 ((srcB x l).1 % 2 ^ 32)))

/-- R122: POPC, CLZ and CTZ count over the w bits of B and write the count to one register; CLZ and CTZ of zero give w; BREV
reverses the w bits into a destination of that width. -/
def Obligations.BitCounts : Prop :=
  ∀ (i : Instr) (F : Nat → Nat) (same : Bool) (s : State) (x : Ctx), countFn x.ty.width i = some (F, same) → Issues i s x → Goes x → Calm x →
    LaneDst x (if same then x.ty.regs else 1) → Computes i s x (if same then x.ty.regs else 1) (fun l => F (srcB x l).1)

/-- R121, R123: BFX and BFI take the field that POS and LEN of B describe, cut at the width; BYSEL builds a word byte by byte. -/
def Obligations.FieldsAndBytes : Prop :=
  ∀ (i : Instr) (s : State) (x : Ctx), Issues i s x → Goes x → Calm x → LaneDst x x.ty.regs →
    (match i with
     | .bfx _ => Computes i s x x.ty.regs (fun l => bfxBits x.ty.width x.r.fn (srcA x l).1 (srcB x l).1)
     | .bfi _ => Computes i s x x.ty.regs (fun l => bfiBits x.ty.width (srcA x l).1 (srcB x l).1 (srcC x l).1)
     | .bysel _ => Computes i s x 1 (fun l =>
         ofBytes ((List.range 4).map (fun k => byselByte (srcA x l).1 (srcB x l).1 (bits (srcC x l).1 (8 * k) 8))))
     | _ => True)

/-- R124: ICMP writes 1 to one register where the condition of FN holds between A and B as TYPE reads them, and 0 otherwise; LT,
LE, GT and GE with B32 raise the operand-form trap where no check before it stops the instruction (R71). -/
def Obligations.IntegerCompare : Prop :=
  (∀ (i : Instr) (s : State) (x : Ctx), (∃ u b a d, i = .icmp u b a d) ∨ (∃ f, i = .icmpExt f) → Issues i s x → Goes x → Calm x → LaneDst x 1 →
    Computes i s x 1 (fun l =>
      let a := intOf x.ty (srcA x l).1
      let b := intOf x.ty (srcB x l).1
      if (x.r.fn = 0 ∧ a = b) ∨ (x.r.fn = 1 ∧ a ≠ b) ∨ (x.r.fn = 2 ∧ a < b) ∨ (x.r.fn = 3 ∧ a ≤ b) ∨ (x.r.fn = 4 ∧ b < a) ∨ (x.r.fn = 5 ∧ b ≤ a)
      then 1 else 0)) ∧
  (∀ (f : Form) (s : State) (x : Ctx) (info : OpInfo), Issues (.icmpExt f) s x → addrBreak x = none → opInfo x.r.op = some info → x.r.ty = 13 →
    2 ≤ x.r.fn → x.r.fn ≤ 5 → isIllegal x.r = false → isReserved x.r info = false → x.g.role % 2 = 1 → x.g.service = false →
    ∃ t g', exec (.icmpExt f) s = .next t ∧ Traps x t .operandForm x.mask g')

/-- R125, R126: SEL takes A or B by bit 0 of C; MOV moves B unchanged at TYPE's width; LEA forms a 64-bit address from the pair A
and the index B, scaled by 2^FN, modulo 2^64. MOV to a loop counter sets it to B of the lowest enabled lane, under
UNI to what it computes once; with no lane enabled it only advances (R52, R66). -/
def Obligations.SelectMoveAddress : Prop :=
  (∀ (i : Instr) (s : State) (x : Ctx), Issues i s x → Goes x → Calm x →
     (match i with
      | .sel _ => LaneDst x x.ty.regs → Computes i s x x.ty.regs (fun l => moveBits x.ty (if (srcC x l).1 % 2 = 1 then (srcA x l).1 else (srcB x l).1))
      | .mov _ _ _ _ | .movExt _ => LaneDst x x.ty.regs → Computes i s x x.ty.regs (fun l => moveBits x.ty (srcB x l).1)
      | .lea _ => LaneDst x 2 → Computes i s x 2 (fun l => wrap 64 (((srcA x l).1 : Int) + intOf x.ty (srcB x l).1 * (2 ^ x.r.fn : Nat)))
      | _ => True)) ∧
  (∀ (f : Form) (l : Nat) (s : State) (x : Ctx), Issues (.movExt f) s x → Goes x → Calm x → isLc x.r.d = true →
     ((x.r.uni = false ∧ (enLanes x).head? = some l) ∨ (x.r.uni = true ∧ enLanes x ≠ [] ∧ l = x.lo) →
       EndsWith (.movExt f) s x (setGroup (putReg x.g x.r.d 0 ((srcB x l).1 % 2 ^ 32)) s) {}) ∧
     (enLanes x = [] → EndsWith (.movExt f) s x s {}))

/-- R151, R154, R155, R160: FADD, FSUB, FMUL, FFMA, FDIV, FRCP and FSQRT write the exact result of the values of their operands, rounded
once in the format and the mode the instruction names, and PADD2, PMUL2 and PFMA2 that of each of the two elements on its own;
with SR the lane's, and the element's, random bits decide (R95). -/
def Obligations.RoundedOnce : Prop :=
  (∀ (i : Instr) (F : Val → Val → Val → Val) (s : State) (x : Ctx), floatFn x.rnd i = some F → Issues i s x → Goes x → Calm x → LaneDst x 1 →
     Computes i s x 1 (fun l => roundTo (F (fval x.fmt (srcA x l).1) (fval x.fmt (srcB x l).1) (fval x.fmt (srcC x l).1)) x.fmt x.rnd x.r.sat (x.sr l 0))) ∧
  (∀ (i : Instr) (F : Val → Val → Val → Val) (s : State) (x : Ctx), pairFn x.rnd i = some F → Issues i s x → Goes x → Calm x → LaneDst x 1 →
     Computes i s x 1 (fun l =>
       let el := fun (e : Nat) =>
         let v := fun (w : Nat) => fval (pairFmt x) (bits w (16 * e) 16)
         roundTo (F (v (srcA x l).1) (v (srcB x l).1) (v (srcC x l).1)) (pairFmt x) x.rnd x.r.sat (x.sr l e)
       el 0 + 2 ^ 16 * el 1))

/-- R156 to R159, R161 to R163: the minimum and maximum instructions, FCMP, FRSQ, FEXP2, FLOG2, FSIN, FCOS, FRND, FCLASS, FLDEXP
and FFREXP write one register per lane, the value that their entry gives. The correctly rounded functions of R156 stand on the
model's enclosures (log 13). -/
def Obligations.FloatFunctions : Prop :=
  ∀ (i : Instr) (F : Nat → Nat → Nat → Nat) (s : State) (x : Ctx), (∀ l, floatOther x l i = some (F l)) → Issues i s x → Goes x → Calm x → LaneDst x 1 →
    Computes i s x 1 (fun l => F l (srcA x l).1 (srcB x l).1)

/-- R165 to R168: CVT converts B from the type that FN names to TYPE; QBLK quantises the blocks of its lanes to integers and scale
bytes; DQBLK gives each lane's value of an element and its scale, rounded once. A block descriptor of R166 stands in B. -/
def Obligations.Conversions : Prop :=
  ∀ (f : Form) (s : State) (x : Ctx), Goes x → Calm x →
    (Issues (.cvt f) s x → LaneDst x x.ty.regs →
      Computes (.cvt f) s x x.ty.regs (fun l => cvtOut (tyOf .pairI x.r.fn) x.ty x.rnd x.r.sat (x.sr l 0) (srcB x l).1)) ∧
    (let d := (srcB x x.lo).1
     let L := blkLen (bits d 4 2)
     bits d 0 4 ≠ 8 → bits d 6 26 = 0 →
      (Issues (.dqblk f) s x → LaneDst x 1 → Computes (.dqblk f) s x 1 (fun l => dqblkOut x d l)) ∧
      (Issues (.qblk f) s x → LaneDst x 1 → bits d 4 2 ≠ 3 → ∃ t g', exec (.qblk f) s = .next t ∧ mfind x.g.gid t.groups = some g' ∧
        KeepsOutside s t x.g.gid ∧ KeepsGroup x.g g' ∧
        KeepsRegs x.g g' x.r.d 1 ((workLanes x).filter (fun l => decide (l / L < 96 / L))) ∧
        ∀ l ∈ workLanes x, l / L < 96 / L →
          getReg g' x.r.d l = (if x.r.fn = 0 then wrap 32 ((qblkBlock x d (l / L * L) L).1.getD (l % L) 0) else (qblkBlock x d (l / L * L) L).2.1) % 2 ^ 32))

/-- R170 to R176: SHFL reads A in the lane that FN and B name, 0 where that lane is outside 0 to 95; MATCH, BALLOT, VOTE, REDU and SCAN
give each lane of P, or once a uniform destination, the value that their entry takes from the lanes of P. -/
def Obligations.AcrossLanes : Prop :=
  (∀ (f : Form) (s : State) (x : Ctx), Issues (.shfl f) s x → Goes x → Calm x → LaneDst x x.ty.regs →
     Computes (.shfl f) s x x.ty.regs (fun l =>
       let k := (srcB x l).1 % 2 ^ 32
       let m := if x.r.fn = 0 then k else if x.r.fn = 1 then (if k ≤ l then l - k else 96) else if x.r.fn = 2 then l + k else l ^^^ k
       if m < 96 then (srcA x m).1 else 0)) ∧
  (∀ (i : Instr) (n : Nat) (F : Nat → Nat) (s : State) (x : Ctx), crossFn x i = some (n, F) → Issues i s x → Goes x → Calm x →
     (isV x.r.d = true → isV (x.r.d + n - 1) = true → Computes i s x n F) ∧
     (isS x.r.d = true → ∀ l ∈ (workLanes x).head?, WritesOnce i s x n (F l)))

/-- R5, R12, R58: when an issue of a group without an open loop has had its effect, every lane of ISSUE that does not stay stands at
the address the effect gave it, or else after the instruction; every other lane stands where it stood; the group's place in
program order advances by one; the cycles of the beats with a lane in ISSUE pass; registers and everything outside the group
stay as the effect left them.
R131: in a group with one open loop, members that come to its END from its body are parked there; once every member is, a counter above 1 falls by 1
and the members go on at START, else it becomes 0, the entry goes and the members go on at END.
R132: a branch from the body to an address outside it that is not its END takes the lanes out of the entry, which goes once it has none,
with its counter
as it was. -/
def Obligations.IssueAdvances : Prop :=
  (∀ (x : Ctx) (s : State) (o : Out) (g : Group), mfind x.g.gid s.groups = some g → g.gid = x.g.gid → x.g.replay = none → g.loops = [] → o.own = none →
    ∃ g', mfind x.g.gid (finishIssue x s o).groups = some g' ∧ KeepsOutside s (finishIssue x s o) x.g.gid ∧
      (finishIssue x s o).cycle = s.cycle + beatsOf x.mask ∧ g'.seq = g.seq + 1 ∧ g'.regs = g.regs ∧ g'.poison = g.poison ∧
      (let pcs := fun (h : Group) => if x.g.service then h.spc else h.upc
       let moved := (x.mask &&& ~~~o.stay) ||| o.also
       ∀ l, l < 96 → cget 0 l (pcs g') = if hasLane moved l then ((o.next.bind (mfind l)).getD x.fall) else cget 0 l (pcs g))) ∧
  (∀ (x : Ctx) (s : State) (g : Group) (e : LoopEntry), mfind x.g.gid s.groups = some g → g.gid = x.g.gid → x.g.service = false → g.service = false →
    x.g.replay = none → g.loops = [e] → e.ctr < 3 → e.start ≤ x.pc → x.pc < e.stop → (∃ l ∈ x.lanes, hasLane e.members l = true) →
    (let n := getReg g (944 + e.ctr) 0
     (∀ o : Out, o = {} → x.fall = e.stop → ∃ g', mfind x.g.gid (finishIssue x s o).groups = some g' ∧
       ((∃ l, hasLane e.members l = true ∧ l ∉ x.lanes ∧ hasLane g.parkLoop l = false) →
         g'.loops = [e] ∧ getReg g' (944 + e.ctr) 0 = n ∧ ∀ l ∈ x.lanes, hasLane e.members l = true → getPc g' l = e.stop ∧ hasLane g'.parkLoop l = true) ∧
       ((∀ l, hasLane e.members l = true → l ∈ x.lanes ∨ hasLane g.parkLoop l = true) →
         (1 < n → g'.loops = [e] ∧ getReg g' (944 + e.ctr) 0 = n - 1 ∧
           ∀ l, hasLane e.members l = true → getPc g' l = e.start ∧ hasLane g'.parkLoop l = false) ∧
         (n ≤ 1 → g'.loops = [] ∧ getReg g' (944 + e.ctr) 0 = 0 ∧
           ∀ l ∈ x.lanes, hasLane e.members l = true → getPc g' l = e.stop ∧ hasLane g'.parkLoop l = false))) ∧
     (∀ (m : List (Nat × Nat)) (o : Out), o = { next := some m, branch := true, ctl := true } →
       (∀ l ∈ x.lanes, ∃ a, mfind l m = some a ∧ (a < e.start ∨ e.stop < a)) → ∃ g', mfind x.g.gid (finishIssue x s o).groups = some g' ∧
       getReg g' (944 + e.ctr) 0 = n ∧ (∀ l ∈ x.lanes, getPc g' l = (mfind l m).getD x.fall) ∧
       ((∀ l, hasLane e.members l = true → l ∈ x.lanes) → g'.loops = []) ∧
       ((∃ l, hasLane e.members l = true ∧ l ∉ x.lanes ∧ hasLane g.parkLoop l = false) →
         g'.loops = [{ e with members := e.members &&& ~~~x.mask }]))))

/-- R134, R136, R240, R276: NOP changes nothing but the program counters; LBINV empties the loop buffer and, where a loop is open,
asks for a new capture; YIELD makes the group wait 16 cycles of its slot out of its active set; XFENCE adds its order and shows the group's
writes so far to the path it names (log 14). -/
def Obligations.PlainControl : Prop :=
  ∀ (i : Instr) (s : State) (x : Ctx), Issues i s x → Goes x → Calm x →
    (match i with
     | .nop _ | .nopExt _ => EndsWith i s x s {}
     | .lbinv _ => EndsWith i s x (setGroup { x.g with lbuf := if x.g.loops.isEmpty then none else some { base := 0, bytes := [], stale := true } } s) {}
     | .yield _ | .yieldExt _ => EndsWith i s x (setGroup { x.g with wait := .yield (slotTime s x.g), active := false } s) {}
     | .xfence _ => x.g.hfault = none →
         EndsWith i s x (xfenceMark x.r.fn x.r.a s { x.g with xfences := x.g.xfences ++ [{ seq := x.g.seq, p := x.r.fn, q := x.r.a, scope := x.r.scope }] }) {}
     | _ => True)

namespace Sys2Proof.Machine

/-- Where a branch sends an enabled lane (R129): BRA and CALL relative to the instruction in words, BRX and RET to the pair B. -/
def branchTarget (x : Ctx) : Instr → Option (Nat → Nat)
  | .bra _ | .braExt _ | .call _ | .callExt _ => some (fun _ => wrap 64 ((x.pc : Int) + 4 * x.r.off))
  | .brx _ | .ret _ | .retExt _ => some (fun l => (srcB x l).1)
  | _ => none

/-- The registers a branch writes: CALL's link pair. -/
def linkRegs : Instr → Nat
  | .call _ | .callExt _ => 2
  | _ => 0

/-- The shapes of the traps that instructions take as their effect (R137). -/
def codeCause : Instr → Option Cause
  | .trap _ => some .software
  | .brk _ => some .breakpoint
  | _ => none

end Sys2Proof.Machine

/-- R129: BRA, BRX, CALL and RET send each enabled lane to its target and every other lane of ISSUE on; CALL writes the address after
it to the link pair of each enabled lane; nothing else changes. So for a group with no open loop; with one, the issue ends as every issue
does, with those
targets, and IssueAdvances says what that does to loops, which CALL leaves nobody (R131, R132). -/
def Obligations.Branches : Prop :=
  (∀ (i : Instr) (tgt : Nat → Nat) (s : State) (x : Ctx), branchTarget x i = some tgt → Issues i s x → Goes x → Calm x → x.g.loops = [] →
    (∀ l ∈ enLanes x, tgt l % 4 = 0) → (linkRegs i = 2 → isV (x.r.d + 1) = true) →
    ∃ t g', exec i s = .next t ∧ mfind x.g.gid t.groups = some g' ∧ KeepsOutside s t x.g.gid ∧ KeepsGroup x.g g' ∧
      (∀ l ∈ x.lanes, getPc g' l = if l ∈ enLanes x then tgt l else x.fall) ∧
      (∀ l, l < 96 → l ∉ x.lanes → getPc g' l = getPc x.g l) ∧
      (∀ l ∈ enLanes x, ∀ k, k < linkRegs i → getReg g' (x.r.d + k) l = bits x.fall (32 * k) 32) ∧
      KeepsRegs x.g g' x.r.d (linkRegs i) (enLanes x)) ∧
  (∀ (i : Instr) (tgt : Nat → Nat) (s : State) (x : Ctx), branchTarget x i = some tgt → Issues i s x → Goes x → Calm x →
    (∀ l ∈ enLanes x, tgt l % 4 = 0) →
    ∃ m, (∀ l, mfind l m = if l ∈ enLanes x then some (tgt l) else none) ∧
      exec i s = .next (finishIssue x (setGroup (if linkRegs i = 2 then (enLanes x).foldl (fun g l => writeDst x g x.r.d 2 l x.fall false) x.g else x.g) s)
        { next := some m, branch := linkRegs i == 0, ctl := true }))

/-- R130: a LOOP whose body is whole instructions and nests properly sets its counter to the count; a count of zero sends the lanes to
END, any other opens an entry with the lanes of ISSUE as its members, and the outermost body is captured. -/
def Obligations.LoopOpens : Prop :=
  ∀ (f : Form) (s : State) (x : Ctx) (bs : List Nat) (u : State), Issues (.loopOp f) s x → Goes x → Calm x →
    (let start := x.fall
     let stop := start + 4 * x.r.c
     let n := (uB x).1 % 2 ^ 32
     x.r.c ≠ 0 → x.g.loops.length < 3 →
     (∀ e ∈ x.g.loops, e.ctr + 944 ≠ x.r.d ∧ ((e.start ≤ start ∧ stop ≤ e.stop) ∨ stop ≤ e.start ∨ e.stop ≤ start)) →
     walkBody 256 s x.g start stop = .exact → fetchBytes x.r.c s x.g start = (.ok bs, u) →
     (n = 0 → EndsWith (.loopOp f) s x (setGroup (putReg x.g x.r.d 0 0) u)
        { next := some (x.lanes.foldl (fun m l => minsert l stop m) []), ctl := true }) ∧
     (n ≠ 0 → EndsWith (.loopOp f) s x (setGroup { (putReg x.g x.r.d 0 n) with
          loops := x.g.loops ++ [{ start := start, stop := stop, ctr := x.r.d - 944, members := x.mask }]
          lbuf := if x.g.loops.isEmpty then some { base := start, bytes := bs, stale := false } else x.g.lbuf } u) { ctl := true }))

/-- R136: EXIT takes the enabled lanes out of the live lanes, out of every loop and of every parking; at service level it takes every
lane (R411). Lanes parked together then go on, and the block's barriers and JOIN are looked at afresh (R31, R35, R140). -/
def Obligations.ExitLeaves : Prop :=
  ∀ (i : Instr) (s : State) (x : Ctx), (∃ r, i = .exitOp r) ∨ (∃ f, i = .exitOpExt f) → Issues i s x → Goes x → Calm x → x.g.hfault = none →
    (let m := if x.g.service && !(enLanes x).isEmpty then x.g.live else maskOf (enLanes x)
     EndsWith i s x (afterExit (setGroup { x.g with
        live := x.g.live &&& ~~~m, parkWide := x.g.parkWide &&& ~~~m, parkLoop := x.g.parkLoop &&& ~~~m
        loops := x.g.loops.map (fun e => { e with members := e.members &&& ~~~m }) } s) x.g.gid) {})

/-- R137, R410, R413: TRAP and BRK take their trap for the enabled lanes, with their 20-bit code in the record; where no lane is
enabled they only advance. At service level the trap is a double trap, fatal to the partition (R411). -/
def Obligations.SoftwareTraps : Prop :=
  ∀ (i : Instr) (c : Cause) (s : State) (x : Ctx), codeCause i = some c → Issues i s x → Goes x → Calm x →
    (enLanes x = [] → EndsWith i s x s {}) ∧
    (enLanes x ≠ [] → x.g.service = false → ∃ t g', exec i s = .next t ∧ Traps x t c (maskOf (enLanes x)) g' ∧
      bits g'.tr.cause 16 20 = (x.r.a + 1024 * x.r.b) % 2 ^ 20) ∧
    (enLanes x ≠ [] → x.g.service = true → exec i s = .next (slotTick x.g (beatsOf x.mask) (partFatal (partOf s x.g) (coreOf s x.g) s)))

/-- R18, R70, R71, R411: a word that one of the checks of R71 refuses takes the trap of the first that does, for all of ISSUE, and
nothing of the instruction is performed; at service level the partition is lost. A word whose major opcode the table reserves takes
the illegal-instruction trap: that is all such a word does. -/
def Obligations.StaticTraps : Prop :=
  (∀ (i : Instr) (c : Cause) (s : State) (x : Ctx), Issues i s x → addrBreak x = none →
     wordTrap x = some c →
     (x.g.service = false → ∃ t g', exec i s = .next t ∧ Traps x t c x.mask g') ∧
     (x.g.service = true → exec i s = .next (slotTick x.g (beatsOf x.mask) (partFatal (partOf s x.g) (coreOf s x.g) s)))) ∧
  (∀ (w : BitVec 160) (s : State) (x : Ctx), Issues (.reservedMajorOpcode w) s x → opInfo (w.toNat / 4 % 256) = none → addrBreak x = none →
     x.g.service = false → ∃ t g', exec (.reservedMajorOpcode w) s = .next t ∧ Traps x t .illegal x.mask g')

/-- R71, R18: the order of the checks: illegal words come before reserved fields, those before a missing role, that before operand forms,
those, a bad block descriptor among them (R166), before register bounds, and what the instruction's own effect would raise comes after them
all; a word free of role never lacks
one, and a missing role is a precise trap of all of ISSUE.
R418: an integer instruction that would write a marked register while the window is open, or that comes once 64 issues are counted, takes the POISON
trap with CLOSE 1 or 2 for all of ISSUE, as EXIT does with CLOSE 3; WAITC and TWAIT take it with CLOSE 0 for a poisoned operand. -/
def Obligations.CheckOrder : Prop :=
  (∀ (r : Raw) (info : OpInfo) (role k tiles : Nat) (service : Bool), opInfo r.op = some info →
    (isIllegal r = true → staticTrap r role service k tiles = some .illegal) ∧
    (isIllegal r = false → isReserved r info = true → staticTrap r role service k tiles = some .reserved) ∧
    (isIllegal r = false → isReserved r info = false → service = false → roleBit r info ≠ 0 → role &&& roleBit r info = 0 →
      staticTrap r role service k tiles = some .role) ∧
    (roleBit r info = 0 → staticTrap r role service k tiles ≠ some .role) ∧
    (isIllegal r = false → isReserved r info = false → (service = true ∨ role &&& roleBit r info ≠ 0 ∨ roleBit r info = 0) →
      (operandOk r info = false → staticTrap r role service k tiles = some .operandForm) ∧
      (operandOk r info = true → boundOk r info k tiles = false → staticTrap r role service k tiles = some .registerBound) ∧
      (operandOk r info = true → boundOk r info k tiles = true → staticTrap r role service k tiles = none))) ∧
  (∀ (i : Instr) (c : Cause) (s : State) (x : Ctx), Issues i s x → addrBreak x = none → x.g.service = false →
    wordTrap x = some c → ∃ t g', exec i s = .next t ∧ Traps x t c x.mask g') ∧
  (∀ x : Ctx, (staticTrap x.r x.g.role x.g.service x.g.k x.b.ntiles = none → wordTrap x = if descBad x then some .operandForm else none) ∧
     (∀ c, staticTrap x.r x.g.role x.g.service x.g.k x.b.ntiles = some c →
       wordTrap x = some (if c = .registerBound ∧ descBad x = true then .operandForm else c))) ∧
  (∀ (i : Instr) (s : State) (x : Ctx) (k : Nat), (exactFn i).isSome = true ∨ (∃ r, i = .exitOp r) → Issues i s x → addrBreak x = none → wordTrap x = none →
     closing x = some k → x.g.hfault = none → ppLanes x = [] →
     ∃ t g', exec i s = .next t ∧ Traps x t .poison x.mask g' ∧ bits g'.tr.cause 9 2 = k) ∧
  (∀ x : Ctx, x.g.service = false → x.g.replay = none → x.g.win.opened = true →
     ((dstMarks x &&& x.g.win.marked).toNat ≠ 0 → workLanes x ≠ [] → closing x = some 1) ∧
     ((dstMarks x &&& x.g.win.marked).toNat = 0 → 64 ≤ x.g.win.gcnt → closing x = some 2) ∧
     ((dstMarks x &&& x.g.win.marked).toNat = 0 → x.g.win.gcnt < 64 → (x.r.op = 0x67 ↔ closing x = some 3))) ∧
  (∀ (i : Instr) (s : State) (x : Ctx), (∃ f, i = .waitc f) ∨ (∃ f, i = .twait f) → Issues i s x → Goes x → x.g.replay = none → x.g.service = false →
     x.g.hfault = none → ppLanes x = [] → (uB x).2 = true →
     ∃ t g', exec i s = .next t ∧ Traps x t .poison x.mask g' ∧ bits g'.tr.cause 9 2 = 0)

/-- R138, R139, R144, R145, R147: WAITC, TWAIT, ABWAIT and STGW go on at once where their condition holds, ABWAIT and STGW with an acquire at
BLOCK scope of what the word they read carries (`tookWord`, R232, R233), and otherwise the group waits for it. -/
def Obligations.Waits : Prop :=
  ∀ (i : Instr) (s : State) (x : Ctx), Issues i s x → Goes x → Calm x → x.g.hfault = none →
    (match i with
     | .waitc _ =>
       let thr := min ((uB x).1 % 2 ^ 32) 255
       (getCnt x.g (pathOf x.r.fn) ≤ thr → EndsWith i s x s {}) ∧
       (thr < getCnt x.g (pathOf x.r.fn) → EndsWith i s x (setGroup { x.g with wait := .waitc x.r.fn thr } s) {})
     | .twait _ =>
       ((uB x).1 ≤ s.ptp.ns % 2 ^ 64 → EndsWith i s x s {}) ∧
       (s.ptp.ns % 2 ^ 64 < (uB x).1 → EndsWith i s x (setGroup { x.g with wait := .twait (uB x).1 } s) {})
     | .abwait _ => ∀ off, PadWordAt x 16 off → padBad x.b off 16 = false → abBad (abOf (padGet x.b off 16)) = false →
       (abPassed ((uC x).1 % 2 ^ 32) (abOf (padGet x.b off 16)) = true → EndsWith i s x (tookWord s x.g.gid x.b.bid off 16) {}) ∧
       (abPassed ((uC x).1 % 2 ^ 32) (abOf (padGet x.b off 16)) = false →
          EndsWith i s x (setGroup { x.g with wait := .abwait off ((uC x).1 % 2 ^ 32) } s) {})
     | .stgw _ => ∀ off, PadWordAt x 8 off → padBad x.b off 8 = false → stgBad (padGet x.b off 8) = false →
       (stgPasses (x.r.fn == 0) (padGet x.b off 8) ((uC x).1 % 2 ^ 32) = true → EndsWith i s x (tookWord s x.g.gid x.b.bid off 8) {}) ∧
       (stgPasses (x.r.fn == 0) (padGet x.b off 8) ((uC x).1 % 2 ^ 32) = false →
          EndsWith i s x (setGroup { x.g with wait := .stgw (x.r.fn == 0) off ((uC x).1 % 2 ^ 32) } s) {})
     | _ => True)

/-- R143, R145, R147, R231: ABINIT, ABARV, ABEXP and STGP complete for an object or ring that lies aligned in pad and for which they are allowed:
exec answers the state in which the word of pad that B names has changed, once per issue with an enabled lane (`putWord`, whose
bytes BytesWritten gives), an arrival and STGP in each of its forms after a release at BLOCK scope (`postWord`, R145, R231); ABARV also
writes the generation it arrived at to a destination that
it names. -/
def Obligations.PadObjects : Prop :=
  ∀ (i : Instr) (s : State) (x : Ctx) (off : Nat), Issues i s x → Goes x → Calm x → enLanes x ≠ [] →
    (match i with
     | .abinit _ => PadWordAt x 16 off → ∀ o, abInit ((uC x).1 % 2 ^ 32) = some o → EndsWith i s x (putWord x off 16 (abWord o)) {}
     | .abarv _ => PadWordAt x 16 off → padBad x.b off 16 = false → abBad (abOf (padGet x.b off 16)) = false → ∀ o, abArrive x.r.fn (abOf (padGet x.b off 16)) = some o →
         (x.r.d = 0 → EndsWith i s x (postWord x off 16 (abWord o)) {}) ∧
         (x.r.d ≠ 0 → EndsWith i s x (modGroup x.g.gid (fun g => writeDst x g x.r.d 1 0 (abOf (padGet x.b off 16)).gen false) (postWord x off 16 (abWord o))) {})
     | .abexp _ => PadWordAt x 16 off → padBad x.b off 16 = false → abBad (abOf (padGet x.b off 16)) = false → ∀ o, abExpect ((uC x).1 % 2 ^ 32) (abOf (padGet x.b off 16)) = some o →
         EndsWith i s x (putWord x off 16 (abWord o)) {}
     | .stgp _ => PadWordAt x 8 off →
         (x.r.fn = 2 → ∀ v, stgInit ((uC x).1 % 2 ^ 32) = some v → EndsWith i s x (postWord x off 8 v) {}) ∧
         (x.r.fn ≠ 2 → padBad x.b off 8 = false → stgBad (padGet x.b off 8) = false → ∀ v, stgPost (x.r.fn == 0) (padGet x.b off 8) ((uC x).1 % 2 ^ 32) = some v →
           EndsWith i s x (postWord x off 8 v) {})
     | _ => True)

/-- R22, R23, R25, R31, R35, R140: BAR, JOIN, RALLOC and RFREE take effect once every live lane of the group stands at them: the group arrives
at its barrier, an acquire-release barrier as a release, joins, or waits for its new allocation, which a cooperative grid has at once;
RALLOC of what the
group has, and RFREE above it, only go on. Until then the lanes
that come to one of them, or to SPAWN, are parked there, where nothing that the instruction checks first is amiss (R31). -/
def Obligations.GroupWide : Prop :=
  (∀ (i : Instr) (s : State) (x : Ctx), Issues i s x → Goes x → Calm x → x.g.hfault = none → WholeGroup x →
     (let n := (uB x).1
      let also := parkedHere x
      match i with
      | .bar _ => n ≤ 15 → (uC x).1 ≤ 32 →
          (let bar := (mfind n x.b.bars).getD { count := (uC x).1, arrived := [] }
           let bar1 : Bar :=
             { bar with
               arrived := bar.arrived ++ [x.g.gid]
               acq := if x.r.order = 3 then bar.acq ++ [(x.g.gid, x.r.scope)] else bar.acq
               toks := if x.r.order = 3 then joinToks bar.toks [tokOf s x.g.gid x.g.seq x.r.scope] else bar.toks }
           let s0 := if x.r.order = 3 then releaseDone s x.g.gid x.g.seq s.stamp x.r.scope else s
           bar.count = (uC x).1 →
           EndsWith i s x (barDone (setGroup { x.g with wait := .bar n } (modBlock x.b.bid (fun b => { b with bars := minsert n bar1 b.bars }) s0)) x.b n bar1)
             { also := also })
      | .joinOp _ => x.gr.coop = false →
          EndsWith i s x (joinAgain (setGroup { x.g with wait := .join } (modBlock x.b.bid (fun b => { b with joined := b.joined ++ [x.g.gid] }) s)) x.b.bid)
            { also := also }
      | .ralloc _ => 1 ≤ n → n ≤ 24 → (x.gr.coop = true → n ≤ x.gr.regsMax) →
          (n ≤ x.g.k → EndsWith i s x s { also := also }) ∧
          (x.g.k < n → x.gr.coop = true → EndsWith i s x (setGroup (setAlloc n x.g) s) { also := also }) ∧
          (x.g.k < n → x.gr.coop = false → blockRegs s x.b + (n - x.g.k) ≤ 128 →
            EndsWith i s x (modCore x.b.core (fun c => { c with waiters := c.waiters ++ [(x.g.gid, n)] }) (setGroup { x.g with wait := .ralloc n } s))
              { also := also })
      | .rfree _ => 1 ≤ n → n ≤ 24 →
          (x.g.k ≤ n → EndsWith i s x s { also := also }) ∧
          (n < x.g.k → EndsWith i s x (setGroup { x.g with wait := .rfree n } s) { also := also })
      | _ => True)) ∧
  (∀ (i : Instr) (s : State) (x : Ctx), Issues i s x → Goes x → Calm x → x.g.hfault = none → ¬ WholeGroup x →
     (let n := (uB x).1
      match i with
      | .bar _ => n ≤ 15 ∧ (uC x).1 ≤ 32
      | .joinOp _ => x.gr.coop = false
      | .ralloc _ => 1 ≤ n ∧ n ≤ 24 ∧ (x.gr.coop = true → n ≤ x.gr.regsMax) ∧ (x.g.k < n → x.gr.coop = false → blockRegs s x.b + (n - x.g.k) ≤ 128)
      | .rfree _ => 1 ≤ n ∧ n ≤ 24
      | .spawn _ => x.gr.coop = false ∧ x.gr.depth < 10
      | _ => False) →
     exec i s = .next (finishIssue x (setGroup { x.g with parkWide := x.g.parkWide ||| x.mask } s) { stay := x.mask }))

/-- R32, R148, R238: SPAWN reads its record, as an operation of the SV path, launches the child grid after a release and writes the result;
at depth 10 it takes the spawn-depth trap and
launches nothing. -/
def Obligations.Spawns : Prop :=
  ∀ (f : Form) (s : State) (x : Ctx), Issues (.spawn f) s x → Goes x → Calm x → x.gr.coop = false →
    (x.gr.depth < 10 → WholeGroup x → ∀ v u, readAtIssue x .sv (uB x).1 64 = (.ok v, u) →
      (let r := spawnGrid x (releaseDone u x.g.gid x.g.seq u.stamp 4) v
       EndsWith (.spawn f) s x (notePre x.part (modGroup x.g.gid (fun g => writeDst x g x.r.d 1 0 r.1 false) (sweepOps (addOp r.2 (opOf x .sv .done)))))
         { also := parkedHere x })) ∧
    (10 ≤ x.gr.depth → ∃ t g', exec (.spawn f) s = .next t ∧ Traps x t .spawnDepth x.mask g')

/-- R410, R421: SVC sends the enabled lanes past it and takes the group to its service routine, with the code in the trap record; where
no lane is enabled it only advances.
R417, R419, R420: ERET returns the group to user level with its user program counters as they stand; with REPLAY it begins the
replay of an open window, with SKIP it sends the lanes of the trap past the trapped instruction, with CLOSE it closes the
window. At user level it takes the privilege trap.
R415: poison of an instruction's own opens the window with that issue as its origin and its fault as the window's, counts what issued since
and marks the
registers it names; poison of an issue before the window last closed opens none, and of a later issue than an open window's origin leaves the origin.
R420: replay begins with the lanes, srctr, the loop entries and the loop counters as they were at the origin; it writes only in the lanes
whose result the first
attempt poisoned; once every live lane has replayed its issues the group stands where it stood at the trap, and the window closes where no
poison is left. -/
def Obligations.ServiceLevel : Prop :=
  (∀ (f : Form) (s : State) (x : Ctx), Issues (.svc f) s x → Goes x → Calm x →
     (enLanes x = [] → EndsWith (.svc f) s x s {}) ∧
     (enLanes x ≠ [] → EndsWith (.svc f) s x (takeTrap s x.g x.pc { cause := .svc, lanes := maskOf (enLanes x), code := x.r.a + 1024 * x.r.b })
       { stay := maskOf (x.lanes.filter (fun l => !(enLanes x).contains l)) }) ∧
     (enLanes x ≠ [] → x.g.loops = [] → ∃ t g', exec (.svc f) s = .next t ∧ mfind x.g.gid t.groups = some g' ∧ KeepsOutside s t x.g.gid ∧
       g'.service = true ∧ bits g'.tr.cause 0 8 = 21 ∧ bits g'.tr.cause 16 20 = (x.r.a + 1024 * x.r.b) % 2 ^ 20 ∧ g'.tr.pc = x.pc ∧
       g'.tr.lane0 + 2 ^ 64 * g'.tr.lane1 = (maskOf (enLanes x)).toNat ∧ g'.regs = x.g.regs ∧ g'.poison = x.g.poison ∧ g'.live = x.g.live ∧
       (∀ l ∈ lanesOf x.g.live, cget 0 l g'.spc = (getPart s (partOf s x.g)).svcEntry) ∧
       (∀ l, l < 96 → cget 0 l g'.upc = if l ∈ enLanes x then x.fall else cget 0 l x.g.upc))) ∧
  (∀ (f : Form) (s : State) (x : Ctx), Issues (.eret f) s x → Goes x →
     (x.g.service = true →
       (let g : Group := { x.g with service := false }
        let o : Out := { stay := x.mask }
        (x.r.fn = 1 → EndsWith (.eret f) s x (setGroup (endReplay (if g.win.opened && g.replay.isNone then beginReplay g else g)) s) o) ∧
        (x.r.fn = 2 → ∀ w u, fetchAt s g g.tr.pc = (.ok w, u) → EndsWith (.eret f) s x (skipTo g w.raw.len u) o) ∧
        (x.r.fn = 3 → EndsWith (.eret f) s x (setGroup (endReplay (windowClose (stopReplay g))) s) o) ∧
        (x.r.fn ≠ 1 → x.r.fn ≠ 2 → x.r.fn ≠ 3 → x.g.replay = none → ∃ t g', exec (.eret f) s = .next t ∧ mfind x.g.gid t.groups = some g' ∧
           KeepsOutside s t x.g.gid ∧ g'.service = false ∧ g'.upc = x.g.upc ∧ g'.regs = x.g.regs ∧ g'.tr = x.g.tr))) ∧
     (x.g.service = false → ∃ t g', exec (.eret f) s = .next t ∧ Traps x t .privilege x.mask g')) ∧
  (∀ (g : Group) (n : Snap) (named : BitVec 925) (fk addr : Nat) (nr : Bool),
     (let h := windowPoison g n named fk addr nr
      (n.seq < g.win.shutSeq → h = g) ∧
      (g.win.shutSeq ≤ n.seq → g.win.opened = false → g.win.fkind = 0 →
        h.win.opened = true ∧ h.win.orig = some n ∧ h.win.fkind = fk ∧ (fk ≠ 0 → h.win.faddr = addr) ∧ h.win.noRepl = nr ∧
        h.win.gcnt = (g.hist.filter (fun e => decide (n.seq ≤ e.seq))).length ∧ h.win.marked &&& named = named) ∧
      (g.win.shutSeq ≤ n.seq → g.win.opened = true → ∀ o, g.win.orig = some o → o.seq ≤ n.seq →
        h.win.orig = some o ∧ h.win.gcnt = g.win.gcnt ∧ h.win.cnt = g.win.cnt ∧ h.win.marked = g.win.marked ||| named))) ∧
  (∀ (g : Group) (o : Snap), g.win.orig = some o → (∃ l ∈ lanesOf g.live, cget 0 l g.win.cnt ≠ 0) →
     (let h := beginReplay g
      h.replay.isSome = true ∧ h.upc = o.lpc ∧ h.srctr = o.srctr ∧ h.loops = o.loops ∧ h.poison = g.poison ∧ h.win = g.win ∧
      ∀ k, k < 3 → getReg h (944 + k) 0 = o.lcs.getD k 0 % 2 ^ 32)) ∧
  (∀ (x : Ctx) (g : Group) (d n l v : Nat) (p : Bool), x.inReplay = true → isV d = true → isV (d + n - 1) = true → l < 96 →
     (x.wasBad d l = false → writeDst x g d n l v p = g) ∧
     (x.wasBad d l = true → ∀ k, k < n →
       getReg (writeDst x g d n l v p) (d + k) l = bits v (32 * k) 32 ∧ getPoison (writeDst x g d n l v p) (d + k) l = p)) ∧
  (∀ (g : Group) (r : Replay), g.replay = some r → (∀ l ∈ lanesOf g.live, hasLane r.done l = true) → g.pend = [] → g.service = false →
     (let h := endReplay g
      h.replay = none ∧ h.upc = r.back.lpc ∧ h.srctr = r.back.srctr ∧ h.loops = r.back.loops ∧ h.poison = g.poison ∧
      (anyPoison g = false → h.win.opened = false) ∧ (anyPoison g = true → h.win = g.win)))

namespace Sys2Proof.Machine

/-- The value CSRW writes: C, or the register with C's bits set or cleared (R421). -/
def csrNew (x : Ctx) (c : Csr) : Nat :=
  let old := csrRead x.s x.b.core x.part x.g c
  let w := (uC x).1 % 2 ^ 64
  if x.r.fn = 0 then w else if x.r.fn = 1 then old ||| w else old &&& (2 ^ 64 - 1 - w)

end Sys2Proof.Machine

/-- R48, R421, R422: CSRR writes the register that B names to the pair it names; TIME writes the PTP time or the cycle counter. User level
may read DEVSTAT and PWRSTAT alone; any other register takes the privilege trap.
R417, R421 to R423, R426: at service level CSRW writes a scratch register, a compare entry, DBG_CTL, LS_BANKCTL or TLB_INV; a register
that is read-only, or user level, takes the privilege trap (double at service level, R411). -/
def Obligations.RegisterAccess : Prop :=
  ((∀ (f : Form) (s : State) (x : Ctx) (c : Csr), Issues (.csrr f) s x → Goes x → Calm x → enLanes x ≠ [] → csrOf ((uB x).1 % 2 ^ 32) = some c → isS x.r.d = true →
     ((x.g.service = true ∨ c = .devstat ∨ c = .pwrstat) → WritesOnce (.csrr f) s x 2 (csrRead s x.b.core x.part x.g c)) ∧
     (x.g.service = false → c ≠ .devstat → c ≠ .pwrstat → ∃ t g', exec (.csrr f) s = .next t ∧ Traps x t .privilege x.mask g')) ∧
   (∀ (f : Form) (s : State) (x : Ctx), Issues (.time f) s x → Goes x → Calm x → enLanes x ≠ [] → isS x.r.d = true →
     WritesOnce (.time f) s x 2 (if x.r.fn = 0 then s.ptp.ns % 2 ^ 64 else s.cycle % 2 ^ 64))) ∧
  (∀ (f : Form) (s : State) (x : Ctx) (c : Csr), Issues (.csrw f) s x → Goes x → Calm x → enLanes x ≠ [] → csrOf ((uB x).1 % 2 ^ 32) = some c →
     (x.g.service = false → ∃ t g', exec (.csrw f) s = .next t ∧ Traps x t .privilege x.mask g') ∧
     (x.g.service = true →
       (let v := csrNew x c
        let i : Instr := .csrw f
        (∀ k, c = .scratch k → EndsWith i s x (setGroup { x.g with scratch := cset 0 k v x.g.scratch } s) {}) ∧
        (∀ k, c = .dbgCmp k → EndsWith i s x (dbgWrite x.b.core k v s) {}) ∧
        (c = .dbgCtl → EndsWith i s x (writeDbgCtl x.b.core v s) {}) ∧
        (c = .bankCtl →
          (let s1 := addOp (bankWrite x.b.core v s) (opOf x .sv (.service 0 (bits v 0 5)))
           EndsWith i s x (if bit v 9 && (bankRefusal s x.b.core v).isNone && bankBusy s1 x.b.core (bits v 0 5) then s1 else endOp s.nextOp s1) {})) ∧
        (c = .tlbInv → (getPart s x.part).tlbInv = [] →
          (let s1 := tlbWrite x.part v (some s.nextOp) (addOp s (opOf x .sv (.service 1 0)))
           EndsWith i s x (if (getPart s1 x.part).tlbInv.isEmpty then endOp s.nextOp s1 else s1) {})) ∧
        (c.writable = false → exec i s = .next (slotTick x.g (beatsOf x.mask) (partFatal (partOf s x.g) (coreOf s x.g) s))))))

namespace Sys2Proof.Machine

/-- The registers per lane, the bytes and the type of a load (R262, R265). -/
def loadShape (x : Ctx) : Instr → Option (Nat × Nat × Nat)
  | .ld _ _ _ _ | .ldExt _ => some ((iTy x.r).regs, memBytes x.r.ty, x.r.ty)
  | .ldp _ => some (2 ^ (x.r.fn + 1), 4 * 2 ^ (x.r.fn + 1), 15)
  | _ => none

/-- The bytes and the value per lane of a store (R262, R265). -/
def storeShape (x : Ctx) : Instr → Option (Nat × (Nat → Nat))
  | .st _ _ _ _ | .stExt _ => some (memBytes x.r.ty, fun l => (srcC x l).1)
  | .stp _ => some (4 * 2 ^ (x.r.fn + 1), fun l => (groupVal x x.r.c x.r.rc l (2 ^ (x.r.fn + 1))).1)
  | _ => none

/-- An atomic's function as ATOM codes it, its path, the registers per lane of an operand, whether it returns, whether it is wide
(R267 to R273). -/
def atomShape (x : Ctx) : Instr → Option (Nat × Path × Nat × Bool × Bool)
  | .atom _ => some (x.r.fn, .ld, (tyOf (.pairF .bf16) x.r.ty).regs, true, false)
  | .atomn _ => some (x.r.fn, .st, (tyOf (.pairF .bf16) x.r.ty).regs, false, false)
  | .atomp _ =>
    let fn := if x.r.fn % 8 ≤ 4 then x.r.fn % 8 else if x.r.fn % 8 = 5 then 6 else if x.r.fn % 8 = 6 then 7 else 10
    some (fn, (if x.r.fn < 8 then .ld else .st), (tyOf (.pairF .bf16) x.r.ty).regs, decide (x.r.fn < 8), false)
  | .atomw _ => some ((if x.r.fn = 1 then 1 else 0), (if x.r.fn = 2 then .st else .ld), 4, decide (x.r.fn ≠ 2), true)
  | _ => none

/-- A compare and swap: its operand follows the compared value in C's registers (R268). -/
def isCas (fn : Nat) (wide : Bool) : Bool := if wide then fn == 1 else fn == 7

/-- The operand of an atomic in a lane, and what is compared. -/
def atomOperand (x : Ctx) (fn n : Nat) (wide : Bool) (l : Nat) : Nat × Nat :=
  if isCas fn wide then ((groupVal x (x.r.c + n) x.r.rc l n).1, (groupVal x x.r.c x.r.rc l n).1)
  else if wide then ((groupVal x x.r.c x.r.rc l 4).1, 0) else ((srcC x l).1, 0)

/-- The accesses of lanes that all translate: one per lane, in lane order (R216). -/
def accessesOf (n : Nat) (data cmpv : Nat → Nat) (tr : List (Where × Except XFault (List Piece))) : List Access :=
  tr.filterMap (fun e => match e.2 with
    | .ok ps => some (if e.1.pad then padAcc e.1 n (data e.1.lane) (cmpv e.1.lane) else memAcc e.1 n (data e.1.lane) (cmpv e.1.lane) ps)
    | .error _ => none)

/-- The physical ranges of the lines that CFLUSH and CINV name in the enabled lanes (R279, R280): from each lane's address, C's
bytes, widened to whole lines; none for a length of 0. -/
def flushRanges (x : Ctx) (s : State) : List (Nat × Nat) × State :=
  let n := (srcC x x.lo).1 % 2 ^ 32
  if n = 0 then ([], s)
  else ((enLanes x).map (whereOf x)).foldl (fun acc w =>
    let lo := w.va / 128 * 128
    let hi := (w.va + n + 127) / 128 * 128
    let q := rangePieces x w ((hi - lo) / 65536 + 4) lo (hi - lo) acc.2
    (acc.1 ++ q.1, q.2)) ([], s)

/-- The credits that WSEND uses, lane by lane: the partition after it, and whether each enabled lane had one (R323, R327). -/
def wagonCredits (x : Ctx) (s : State) : Part × List (Nat × Bool) :=
  (enLanes x).foldl (fun acc l =>
    let t := (srcB x l).1 % 2 ^ 32
    let n := creditsOf acc.1 (bits t 0 9) (bits t 16 6)
    if n = 0 then (acc.1, acc.2 ++ [(l, false)]) else (setCredits (bits t 0 9) (bits t 16 6) (n - 1) acc.1, acc.2 ++ [(l, true)])) (getPart s x.part, [])

/-- The wagon of a lane: its 64 bytes with the service bit of its target and the sender's package put in (R323, R326). -/
def wagonOf (x : Ctx) (s : State) (l : Nat) : Access :=
  let v := (groupVal x x.r.a x.r.ra l 16).1
  { act := 5, lane := l, va := (srcB x l).1 % 2 ^ 32, n := 64, st := [.todo], pieces := [{ pa := 2 ^ 60 + 128 * l, n := 64, off := 0, kind := .rc }]
    data := putBytes (putBytes v 45 1 (bits v 360 7 + 128)) 46 2 s.pkg }

/-- The bay's channel `chan` of the issue's partition, where the partition owns it and it is open (R324). -/
def bayOf (x : Ctx) (s : State) (chan : Nat) : Option Chan :=
  if bit (getPart s x.part).wchan chan then mfind chan (getPart s x.part).chans else none

/-- Every lane's access translates. -/
def AllTranslate (tr : List (Where × Except XFault (List Piece))) : Prop := ∀ e ∈ tr, ∃ ps, e.2 = .ok ps

/-- What a release or acquire without an enabled lane leaves: its order, which a sweep ends where nothing stands before it (R254). -/
def bareState (s : State) (x : Ctx) : State := pump (sweepOps (addOp s { opOf x .ld .bare with counted := false }))

/-- The addresses of the lanes that perform an access. -/
def laneWheres (x : Ctx) : List Where := (accLanes x).map (whereOf x)

end Sys2Proof.Machine

/-- R260 to R266, R187, R254: a load whose lanes all translate leaves an operation on the LD path with one access per lane and its
destination registers pending, and takes at once what is present; the other lanes come with LOAD_DATA_RETURN. With ORDER and no enabled lane
it only orders the group's accesses. -/
def Obligations.Loads : Prop :=
  ∀ (i : Instr) (n bytes ty : Nat) (s : State) (x : Ctx), loadShape x i = some (n, bytes, ty) → Issues i s x → Goes x → Calm x →
    (isBare x = true → EndsWith i s x (bareState s x) {}) ∧
    (isBare x = false → dataBreak x 1 (laneWheres x) bytes = none → padExtent x (laneWheres x) bytes = none →
      (let tr := xlateLanes x .rd false bytes (laneWheres x) s
       let accs := accessesOf bytes (fun _ => 0) (fun _ => 0) tr.1
       let g := (accs.filter (fun a => a.isOpen)).foldl (fun g a => pendReg x.r.d n a.lane g) x.g
       AllTranslate tr.1 →
       EndsWith i s x (pump (takePresent x tr.2.nextOp (addOp (setGroup g tr.2) { opOf x .ld (.load x.r.d n ty x.r.uni) with accs := accs }))) {}))

/-- R254, R259, R263 to R266: a store whose lanes all translate leaves an operation on the ST path with one access per lane that holds the
lane's value; pad bytes are written at once where the bank is ready, other bytes by HOME_STORE_APPLY. With ORDER and no enabled lane it
only orders the group's accesses. -/
def Obligations.Stores : Prop :=
  ∀ (i : Instr) (n : Nat) (val : Nat → Nat) (s : State) (x : Ctx), storeShape x i = some (n, val) → Issues i s x → Goes x → Calm x →
    (isBare x = true → EndsWith i s x (bareState s x) {}) ∧
    (isBare x = false → dataBreak x 2 (laneWheres x) n = none → padExtent x (laneWheres x) n = none →
      (let tr := xlateLanes x .wr true n (laneWheres x) s
       AllTranslate tr.1 →
       EndsWith i s x (pump (endIfPad tr.2.nextOp (putPads tr.2.nextOp padStore
         (addOp tr.2 { opOf x .st .store with accs := accessesOf n val (fun _ => 0) tr.1 })))) {}))

/-- R254, R259, R267 to R273: an atomic on aligned bytes off UN pages whose lanes all translate leaves an operation with the lanes' operands;
a returning one makes its destination pending and travels on the LD path, the others on the ST path (R270). With ORDER and no enabled lane
it only orders the group's accesses. -/
def Obligations.Atomics : Prop :=
  ∀ (i : Instr) (fn : Nat) (path : Path) (n : Nat) (returns wide : Bool) (s : State) (x : Ctx),
    atomShape x i = some (fn, path, n, returns, wide) → Issues i s x → Goes x → Calm x →
    (isBare x = true → EndsWith i s x (bareState s x) {}) ∧
    (isBare x = false → dataBreak x 2 (laneWheres x) (4 * n) = none → padExtent x (laneWheres x) (4 * n) = none →
      (∀ w ∈ laneWheres x, (if w.pad then w.off.toNat else w.va) % (4 * n) = 0) →
      (let tr := xlateLanes x .at false (4 * n) (laneWheres x) s
       let opnd := atomOperand x fn n wide
       let accs := accessesOf (4 * n) (fun l => (opnd l).1) (fun l => (opnd l).2) tr.1
       let ret := if returns then some (x.r.d, n) else none
       let g := if returns then accs.foldl (fun g a => pendReg x.r.d n a.lane g) x.g else x.g
       let s1 := if returns then setGroup g tr.2 else tr.2
       let s2 := putPads s1.nextOp padAtom (addOp s1 { opOf x path (.atomic fn x.r.ty ret wide) with accs := accs })
       AllTranslate tr.1 → (∀ w ∈ laneWheres x, reachesUn x tr.2 w (4 * n) = false) →
       EndsWith i s x (pump (if returns then endIfRead s1.nextOp s2 else endIfPad s1.nextOp s2)) {}))

/-- R274, R277 to R280: FENCE, XLT, PREF, CFLUSH and CINV leave their operation; FENCE with a status makes its destination pending and
carries whether the group met a FAULTED region (R249), XLT makes its translation register pending, and PREF asks for whole lines.
R254: HSIG and WSEND with ORDER and no enabled lane only order the group's accesses. -/
def Obligations.OtherMemory : Prop :=
  (∀ (i : Instr) (s : State) (x : Ctx), (∃ f, i = .hsig f) ∨ (∃ f, i = .wsend f) → Issues i s x → Goes x → Calm x → isBare x = true →
    EndsWith i s x (bareState s x) {}) ∧
  ∀ (i : Instr) (s : State) (x : Ctx), Issues i s x → Goes x → Calm x →
    (match i with
     | .fence _ =>
       let d := if x.r.fn = 1 && !(enLanes x).isEmpty then some x.r.d else none
       let s1 := setGroup (match d with | some c => pendReg c 1 0 x.g | none => x.g) s
       EndsWith i s x (pump (sweepOps (addOp s1 { opOf x .ld (.fence d) with counted := false, poisoned := x.g.poolBad }))) {}
     | .xlt _ => EndsWith i s x (addOp (setGroup (putPend x.g x.r.d 0 true) s) (opOf x .sv (.xlt x.r.d (srcB x x.lo).1))) { ctl := true }
     | .pref _ => padExtent x (laneWheres x) 1 = none →
       (let tr := xlateLanes x .rd false 1 ((laneWheres x).filter (fun w => !w.pad)) s
        let accs := tr.1.filterMap (fun e => match e.2 with
          | .ok ps => if ps.all (fun p => !isPeer tr.2 p.pa || (x.r.fn == 2 && p.borrow))
              then some (memAcc e.1 128 0 0 (ps.map (fun p => { p with pa := p.pa / 128 * 128, n := 128 }))) else none
          | .error _ => none)
        EndsWith i s x (pump (endIfRead tr.2.nextOp (addOp tr.2 { opOf x .ld (.pref x.r.fn) with accs := accs }))) {})
     | .cflush _ => EndsWith i s x (addOp (flushRanges x s).2 (opOf x .sv (.cache x.r.fn (flushRanges x s).1 false))) {}
     | .cinv _ => EndsWith i s x (addOp (flushRanges x s).2 (opOf x .sv (.cache x.r.fn (flushRanges x s).1 true))) {}
     | _ => True)

/-- R281 to R298: HCOPY, HFILL, HXPOSE and HREM, whose descriptor passes the checks of R284, leave their operation on the HL or the
NT path; HTRIG joins the group's trigger queue, whose head is tested at once (R298); HSIG leaves an operation with its
access (R296). -/
def Obligations.HaulStarts : Prop :=
  ∀ (i : Instr) (s : State) (x : Ctx), Issues i s x → Goes x → Calm x → enLanes x ≠ [] →
    (let ws := (recWords x x.r.a 12).1
     let d := descOf ws
     match i with
     | .hcopy _ => descTrap x .copy d (redBytes x.r.fn x.r.ty) (d.rows * d.rowb) (copyEnds .copy d) false none = none →
         ∃ t, startHaul x .hl (.haul 0 ws x.r.fn x.r.ty 0) = .ok t {} ∧ EndsWith i s x t {}
     | .hfill _ => descTrap x .fill d 1 (d.rows * d.rowb) (copyEnds .fill d) false none = none →
         ∃ t, startHaul x .hl (.haul 2 ws 0 0 ((uB x).1 % 2 ^ 32)) = .ok t {} ∧ EndsWith i s x t {}
     | .hxpose _ =>
         let f := fbOf (uB x).1
         fbBad (uB x).1 = none →
         descTrap x .xpose d 1 (d.rows * f.rows * (16 * f.p + 120 / blkLen f.blk)) (if d.rows = 0 then [] else xposeEnds d f) (isBlockFmt f.fmt) none = none →
         xposeOut x.b d f = none →
         ∃ t, startHaul x .hl (.haul 1 ws 0 0 (uB x).1) = .ok t {} ∧ EndsWith i s x t {}
     | .hrem _ => descTrap x .rem d 1 (d.rows * d.rowb) (copyEnds .rem { d with dpad := false }) false none = none →
         ∃ t, startHaul x .nt (.hrem ws x.r.fn (uB x).1) = .ok t {} ∧ EndsWith i s x t {}
     | .hsig _ => ∀ ps u, (srcA x x.lo).1 % 8 = 0 →
         xlateLanes x (if x.r.fn = 0 then .wr else .at) false 8 [{ lane := x.lo, va := (srcA x x.lo).1 }] s = ([({ lane := x.lo, va := (srcA x x.lo).1 }, .ok ps)], u) →
         (x.r.fn = 1 → reachesUn x u { lane := x.lo, va := (srcA x x.lo).1 } 8 = false) →
         EndsWith i s x (pump (addOp u { opOf x .nt (.hsig x.r.fn (uB x).1) with
           accs := [{ act := if x.r.fn = 0 then 2 else 3, lane := 0, va := (srcA x x.lo).1, n := 8, pieces := ps
                      st := ps.map (fun _ => .todo), data := (uB x).1 }] })) {}
     | .htrig _ => descTrap x .copy d (redBytes x.r.fn x.r.ty) (d.rows * d.rowb) (copyEnds .copy d) false (some ((uB x).1 % 2 ^ 32)) = none →
         (let e : Trig := { seq := x.g.seq, pc := x.pc, desc := ws, fn := x.r.fn, ty := x.r.ty, off := (uB x).1 % 2 ^ 32,
                            thr := (uC x).1 % 2 ^ 32, service := x.g.service, fenced := x.g.fenced }
          EndsWith i s x (trigNote x.b.bid (setGroup { x.g with trigq := x.g.trigq ++ [e] } s)) {})
     | _ => True)

/-- R299, R300: GATH and SCAT whose lanes' elements lie aligned in pad and translate leave an operation on the GA path with one access
per lane. -/
def Obligations.GatherScatter : Prop :=
  ∀ (i : Instr) (w : Nat) (need : Need) (red : Bool) (act : Nat) (kind : Nat → OpKind) (s : State) (x : Ctx),
    ((∃ f, i = .gath f) ∧ w = memBytes x.r.ty ∧ need = .rd ∧ red = false ∧ act = 1 ∧ kind = fun p => .gather x.r.ty p) ∨
    ((∃ f, i = .scat f) ∧ w = redBytes x.r.fn x.r.ty ∧ need = (if x.r.fn = 0 then .wr else .at) ∧ red = (x.r.fn != 0) ∧ act = 4 ∧
      kind = fun p => .scatter x.r.fn x.r.ty p) →
    Issues i s x → Goes x → Calm x → enLanes x ≠ [] →
    (let ws := (enLanes x).map (whereOf x)
     let base := (uC x).1 % 2 ^ 32
     let tr := xlateLanes x need false w ws s
     let accs := tr.1.filterMap (fun e => match e.2 with
       | .ok ps => some { (if e.1.pad then padAcc e.1 w 0 0 else memAcc e.1 w 0 0 ps) with act := act }
       | .error _ => none)
     let u := if act = 4 && !red then unWinners tr.2 accs else (accs, tr.2)
     base % w = 0 →
     (∀ e ∈ ws, padIn x.b ((base + e.lane * w : Nat) : Int) w = true ∧ (e.pad = true → padIn x.b e.off w = true) ∧
       (if e.pad then e.off.toNat else e.va) % w = 0) →
     AllTranslate tr.1 → (red = true → ∀ e ∈ ws, reachesUn x tr.2 e w = false) →
     EndsWith i s x (pump (addOp u.2 { opOf x .ga (kind base) with accs := u.1 })) {})

/-- R301 to R309: MLOOP, MZERO, MTRD, MTWR, MLDT and MSTT leave their operation on the MX path; MTRD makes its destination pending; MTRD
and MSTT with SR count srctr (R310). -/
def Obligations.MatrixStarts : Prop :=
  ∀ (i : Instr) (s : State) (x : Ctx), Issues i s x → Goes x → Calm x → enLanes x ≠ [] →
    (let c0 := (uB x).1 % 2 ^ 32
     let n := 2 ^ x.r.fn
     let str := (uC x).1 % 2 ^ 32
     let w : Nat := if x.r.ty = 4 then 4 else 2
     let tilesFit := str % w = 0 ∧ 96 * w ≤ str ∧ endsOut x.b { pad := true, addr := c0, stride := (str : Int), rows := 96, n := 96 * w } = none
     match i with
     | .mloop _ =>
       let a := (srcA x x.lo).1
       let b := (srcB x x.lo).1
       let st := stepOf (srcC x x.lo).1
       fbBad a = none → fbBad b = none → st.mbz = false → (fbOf a).blk = (fbOf b).blk → mloopOut x.b (fbOf a) (fbOf b) st = none →
         EndsWith i s x (addOp s (opOf x .mx (.mloop (x.r.d - 936) a b (srcC x x.lo).1 0 false))) {}
     | .mzero _ => EndsWith i s x (addOp s (opOf x .mx (.tileOp 0 (x.r.d - 936) 0 0 0 0 0 false []))) {}
     | .mtrd _ => c0 + n ≤ 96 →
         EndsWith i s x (addOp (setGroup ((enLanes x).foldl (fun g l => pendReg x.r.d n l g) x.g) s)
           (opOf x .mx (.tileOp 1 (x.r.a - 936) c0 x.r.d x.r.fn x.r.ty x.r.rnd x.r.sat ((enLanes x).map (fun l => (l, 0)))))) { sr := x.isSR }
     | .mtwr _ => c0 + n ≤ 96 →
         EndsWith i s x (addOp s (opOf x .mx (.tileOp 2 (x.r.d - 936) 0 0 0 0 0 false
           ((enLanes x).flatMap (fun l => (List.range n).map (fun k => (l * 96 + c0 + k, widenElem x.r.ty (readSrc x tyU32 (x.r.a + k) x.r.ra l).1))))))) {}
     | .mldt _ => tilesFit → EndsWith i s x (addOp s (opOf x .mx (.tileOp 3 (x.r.d - 936) c0 str 0 x.r.ty x.r.rnd x.r.sat []))) { sr := x.isSR }
     | .mstt _ => tilesFit → EndsWith i s x (addOp s (opOf x .mx (.tileOp 4 (x.r.d - 936) c0 str 0 x.r.ty x.r.rnd x.r.sat []))) { sr := x.isSR }
     | _ => True)

/-- R311 to R322: RTRAV and TEXF leave their operation on the RY path with the rays or the coordinates of the enabled lanes, whose
destination registers become pending. -/
def Obligations.RenderStarts : Prop :=
  ∀ (i : Instr) (s : State) (x : Ctx), Issues i s x → Goes x → Calm x → enLanes x ≠ [] →
    (let pended := fun (n : Nat) => setGroup ((enLanes x).foldl (fun g l => pendReg x.r.d n l g) x.g) s
     match i with
     | .rtrav _ =>
       EndsWith i s x (pump (addOp (pended 8) (opOf x .ry (.rtrav x.r.fn x.r.d (srcB x x.lo).1
         ((enLanes x).map (fun l => (l, (List.range 8).map (fun k => (readSrc x tyU32 (x.r.a + k) x.r.ra l).1)))))))) {}
     | .texf _ =>
       let surf := (List.range 8).map (fun k => getReg x.g (x.r.c + k) 0)
       surfBad (wordsNum surf) = none →
       EndsWith i s x (pump (addOp (pended 4) (opOf x .ry (.texf x.r.d surf ((enLanes x).map (fun l => (l, (srcA x l).1, (srcB x l).1))))))) {}
     | _ => True)

/-- R323 to R330: WSEND sends a wagon from each enabled lane that has a credit, writes 1 to it and 0 to the others; WRECV takes wagons of a
channel for its lanes in order, with the releases they carry (R329), and returns their credits, and reports each that is uncorrectable (R330, its unit
log 81); a channel number above 63 takes the operand-form trap (log 84); WBAY opens, grants, closes, returns and counts, with a result word. -/
def Obligations.Wagons : Prop :=
  ∀ (i : Instr) (s : State) (x : Ctx), Issues i s x → Goes x → Calm x → enLanes x ≠ [] →
    (let w := (uB x).1 % 2 ^ 32
     let ends := fun (u : State) (v : Nat) => ∀ t o, ntResult x u v = .ok t o → EndsWith i s x t o
     match i with
     | .wsend _ => (∀ l ∈ enLanes x, targetOk ((srcB x l).1 % 2 ^ 32) = true) →
         (let c := wagonCredits x s
          let accs := ((c.2.filter (fun e => e.2)).map (fun e => e.1)).map (wagonOf x s)
          let g := c.2.foldl (fun g e => writeDst x g x.r.d 1 e.1 (if e.2 then 1 else 0) false) x.g
          let s1 := setGroup g (setPart x.part c.1 s)
          let s2 := addOp s1 { opOf x .nt .wsend with accs := accs }
          EndsWith i s x (pump (if accs.isEmpty then endOp s1.nextOp s2 else s2)) {})
     | .wrecv _ => w < 64 →
         (let ch := bayOf x s w
          let ws := (ch.map (fun c => c.wagons)).getD []
          let got := ((List.range (enLanes x).length).zip (enLanes x)).map (fun e => (e.2, ws[e.1]?))
          let taken := got.filterMap (fun e => e.2.map (fun v => (e.1, v)))
          let s1 := if taken.isEmpty then s
            else modPart x.part (fun p => { p with chans := mmodify w (fun c => { c with wagons := c.wagons.drop taken.length, toks := c.toks.drop taken.length }) p.chans }) s
          let s2 := taken.foldl (fun t e => sendCredits x.part x.cls (e.2.2 % 2 ^ 16) w 1 false t) s1
          let bad := (taken.filter (fun e => decide (2 ^ 16 ≤ e.2.2))).map (fun e => e.1)
          let s3 := bad.foldl (fun t _ => softError t 9 (some x.part) (coreUnit ((ch.map (fun c => c.core)).getD 0)) 0) s2
          let ts := ((ch.map (fun c => c.toks)).getD []).take taken.length
          let g := (enLanes x).foldl (fun g l => pendReg x.r.d 16 l g) x.g
          EndsWith i s x (pump (addOp (meet (setGroup g s3) (opOf x .nt .done) (ts.foldl joinToks []))
            (opOf x .nt (.wrecv x.r.d (got.map (fun e => (e.1, (e.2.map (fun v => v.1)).getD 0))) bad)))) {})
     | .wbay _ =>
         let k := (uC x).1 % 2 ^ 32
         let chan := bits w 16 6
         let pkg := bits w 0 9
         let own := fun (c : Nat) => bit (getPart s x.part).wchan c
         let put := fun (c : Nat) (v : Chan) => modPart x.part (fun p => { p with chans := minsert c v p.chans }) s
         (x.r.fn = 0 → w < 64 → k < 32 →
           (own w = false → ends s 1) ∧
           (own w = true → bayOf x s w = none → (getBank (getCore s x.b.core) k).mode = 2 → (getBank (getCore s x.b.core) k).state = 0 →
             (getBank (getCore s x.b.core) k).intake = none →
             ends (modCore x.b.core (fun c => { c with banks := minsert k { getBank c k with intake := some w } c.banks }) (put w { core := x.b.core, bank := k })) 0)) ∧
         (x.r.fn = 1 → targetOk w = true → 1 ≤ k → k ≤ 1024 →
           (own chan = false → ends s 1) ∧ (own chan = true → bayOf x s chan = none → ends s 2) ∧
           (∀ c, bayOf x s chan = some c → (1024 < c.total + k → ends s 3) ∧
             (c.total + k ≤ 1024 → ends (sendCredits x.part x.cls pkg chan k false (put chan { c with total := c.total + k })) 0))) ∧
         (x.r.fn = 2 → w < 64 →
           (own w = false → ends s 1) ∧ (own w = true → bayOf x s w = none → ends s 2) ∧
           (∀ c, bayOf x s w = some c → (c.total ≠ 0 ∨ c.wagons ≠ [] → ends s 4) ∧
             (c.total = 0 → c.wagons = [] → ends (modCore c.core (fun r => { r with banks := minsert c.bank { getBank r c.bank with intake := none } r.banks })
               (modPart x.part (fun p => { p with chans := merase w p.chans }) s)) 0))) ∧
         (x.r.fn = 3 → targetOk w = true →
           (let held := creditsOf (getPart s x.part) pkg chan
            let s1 := modPart x.part (setCredits pkg chan 0) s
            ends (if held = 0 then s1 else sendCredits x.part x.cls pkg chan held true s1) held)) ∧
         (x.r.fn = 4 → targetOk w = true → ends s (creditsOf (getPart s x.part) pkg chan)) ∧
         (x.r.fn = 5 → w < 64 → ends s (((bayOf x s w).map (fun c => c.wagons.length)).getD 0))
     | _ => True)

/-- R331 to R344: COLL starts a collective with its record's staging and object in pad; CMPJ reads its record and queues a Landau job, or
writes why it is refused; CMPQ writes a job's state, and with CANCEL cancels it. -/
def Obligations.CollectivesAndJobs : Prop :=
  ∀ (i : Instr) (s : State) (x : Ctx), Issues i s x → Goes x → Calm x → enLanes x ≠ [] →
    (let ends := fun (u : State) (v : Nat) => ∀ t o, ntResult x u v = .ok t o → EndsWith i s x t o
     match i with
     | .coll _ =>
         let ws := (recWords x x.r.b 4).1
         let c := collRec ws
         let obj : Nat := (uC x).1 % 2 ^ 32
         c.mbz = false → c.me < c.n → obj % 16 = 0 → padIn x.b (c.stage : Int) 73728 = true → padIn x.b (obj : Int) 16 = true →
         EndsWith i s x (pump (addOp s (opOf x .nt (.coll (x.r.a - 936) x.r.fn obj ws [] [] [])))) {}
     | .cmpj _ => ∀ v u, readAtIssue x .nt (uB x).1 64 = (.ok v, u) →
         (64 ≤ (openJobs (getPart u x.part)).length → ends u (2 ^ 31 + 1)) ∧
         ((openJobs (getPart u x.part)).length < 64 → ∀ c, recRefused (jobRec v) (uB x).1 = some c → ends u (2 ^ 31 + c)) ∧
         ((openJobs (getPart u x.part)).length < 64 → recRefused (jobRec v) (uB x).1 = none →
           ((jobRec v).ports &&& u.fab.ethUp = 0 → ends u (2 ^ 31 + 5)) ∧
           ((jobRec v).ports &&& u.fab.ethUp ≠ 0 → landauEn u x.part = false → ends u (2 ^ 31 + 6)) ∧
           ((jobRec v).ports &&& u.fab.ethUp ≠ 0 → landauEn u x.part = true →
             (let p := getPart u x.part
              let j : Job := { handle := p.nextHandle, gid := x.g.gid, oid := u.nextOp, pc := x.pc, record := v, watch := bufLines x (jobRec v) u }
              let s1 := setPart x.part { p with nextHandle := (p.nextHandle + 1) % 2 ^ 16
                                                jobs := p.jobs.filter (fun e => e.handle != p.nextHandle) ++ [j] } u
              EndsWith i s x (pump (addOp (modGroup x.g.gid (fun g => writeDst x g x.r.d 1 0 p.nextHandle false) s1) (opOf x .nt (.job x.part p.nextHandle)))) {})))
     | .cmpq _ =>
         let h := (uB x).1 % 2 ^ 16
         (getJob s x.part h = none → ends s 0xFFFFFFFF) ∧
         (∀ j, getJob s x.part h = some j →
           (x.r.fn = 0 → ends s (jobState j)) ∧
           (x.r.fn ≠ 0 → j.phase = 0 → ∀ o, findOp s j.oid = some o → ends (endJob o j 5 s) (jobState j)) ∧
           (x.r.fn ≠ 0 → j.phase ≠ 0 → j.running = true → ends (modJob x.part j.handle (fun j => { j with cancel := true }) s) (jobState j)) ∧
           (x.r.fn ≠ 0 → j.phase ≠ 0 → j.running = false → ends s (jobState j)))
     | _ => True)

namespace Sys2Proof.Machine

/-- An operation that is not finished, with its block. -/
def Outstanding (s : State) (oid : Nat) (o : Op) (b : Block) : Prop := findOp s oid = some o ∧ o.finished = false ∧ getBlock s o.bid = some b

/-- A packet of kind `k` for this package that is well formed (R349) comes by a port that is up (R348). -/
def Arrives (s : State) (k : Nat) : Prop := bit s.fab.ports s.ev.p.port = true ∧ s.ev.p.kind = k ∧ k < 11 ∧ s.ev.p.mbz = 0 ∧ s.ev.p.dst = s.pkg

/-- The state once the record of the request that the packet answers is taken out. -/
def tookTag (s : State) : State := { s with fab := { s.fab with tags := merase s.ev.p.tag s.fab.tags } }

end Sys2Proof.Machine

/-- R14, R187, R189, R191, R192, R195, R218: LOAD_DATA_RETURN brings a lane's value to its registers once nothing stands in the access's
way, read with the lanes that share bytes with it, or its poison where a part cannot be read, or reads one of its parts alone (R223);
FAR_ATOMIC and, near the core,
LOAD_DATA_RETURN perform a lane's atomic; HOME_STORE_APPLY writes the bytes of a store's part at their home, or nothing to a FAULTED
region, and queues the updates to the sharers; SHARER_UPDATE brings one to its core's copy; STORE_COMPLETE ends a store of which
nothing is left. The TLB entries that LOAD_DATA_RETURN's turn lists are evicted first (R209, log 65). -/
def Obligations.AccessReturns : Prop :=
  (∀ (s0 : State) (o : Op) (k : Nat) (a : Access), Powered s0 →
     (let s := evicted s0
      let ms := matesOf o k
      let land := fun (t : State) => Happens .loadDataReturn s0 (endIfRead o.oid t)
      findOp s s.ev.a = some o → openAcc o s.ev.b = some (k, a) → a.pad = false →
        (o.isLoad = true →
          ((∀ t ∈ a.st, t = .got ∨ t = .done) → land (landLoad s o k a.data 0 0)) ∧
          ((∃ t ∈ a.st, t ≠ .got ∧ t ≠ .done) → s.ev.c = 0 → matesMay s o ms = true → (∀ m ∈ ms, partsReady s o (opCore s o) m.2 = true) →
            (∀ v u, readTogether s o ms = (.ok v, u) → land (landLoad u o k v 0 0)) ∧
            (∀ e u, readTogether s o ms = (.error e, u) → land (landLoad u o k 0 e.1 e.2))) ∧
          ((∃ t ∈ a.st, t ≠ .got ∧ t ≠ .done) → s.ev.c ≠ 0 → ∀ p t, a.rest.pieces[s.ev.c - 1]? = some p → readOnePart s o k p = some t → land t)) ∧
        (∀ fn ty r wide t, mayPerform s o a = true → o.kind = .atomic fn ty (some r) wide → memAtom s o k a true = some t → land t))) ∧
  (∀ (s : State) (o : Op) (a : Access), Powered s → findOp s s.ev.a = some o → o.accs[s.ev.b]? = some a → a.isOpen = true → a.pad = false →
     (∀ t, mayPerform s o a = true → memAtom s o s.ev.b a false = some t → Happens .farAtomic s (if o.path == .ld then endIfRead o.oid t else t)) ∧
     (∀ p, o.kind = .store → a.pieces[s.ev.c]? = some p → isRemote s p = false → a.st[s.ev.c]? = some .todo →
       (let parts := partsWith s o s.ev.b s.ev.c p
        (lineBad s p.pa = false → parts = [(s.ev.b, s.ev.c)]) ∧
        ((∀ e ∈ parts, ∃ b q, o.accs[e.1]? = some b ∧ b.pieces[e.2]? = some q ∧ mayPerform s (o.without parts) (b.part q) = true) →
          (inFaulted s p.pa = false → Happens .homeStoreApply s (markParts o.oid .done parts (applyParts s o parts))) ∧
          (inFaulted s p.pa = true → Happens .homeStoreApply s
            (modOp o.oid (fun o => { o with accs := o.accs.map (fun b => if b.pieces.any (fun q => lineOf q.pa == lineOf p.pa) then { b with fkind := 2 } else b) })
              (markParts o.oid .done parts s))))))) ∧
  (∀ (s : State), Powered s →
     (∀ u, s.updates.find? (fun u => u.core == s.ev.b && lineOf u.pa == lineOf s.ev.c) = some u → u.oid = s.ev.a → u.pa = s.ev.c →
       Happens .sharerUpdate s (l1Apply { s with updates := s.updates.erase u } u)) ∧
     (∀ o, findOp s s.ev.a = some o → storeReady s o = true → Happens .storeComplete s (endOp o.oid s)))

/-- R187, R191, R194: L1_FILL fills the words that came of a line that a load of the core asked for; OWNERSHIP_RECALL takes exclusive
ownership back for another core's access, which counts towards a move of the line where that is an atomic (R192); DIRECTORY_REBUILD drops
the partition's copies and empties the entry, fatal where two
cores held the line.
R206 to R210, R277, R279, R280, R423: an invalidation joins those of its partition and completes once no access through its pages is
outstanding; DRAY_CFG invalidates the dray cache; an operation of the SV path completes with the walk's leaf or its cache action. -/
def Obligations.LinesAndTranslations : Prop :=
  (∀ (s : State), Powered s →
     (lineWanted s s.ev.a s.ev.b = true → updInFlight s s.ev.a s.ev.b = false → l1Takes s s.ev.b = true → inFaulted s (s.ev.b * 128) = false →
       Happens .l1Fill s (l1Fill (claimWords (recallOwner s s.ev.b (some s.ev.a)) s.ev.b (s.ev.c % 2 ^ 32)) s.ev.a s.ev.b (s.ev.c % 2 ^ 32))) ∧
     (∀ c o, (dirOf s s.ev.a).owner = some c → o ∈ s.ops → opCore s o ≠ c →
       (∃ a ∈ o.accs, a.isOpen = true ∧ ∃ p ∈ a.pieces, lineOf p.pa = s.ev.a) →
       (o.isAtomic = true → Happens .ownershipRecall s (recallFor s s.ev.a)) ∧
       ((∀ q ∈ s.ops, q.isAtomic = false) → Happens .ownershipRecall s (recallOwner s s.ev.a none))) ∧
     (∀ p, partOfLine s (s.ev.a * 128) = some p →
       (let s1 := if inHostWin s (s.ev.a * 128) then claimHalf s (s.ev.a * 128) 128 else s
        let s2 := setDir (l1Drop s1 s.ev.a (fun c => ownsCore (getPart s p) c)) s.ev.a {}
        Happens .directoryRebuild s (if 2 ≤ s.ev.xs.length then fatalOf 5 p (sliceUnit (lineSlice s s.ev.a)) (s.ev.a * 128) s2
           else rasLog 5 0 (some p) (sliceUnit (lineSlice s s.ev.a)) (s.ev.a * 128) s2)))) ∧
  (∀ (s : State), Powered s →
     ((getPart s s.ev.a).present = true → Happens .tlbInv s (tlbWrite s.ev.a s.ev.b none s)) ∧
     ((getPart s s.ev.a).present = true → Happens .drayCfg s (drayWriteCfg s.ev.a s.ev.b s)) ∧
     (∀ v oid rest, (getPart s s.ev.a).tlbInv = (v, oid) :: rest → tlbBusy s s.ev.a (tlbRange v) = false →
       (let s1 := modPart s.ev.a (fun p => { p with tlbInv := rest }) (tlbDrop s.ev.a (tlbRange v) s)
        Happens .tlbInvComplete s (match oid with | some i => endOp i s1 | none => s1))) ∧
     (∀ o, findOp s s.ev.a = some o → xfenceOk s o = true →
       (∀ d base, o.kind = .xlt d base → Happens .svOperationComplete s
         (endOp o.oid (modGroup o.gid (fun g => endReplay (putPend { g with xregs := minsert (d - 928) (xltReg s o base) g.xregs } d 0 false)) (walk s o.part base).2))) ∧
       (∀ fn rs inv, o.kind = .cache fn rs inv → (inv = true ∨ rangeBusy s o rs = false) →
         Happens .svOperationComplete s (endOp o.oid (cacheAct s o fn rs inv)))))

/-- R195, R196, R213, R367, R390: HOST_READ and HOST_WRITE act on the bytes at an address, forwarded as an evacuation has it, where a read that
meets a data error reports it (R200); in the host's cache only within the window and over a link whose mode allows it: elsewhere the model's choice is
that such an event cannot happen and answers the same state (log 2); the window's registers are written as R196 gives;
POOL_BACK_INVALIDATE drops every copy of a granule's line, which an agent of the pool may then write. -/
def Obligations.HostSide : Prop :=
  ∀ (s : State), Powered s →
    (let pa := hostAt s s.ev.a
     hostSpan s.ev.a s.ev.b = true →
      ((hostHas s pa).isSome = true → (s.ev.flag = false ∨ hostCaches s s.ev.a = true) → Happens .hostRead s s) ∧
      (hostHas s pa = none →
        (let t := l2Mend (recallOwner s (lineOf pa) none) (lineOf pa)
         ((s.ev.flag = false ∨ hostCaches s s.ev.a = true) → lineBad t pa = true →
           Happens .hostRead s (lineError (partOfLine t pa) (pa / 128 * 128) t)) ∧
         (lineBad t pa = false → (s.ev.flag = false → Happens .hostRead s t) ∧
           (s.ev.flag = true → hostCaches s s.ev.a = true → Happens .hostRead s (hostTake pa none t))))) ∧
      (s.ev.flag = true → hostCaches s s.ev.a = false → exec .hostRead s = .next s ∧ exec .hostWrite s = .next s) ∧
      (inReserved s.ev.a = false → s.ev.flag = false → Happens .hostWrite s (deviceWrite pa s.ev.b s.ev.c s)) ∧
      (inReserved s.ev.a = false → s.ev.flag = true → hostCaches s s.ev.a = true → (lineBad s pa = false ∨ (hostHas s pa).isSome = true) →
        (let t := recallOwner s (lineOf pa) none
         let old := (hostHas t pa).getD (memGet t (pa / 64 * 64) 64)
         Happens .hostWrite s (hostTake pa (some (putBytes old (pa % 64) s.ev.b s.ev.c)) t)))) ∧
    (linkMode s (s.ev.who.getD 0) < 2 → hostCaches s s.ev.a = false) ∧
    Happens .hostWinbase s (writeWinBase s.ev.a s) ∧
    (bit s.hostWinBase 0 = false → Happens .hostWinsize s { s with hostWinSize := s.ev.a % 2 ^ 22 }) ∧
    (∀ r, paKind s (s.ev.a / 64 * 64) = .pooled r →
      (let g := s.ev.a / 64 * 64
       let line := lineOf g
       let s1 := spoilFills (drayClear (l1Drop (recallOwner (poolNote s g) line none) line (fun _ => true)) (fun _ l => l == line)) (fun l => l == line) none
       let s2 : State := { s1 with pool := { s1.pool with dirty := merase line s1.pool.dirty } }
       Happens .poolBackInvalidate s (if s.ev.flag then forgetPast (memSet s2 g 64 s.ev.b) ((List.range 64).map (fun i => g + i)) else s2)))

/-- R178 to R183: a request to LS_BANKCTL with GO switches or gates a bank as the register says; the bank's switch and its wake end; an
L2 way is gated and woken. -/
def Obligations.BanksAndWays : Prop :=
  ∀ (s : State), Powered s →
    (let bk := getBank (getCore s s.ev.a) s.ev.b
     let v := waysOf s s.ev.a
     (bit s.ev.b 9 = true → coreOwned s s.ev.a = true →
       (bit s.ev.b 7 = false → Happens .lsBankSwitch s (bankWrite s.ev.a s.ev.b s)) ∧
       (bit s.ev.b 7 = true → Happens .lsBankGate s (bankWrite s.ev.a s.ev.b s))) ∧
     (bk.state = 1 → bk.target ≠ 4 → Happens .lsBankSwitchDone s (modBank s.ev.a s.ev.b (fun b => { b with state := if b.target = 4 then 3 else 2 }) s)) ∧
     (bk.state = 1 → bk.target = 4 →
       Happens .lsBankSwitchDone s (endBankOps s.ev.a s.ev.b (modBank s.ev.a s.ev.b (fun b => { b with state := if b.target = 4 then 3 else 2 }) s))) ∧
     (bk.state = 2 → Happens .lsBankWakeDone s (endBankOps s.ev.a s.ev.b (modBank s.ev.a s.ev.b (fun b => { b with state := 0 }) s))) ∧
     (s.ev.b < 16 → sliceOwned s s.ev.a = true →
       (bit v s.ev.b = true → bit v (16 + s.ev.b) = true → bit v (32 + s.ev.b) = false →
         Happens .l2WayGate s (setWays s.ev.a (v - 2 ^ s.ev.b - 2 ^ (16 + s.ev.b) + 2 ^ (32 + s.ev.b)) s)) ∧
       (bit v s.ev.b = false → Happens .l2WayWake s (setWays s.ev.a (v + 2 ^ s.ev.b) s))) ∧
     (s.ev.b < 16 → bit v (32 + s.ev.b) = true → Happens .l2WayGateDone s (setWays s.ev.a (v - 2 ^ (32 + s.ev.b)) s)) ∧
     (s.ev.b < 16 → bit v s.ev.b = true → bit v (16 + s.ev.b) = false → bit v (32 + s.ev.b) = false →
       Happens .l2WayWakeDone s (setWays s.ev.a (v + 2 ^ (16 + s.ev.b)) s)))

/-- R7, R22, R24, R26, R27, R136, R139: the events of groups: a group whose lanes have all exited and whose operations are complete
retires; RALLOC is granted, where that leaves the cooperative blocks of a shrink their room (R388, log 70), RFREE returned; waits of YIELD
and TWAIT end; a ready group enters its active set; a growth deadlock spills a block. -/
def Obligations.GroupEvents : Prop :=
  ∀ (s : State) (g : Group) (b : Block), Powered s →
    (mfind s.ev.a s.groups = some g →
      (∀ t, g.wait = .yield t → t + 16 ≤ slotTime s g → Happens .yieldExpire s (setGroup { g with wait := .none } s)) ∧
      (∀ t, g.wait = .twait t → t ≤ s.ptp.ns % 2 ^ 64 → Happens .twaitResume s (setGroup { g with wait := .none } s)) ∧
      (mfind g.bid s.blocks = some b →
        (∀ t, g.wait = .rfree t → isResident b = true → (∀ e ∈ g.pend, ¬ (32 * t * 96 ≤ e.1 ∧ e.1 < 768 * 96)) →
          (let back := regsKept s g != regsKept s { g with k := t }
           Happens .rfreeReturn s (notePre (partOf s g)
             (modCore b.core (fun c => if back then { c with lastReturn := s.cycle } else c) (setGroup { setAlloc t g with wait := .none } s))))) ∧
        (g.retired = false → hasLive g = false → (∀ o ∈ s.ops, o.gid ≠ g.gid) →
          (let s1 := setGroup { g with retired := true, trigq := [], active := false, wait := .none } (retireRelease s g b.grid)
           let s2 := if isResident b then modCore b.core (fun c => { c with lastReturn := s.cycle }) s1 else s1
           Happens .groupRetire s (settleResize 4 (partOf s g) (notePre (partOf s g) (settleBlock g.bid s2))))) ∧
        (g.active = false → (nextIssue s g).isSome = true → (activeReady s b.core g.slot).length < 4 →
          ∃ t, Happens .activeSetEntry s t ∧ { t with groups := s.groups } = s ∧ t.groups.length = s.groups.length ∧
            (∀ h ∈ t.groups, h.1 = g.gid → h.2.active = true)))) ∧
    (∀ t, oldestWaiter s s.ev.a = some (g, t) →
      (t - g.k ≤ freeRegs s s.ev.a →
        (coopMoves s (partOf s g) = [] ∨ roomFor s (partOf s g) [(s.ev.a, { blocks := 0, regs := t - g.k })] (coopMoves s (partOf s g)) = true) →
        Happens .rallocGrant s (settleResize 4 (partOf s g) (notePre (partOf s g)
          (setGroup { setAlloc t g with wait := .none } (modCore s.ev.a (fun c => { c with waiters := c.waiters.drop 1 }) s))))) ∧
      (freeRegs s s.ev.a < t - g.k → (getCore s s.ev.a).lastReturn + 16384 ≤ s.cycle →
        (∀ r ∈ residents s s.ev.a, r.place ≠ .draining .spill) → spillBlock s s.ev.a = some b →
        Happens .growthDeadlockSpill s (setBlock { b with place := .draining .spill } s)))

/-- R20, R33, R37 to R43, R385: blocks are placed, saved once no operation of theirs is left but the NT path's and fences, which no counter
holds, and restored as the distributor
chooses; during a shunt a block on a leaving core begins to drain once no other block of that core is on its way (R388). -/
def Obligations.BlockEvents : Prop :=
  ∀ (s : State) (b : Block), Powered s →
    (∀ gid core gr, distNext s s.ev.a = .place gid core → getGrid s gid = some gr →
      Happens .blockPlace s (settleResize 4 s.ev.a (notePre s.ev.a (passTurn s.ev.a gr.queue s (placeBlock s gid core))))) ∧
    (mfind s.ev.a s.blocks = some b →
      (let part := ((getGrid s b.grid).map (fun g => g.part)).getD 0
       (∀ why, b.place = .draining why → (∀ o ∈ s.ops, o.bid = b.bid → o.path = .nt ∨ o.isFence = true) →
         (let s1 := modCore b.core (fun c => { c with lastReturn := s.cycle, waiters := c.waiters.filter (fun w => !b.groups.contains w.1) }) s
          let s2 := setBlock { b with place := .saved why, padPages := [] } s1
          let s3 := { s2 with groups := s2.groups.map (fun e => if b.groups.contains e.1 then (e.1, { e.2 with active := false }) else e) }
          let s4 := modPart part (fun p => { p with restores := if why != .join || b.kids == 0 then p.restores ++ [b.bid] else p.restores }) s3
          Happens .blockSave s (settleResize 4 part (notePre part s4)))) ∧
       (∀ core, nextRestore s part = some (b.bid, core) → (getPart s part).fatal = false →
         Happens .blockRestore s (settleResize 4 part (notePre part (restoreBlock s b core)))) ∧
       ((getPart s part).state = 3 → coreLeaves (getPart s part) b.core = true → b.place = .resident →
         moving s part b.core = false → Happens .shuntMove s (setBlock { b with place := .draining .shunt } s))))

/-- R285 to R300, R323, R364: the haul engine's operations complete, or end in the fault they met (R287); HREM's signal is made ready once
its data has arrived; GATH and SCAT perform their elements; HTRIG's operation starts, as an acquire, once the test of its trigger has
held; WSEND and WRECV complete; HSIG writes its value, after its own release, or ends faulted where its region no longer serves it. -/
def Obligations.EngineEvents : Prop :=
  ∀ (s : State), Powered s →
    (∀ o b, Outstanding s s.ev.a o b →
      (isHaul o = true → engineHeld s o = false → dataDone s o b = true → (haulTrouble s o b).1 = none →
        ((hremFn o = 0 ∨ ∃ a ∈ o.accs, a.act = 3) →
          (let t := (haulTrouble s o b).2
           let p := planOf t o
           Happens .haulOpComplete s (endHaul o ((opDesc o).getD (descOf [])) (if movesNothing o then t else performPlan p.2 o b p.1 false)))) ∧
        (∀ ws fn val ps t, o.kind = .hrem ws fn val → fn ≠ 0 → (∀ a ∈ o.accs, a.act ≠ 3) → signalAt s o = (.ok ps, t) →
          Happens .hremSignal s (modOp o.oid (fun o => { o with accs := o.accs ++
            [{ act := 3, lane := 0, va := (opDesc o).elim 0 (fun d => d.aux), n := 8, pieces := ps, st := ps.map (fun _ => .todo), data := val }] }) t))) ∧
      (isGather o = true → engineHeld s o = false → farOpen s o = false → (∀ a ∈ o.accs, elemFault s o b a = none) →
        Happens .gathScatComplete s (endOp o.oid (performElems s o false))) ∧
      (∀ f, engineHeld s o = false → isHaul o = true → (haulTrouble s o b).1 = some f →
        (let p := planOf (haulTrouble s o b).2 o
         Happens .haulOpFault s (endFaulted o f (if movesNothing o then p.2 else performPlan p.2 o b p.1 true)))) ∧
      (∀ f, engineHeld s o = false → isGather o = true → o.accs.findSome? (elemFault s o b) = some f →
        Happens .haulOpFault s (endFaulted o f (performElems s o true))) ∧
      (o.kind = .wsend →
        (o.isOpen = false → (∀ a ∈ o.accs, a.fkind = 0) → Happens .ntOpComplete s (endOp o.oid s)) ∧
        (∀ f, wagonTrouble s o = some f → Happens .haulOpFault s (endOp o.oid (recordFault o f { s with fresh := s.fresh + 1 })))) ∧
      (∀ d taken bad, o.kind = .wrecv d taken bad → engineHeld s o = false → Happens .ntOpComplete s (endOp o.oid (landTaken o d taken bad s))) ∧
      (∀ fn val a p, o.kind = .hsig fn val → o.accs.head? = some a → a.pieces.head? = some p →
        (isFar s p = true → o.isOpen = false → a.fkind = 0 → Happens .ntOpComplete s (endOp o.oid s)) ∧
        (isFar s p = false → engineHeld s o = false → inFaulted s p.pa = false →
          (let s1 := opRelease s o
           let t := signalHere s1 o p fn val
           Happens .ntOpComplete s (endOp o.oid (noteWrite s1 { t with past := s1.past, relAt := s1.relAt } o 0 (p.kind == .un) (fn != 0) p.pa
             ((List.range 8).map (fun i => memByte t (p.pa + i))))))) ∧
        (engineHeld s o = false → (∀ f, sigFault s o = some f → Happens .haulOpFault s (endFaulted o (f, none) s)) ∧
          (a.pieces = [p] → a.fkind = 0 → inFaulted s p.pa = true → o.accs = [a] → sigFault s o = some (2, (a.va + p.off) % 2 ^ 64))))) ∧
    (∀ g e rest b, mfind s.ev.a s.groups = some g → g.trigq = e :: rest → getBlock s g.bid = some b → b.place = .resident → e.met = true →
      getCnt g .hl < 255 → g.retired = false →
      Happens .htrigFire s (trigNote g.bid (addOp (setGroup { g with trigq := rest } s)
         { oid := 0, gid := g.gid, bid := g.bid, part := partOf s g, seq := e.seq, path := .hl, pc := e.pc
           kind := .haul 0 e.desc e.fn e.ty 0, service := e.service, fenced := e.fenced
           toks := e.toks.filter (fun t => encloses t.scope t.seat (seatOf s g.gid) && encloses 1 (seatOf s g.gid) t.seat) })))

/-- R304 to R310, R317, R322: MLOOP accumulates step by step and completes; a tile operation and a ray or texel operation complete with
their results in tiles, pad or registers. What an engine reads of pad, writes of other paths may not have reached (R241, log 14). -/
def Obligations.MatrixAndRender : Prop :=
  ∀ (s : State) (o : Op), Powered s →
    (∀ b, Outstanding s s.ev.a o b → tileHeld s o = false →
      (∀ t wa wb wc c h, o.kind = .mloop t wa wb wc c h → isHalted o b = false →
        (c < (stepOf wc).ksteps →
          (let v := padView s o b (mloopExtents (fbOf wa) (fbOf wb) (stepOf wc) c)
           let r := mloopStep v.1 t wa wb wc c
           Happens .mloopKstep s (reportPad (modOp o.oid (fun o => { o with kind := .mloop t wa wb wc (c + 1) (mstepActs s b) })
             (setBlock { r.1 with pad := b.pad } v.2)) o b r.2)) ∧
          (s.past = [] → padView s o b (mloopExtents (fbOf wa) (fbOf wb) (stepOf wc) c) = (b, s))) ∧
        ((stepOf wc).ksteps ≤ c → Happens .mloopComplete s (endOp o.oid s))) ∧
      (∀ k t a e fn ty rnd sat vals, o.kind = .tileOp k t a e fn ty rnd sat vals → Happens .tileOpComplete s (endOp o.oid (tileDo s o b)))) ∧
    (findOp s s.ev.a = some o → o.isOpen = false → engineHeld s o = false → renderNeeds (renderLanes s o).1 = [] →
      (∀ fn d root rays, o.kind = .rtrav fn d root rays →
        Happens .rtravComplete s (endOp o.oid (landRender o d 8 (renderLanes s o).1 (renderLanes s o).2))) ∧
      (∀ d surf uv, o.kind = .texf d surf uv → Happens .texfComplete s (endOp o.oid (landRender o d 4 (renderLanes s o).1 (renderLanes s o).2))))

/-- R345 to R349, R295, R324, R325: a request of a peer is performed at its home for the partition of its fabric domain and answered; one
with no such partition is refused and counted; a wagon lands in its bay, a credit with its channel. A port that is down carries nothing
(R348).
R269, R347, R349, R351: the answer to a request frees its tag and brings its bytes, its old values or its completion to the operation
that waits for it; a refusal, or a data error at the home, ends the parts that it answers. The places of a request's values in the packet's
operand word and its old
values by lane are the model's layout (log 20). -/
def Obligations.RequestsAndAnswers : Prop :=
  (∀ (s : State), Powered s →
     (let p := s.ev.p
      (∀ k i a, (k, i, a) ∈ [(0, Instr.read, 1), (2, Instr.write, 5), (3, Instr.atomicReq, if bit p.opnd 9 then 4 else 5), (6, Instr.signal, 5)] →
        (Arrives s k → targetPart s p = none → Happens i s (refuse s p a)) ∧ (bit s.fab.ports p.port = false → exec i s = .next s)) ∧
      (∀ q, targetPart s p = some q →
        (let at_ := homePa s q (p.offset / 128 * 128)
         let r := homeRead (recallOwner s (lineOf at_) none) at_ 128
         (Arrives s 0 → ∀ v, r.1 = some v →
           Happens .read s (answer r.2 p 1 ((packetBytes { p with data := v }).foldl (fun d e => putBytes d e.1 1 e.2) 0) false 0)) ∧
         (Arrives s 0 → r.1 = none → Happens .read s (answer (lineError (some q) at_ r.2) p 1 0 true 3)) ∧
         (Arrives s 2 → Happens .write s (answer (lineWrite s q (lineOf (homePa s q p.offset)) (packetBytes p) false) p 5 0 false 0)) ∧
         (Arrives s 3 → ∀ v, r.1 = some v →
           (let w := atomRun p v
            let bs := ((List.range 128).filter (fun i => bits v (8 * i) 8 != bits w.1 (8 * i) 8)).map (fun i => (i, bits w.1 (8 * i) 8))
            let s1 := if bs.isEmpty then r.2 else lineWrite r.2 q (lineOf at_) bs false
            (bit p.opnd 9 = true → Happens .atomicReq s (queuePackets [{ reply s p 4 v false 0 with lanes := w.2 }] s1)) ∧
            (bit p.opnd 9 = false → Happens .atomicReq s (queuePackets [reply s p 5 0 false 0] s1)))) ∧
         (Arrives s 3 → r.1 = none → Happens .atomicReq s (answer (lineError (some q) at_ r.2) p (if bit p.opnd 9 then 4 else 5) 0 true 3)) ∧
         (Arrives s 6 →
           (let op : Op := { oid := 0, gid := 2 ^ 64, bid := 0, part := q, seq := 0, path := .nt, pc := 0, kind := .done }
            Happens .signal s (answer (signalHere s op { pa := at_ + (lowBit 128 0 p.mask).log2, n := 8, off := 0, kind := .rc }
              (bits p.opnd 64 1) (bits p.opnd 0 64)) p 5 0 false 0))))) ∧
      (Arrives s 7 → ∀ q, wagonOwner s p.fdom none (bits p.opnd 0 6) = some q →
        Happens .wagon s (answer (landWagon q (bits p.opnd 0 6) (bits p.data 0 512) p.src [] s) p 5 0 false 0)) ∧
      (Arrives s 8 → Happens .credit s (if bit p.opnd 32 then returnArrives (bits p.opnd 0 6) (bits p.opnd 16 16) s
        else creditArrives p.src (bits p.opnd 0 6) (bits p.opnd 16 16) s)))) ∧
  (∀ (s : State) (o : Op) (oid key line : Nat), Powered s →
     (let p := s.ev.p
      mfind p.tag s.fab.tags = some (oid, key, line) → p.echo = false → findOp (tookTag s) oid = some o →
        (let ps := tagParts o key line
         (p.refused = false →
           (Arrives s 1 → Happens .readData s (bringParts o line p.data (p.mask == 2 ^ 128 - 1) ps (tookTag s))) ∧
           (Arrives s 4 → Happens .atomicData s (endIfRead o.oid (((List.range ps.length).zip ps).foldl (fun t e =>
             match (o.accs[e.2.1]?).bind (fun a => a.pieces[e.2.2]?) with
             | some q => landAtom t o e.2.1 (match p.lanes[e.1]? with | some l => l.2.1 % 2 ^ (8 * q.n) | none => bits p.data (8 * (q.pa % 128)) (8 * q.n)) 0 0 false
             | none => t) (tookTag s)))) ∧
           (Arrives s 5 → (mfind p.tag s.fab.mcWait).isSome = false → Happens .acknowledgement s (markParts o.oid .done ps (tookTag s)))) ∧
         (p.refused = true → ∀ k i, (k, i) ∈ [(1, Instr.readData), (4, Instr.atomicData), (5, Instr.acknowledgement)] → Arrives s k →
           (k = 5 → (mfind p.tag s.fab.mcWait).isSome = false) →
           Happens i s (if p.reason = 3 then partsLost o 3 false ps (tookTag s) else refusedHere o ps (tookTag s))))))

/-- R354 to R357, R351: a multicast copy is written at the member it names and forwarded along its tree, or turned away; a member below that
cannot be reached is missed with its subtree (REASON 2); a copy that a switch drops and a branch's NACK count against the line; the rate of
a class towards a package rises. A member with no entry for the line, or with one of another domain, answers REASON 3, one whose range no partition of
the domain owns or does not hold the line REASON 1. The places of a NACK's values in the packet's operand word are the model's layout (log 20). -/
def Obligations.MulticastEvents : Prop :=
  ∀ (s : State), Powered s →
    (let p := s.ev.p
     (Arrives s 9 → mcEntry s p.group = none → Happens .multicastWrite s (queuePackets [nackPacket p s.pkg (p.tree.length + 1) 3] s)) ∧
     (Arrives s 9 → ∀ e, mcEntry s p.group = some e →
       (p.fdom = 0 ∨ e.fdom ≠ p.fdom → Happens .multicastWrite s (queuePackets [nackPacket p s.pkg (p.tree.length + 1) 3] s)) ∧
       (p.fdom ≠ 0 → e.fdom = p.fdom →
         (s.parts.find? (fun q => q.2.fdom == p.fdom && decide (e.lsize ≠ 0) && ownsRange q.2 e.lbase e.lsize) = none ∨ e.lsize < p.offset / 128 * 128 + 128) →
         Happens .multicastWrite s (queuePackets [nackPacket p s.pkg (p.tree.length + 1) 1] s))) ∧
     (Arrives s 9 → ∀ e q, mcEntry s p.group = some e → p.fdom ≠ 0 → e.fdom = p.fdom →
       s.parts.find? (fun q => q.2.fdom == p.fdom && decide (e.lsize ≠ 0) && ownsRange q.2 e.lbase e.lsize) = some q →
       p.offset / 128 * 128 + 128 ≤ e.lsize →
       Happens .multicastWrite s (queuePackets
         ((mcCopies p 33 p.tree).map (fun (c : Packet) => if cutOff s c.dst then nackPacket p c.dst (c.tree.length + 1) 2 else c))
         (answer (lineWrite s q.1 (lineOf (homePa s q.1 (e.lbase + p.offset))) (packetBytes p) false) p 5 0 false 0))) ∧
     (Arrives s 10 → Happens .branchNack s (mcAnswer p.tag (bits p.opnd 0 9) (bits p.opnd 16 6)
       (nackLog p.group (bits p.opnd 0 9) (bits p.opnd 16 6) p.reason p.offset s))) ∧
     (∀ c, s.fab.outbox[s.ev.a]? = some c → c.kind = 9 →
       (let s1 : State := { s with fab := { s.fab with outbox := s.fab.outbox.eraseIdx s.ev.a } }
        (c.src ≠ s.pkg → Happens .multicastCopyDrop s (queuePackets [nackPacket c c.dst (c.tree.length + 1) 0] s1)) ∧
        (c.src = s.pkg → Happens .multicastCopyDrop s
          (mcAnswer c.tag c.dst (c.tree.length + 1) (nackLog c.group c.dst (c.tree.length + 1) 0 c.offset s1))))) ∧
     (rateOf s s.ev.a s.ev.b < 256 → s.ev.b < 4 → mfind (2 * (s.ev.a * 4 + s.ev.b)) s.fab.marks = none →
       Happens .rateIncrease s { s with fab := { s.fab with
         rates := cset 256 (s.ev.a * 4 + s.ev.b) (min (rateOf s s.ev.a s.ev.b + 4) 256) s.fab.rates
         marks := minsert (2 * (s.ev.a * 4 + s.ev.b)) s.cycle s.fab.marks } }))

/-- R345, R346, R348, R352: FAB_MEMBERS is written and the packages that leave are fenced; a package that no up port has reached for 1 ms
becomes unreachable, of which the fabric manager is told, and is fenced; a port, or one at the far side of a switch, goes down or
comes up, by which packages are reached again (packets that wait at the source: log 67); FAB_CLASS takes reservations up to 48 slots and
ignores more.
R213, R361 to R366: a link that trains is up, or held down when it trained at too low a level; a lost or timed-out link faults its regions;
POOL_RSYNC takes a region's table entry, and a region that leaves ONLINE loses its copies. -/
def Obligations.FabricAndPool : Prop :=
  (∀ (s : State), Powered s →
     (s.ev.a < 8 →
       (let old := cget 0 s.ev.a s.fab.members
        let v := s.ev.b % 2 ^ 64
        Happens .fabMembers s (((List.range 64).filter (fun i => bit old i && !bit v i)).foldl (fun t i => fencePkg (64 * s.ev.a + i) t)
          { s with fab := { s.fab with members := cset 0 s.ev.a v s.fab.members } }))) ∧
     (s.ev.a < 512 → s.ev.a ≠ s.pkg → bit s.fab.unreach s.ev.a = false →
       (∀ p, p < 64 → ∃ t, lostSince s p s.ev.a = some t ∧ t + usCycles s 1000 ≤ s.cycle) →
       Happens .peerUnreachable s (fencePkg s.ev.a { s with fab := { s.fab with unreach := s.fab.unreach ||| 2 ^ s.ev.a, told := s.fab.told ++ [s.ev.a] } })) ∧
     (s.ev.a < 64 → s.ev.b < 512 →
       (let k := s.ev.a * 512 + s.ev.b
        (s.ev.flag = false →
          (bit s.fab.ports s.ev.a = true → Happens .ngaubPortDown s (requeue (fun p => p.port == s.ev.a)
            { s with fab := { s.fab with ports := s.fab.ports - 2 ^ s.ev.a, portAt := minsert s.ev.a s.cycle s.fab.portAt } })) ∧
          (bit s.fab.ports s.ev.a = false → Happens .ngaubPortUp s (reachAgain { s with fab := { s.fab with ports := s.fab.ports + 2 ^ s.ev.a } }))) ∧
        (s.ev.flag = true →
          (mfind k s.fab.cut = none → Happens .ngaubPortDown s (requeue (fun p => p.port == s.ev.a && p.dst == s.ev.b)
            { s with fab := { s.fab with cut := minsert k s.cycle s.fab.cut } })) ∧
          (∀ t, mfind k s.fab.cut = some t → Happens .ngaubPortUp s (reachAgain { s with fab := { s.fab with cut := merase k s.fab.cut } }))))) ∧
     (∀ q, q < 512 → (bit (reachAgain s).fab.unreach q = true ↔ bit s.fab.unreach q = true ∧ upPorts s q = [])) ∧
     (let v := s.ev.a % 2 ^ 18
      let slots := bits v 0 6 + bits v 6 6 + bits v 12 6
      (slots ≤ 48 → Happens .fabClass s { s with fab := { s.fab with class_ := v } }) ∧ (48 < slots → Happens .fabClass s s))) ∧
  (∀ (s : State), Powered s →
     (let v := s.pool.fstat
      (s.ev.a < 4 → bit v s.ev.a = false →
        Happens .poolLinkTrained s { s with pool := { s.pool with fstat :=
          if s.ev.flag then v ||| 2 ^ (8 + s.ev.a) else (if bit v (8 + s.ev.a) then v - 2 ^ (8 + s.ev.a) else v) ||| 2 ^ s.ev.a } }) ∧
      (s.ev.a < bits s.pool.rtab 0 20 →
        (let s1 := takeRegion s.ev.a s
         (regionState s s.ev.a ≠ 1 ∨ regionState s1 s.ev.a = 1 → Happens .poolRsync s s1) ∧
         (regionState s s.ev.a = 1 → regionState s1 s.ev.a ≠ 1 →
           (let t := dropRegions { s1 with pool := s.pool } [s.ev.a]
            Happens .poolRsync s { t with pool := { t.pool with entries := s1.pool.entries } })))) ∧
      (∀ t, onLinkLoss s = some t → Happens .poolLinkLost s t ∧ Happens .poolLinkDownTimeout s t ∧
        (linkServes s s.ev.a = true → Happens .poolRequestTimeout s t))))

/-- R335 to R344, R370, R371: a Landau job starts when its partition has its turn at the compositor (log 72), and one that messages of another
kind of job have reached ends in a mismatch; a message joins the oldest job of its JobID in the partition that serves its PIDonFEP; a job
that waits too long, or whose link fails, ends with its error; a collective takes a child's half of its CTAG into pad, and ends with the
sums in its tile; PID is written.
R373 to R376: an offset measured between the Sync's arrival, its origin and the delay of the link steps the clock where it is beyond 1 µs
and slews it otherwise, and locks it after 16 good ones in a row; under peer-to-peer a request for the delay is answered on every port;
losing Sync unlocks the clock, which holds its frequency; PTP_CFG unlocks it when it changes the port, the domain or the mechanism. That
messages pair by being the latest is the model's (log 6), as are what a message carries beside R370's fields (log 23) and which quarter of
the staging a
child's half takes (log 24); sums of a staging area that the block reached are free words (log 22). -/
def Obligations.NetworkAndClock : Prop :=
  (∀ (s : State), Powered s →
     (∀ j o, jobTurn s = some s.ev.a → nextJob s s.ev.a = some (o, j) →
       (let s1 := modJob o.part j.handle (fun j => { j with phase := 1, since := s.cycle }) { s with compTurn := (s.ev.a + 1) % 40 }
        ((∀ m ∈ j.got, mismatched (jobRec j.record) m = false) → Happens .landauJobStart s s1) ∧
        ((∃ m ∈ j.got, mismatched (jobRec j.record) m = true) → Happens .landauJobStart s (endJob o j 1 s1)))) ∧
     (∀ part j, servesPid s s.ev.m.pid = some part →
       (getPart s part).jobs.find? (fun j => !j.ended && (jobRec j.record).jtag % 2 ^ 24 == s.ev.m.jobId) = some j → s.ev.m.dst = (jobRec j.record).rank →
       (j.running = false ∨ mismatched (jobRec j.record) s.ev.m = false →
         Happens .uetMessage s (modJob part j.handle (fun j => { j with got := j.got ++ [s.ev.m] }) s)) ∧
       (j.running = true → mismatched (jobRec j.record) s.ev.m = true → ∀ o, findOp s j.oid = some o → Happens .uetMessage s (endJob o j 1 s))) ∧
     (∀ o j, runningJob s s.ev.a = some (o, j) →
       Happens .uetLinkError s (endJob o j 3 s) ∧
       (j.phase = 2 → j.begun = true → waited250ms s j.since = true → Happens .landauTimeout s (endJob o j 2 s))) ∧
     (∀ o b t fn obj ws ranks got up, Outstanding s s.ev.a o b → o.kind = .coll t fn obj ws ranks got up → tileHeld s o = false →
       ranks[(collRec ws).me]? = some s.pkg →
       (lacksChild s.ev.b o = true → s.ev.c = (collRec ws).tag → collAhead s o (lacksChild s.ev.b) = false → s.ev.xs.length = 4608 →
         (let xs := s.ev.xs.map (fun w => w % 2 ^ 32)
          Happens .collChildArrive s (modOp o.oid (fun o => { o with kind := .coll t fn obj ws ranks (minsert s.ev.b xs got) up })
            (trigNote o.bid (modBlock o.bid (padPut (quarterAt (collRec ws) s.ev.b) 18432 (wordsNum xs)) s))))) ∧
       (∀ xs ys, mfind 0 up = some xs → mfind 1 up = some ys → collParent (collRec ws).n 0 (collRec ws).me = none →
         collParent (collRec ws).n 1 (collRec ws).me = none → collAhead s o (fun _ => true) = false →
         coveredDone s o.gid o.seq 1 (opCore s o) = true →
         (let r := collRec ws
          let w := unlessTouched o (xs ++ ys) s
          let b1 := ((List.range 9216).zip w.1).foldl (fun (c : Block) e => { c with tiles := cset 0 (t * 9216 + e.1) (BitVec.ofNat 32 e.2) c.tiles }) b
          let down := [(0, w.1.take 4608), (1, w.1.drop 4608)].flatMap (fun e => [0, 1].filterMap (fun side =>
            (collChild r.n e.1 r.me side).map (fun c => (r.tag, ranks.getD c 0, 2 + e.1, e.2))))
          Happens .collComplete s (collEnd o obj { setBlock b1 w.2 with fab := { w.2.fab with collOut := w.2.fab.collOut ++ down } }) ∧
          (o.poisoned = false → w = (xs ++ ys, s))))) ∧
     ((getPart s s.ev.a).present = true → Happens .landauPid s (writePid s.ev.a s.ev.b s))) ∧
  (∀ (s : State), Powered s →
     (let m := s.ev.t
      let c := s.ptp.cfg
      let x := s.ptp.exch
      let s1 : State := { s with ptp := { s.ptp with exch := { x with stamps := minsert (m.port * 2) s.ptp.ns x.stamps } } }
      (m.port < 8 → m.kind = 4 → bit c 4 = true → Happens .ptpEventMessage s
        (ptpSend { port := m.port, domain := m.domain, kind := 5, time := s.ptp.ns, time2 := s.ptp.ns, corr := m.corr } s1)) ∧
      (m.port < 8 → bit c 0 = true → m.port = bits c 1 3 → m.domain = bits c 5 8 →
        (m.kind = 0 → m.two = false → Happens .ptpEventMessage s (ptpSynced
          { s with ptp := { s.ptp with exch := { s1.ptp.exch with syncAt := some (s.ptp.ns, m.corr), origin := none } } } s.ptp.ns (m.time + m.corr))) ∧
        (∀ t2 cr t1 t3, m.kind = 3 → x.syncAt = some (t2, cr) → x.origin = some t1 → x.reqAt = some t3 →
          Happens .ptpEventMessage s (ptpMeasure { s with ptp := { s.ptp with exch := { x with syncAt := none, origin := none, reqAt := none } } }
            (t2 - t1 - (((t2 : Int) - t1) + (m.time - t3) - m.corr) / 2)))) ∧
      (∀ off : Int, 1000 < off.natAbs →
        (ptpMeasure s off).ptp.ns = ((s.ptp.ns : Int) - off).toNat ∧ (ptpMeasure s off).ptp.good = 0 ∧ bit (ptpMeasure s off).ptp.stat 0 = false) ∧
      (∀ off : Int, off.natAbs ≤ 1000 →
        (ptpMeasure s off).ptp.ns = s.ptp.ns ∧ (ptpMeasure s off).ptp.servo.slew = -off ∧ (ptpMeasure s off).ptp.servo.held = false) ∧
      (∀ off : Int, off.natAbs ≤ 20 → (ptpMeasure s off).ptp.good = min 16 (s.ptp.good + 1) ∧
        (bit (ptpMeasure s off).ptp.stat 0 = true ↔ 15 ≤ s.ptp.good)) ∧
      (bit c 0 = true → Happens .ptpSyncLoss s
        { s with ptp := { s.ptp with stat := s.ptp.stat / 2 * 2, good := 0, servo := { s.ptp.servo with held := true } } }) ∧
      (let v := s.ev.a % 2 ^ 13
       let servo : Servo := if bit v 0 then s.ptp.servo else { draws := s.ptp.servo.draws }
       (v / 2 = c / 2 → bit v 0 = true →
         Happens .ptpCfg s { s with ptp := { s.ptp with cfg := v, stat := s.ptp.stat / 16 * 16 + bits v 1 3 * 2 + s.ptp.stat % 2, servo := servo } }) ∧
       (v / 2 ≠ c / 2 ∨ bit v 0 = false →
         Happens .ptpCfg s { s with ptp := { s.ptp with cfg := v, stat := s.ptp.stat / 16 * 16 + bits v 1 3 * 2, good := 0, servo := servo
                                                        exch := { stamps := x.stamps } } }))))

/-- R379, R394 to R398, R400 to R405: the doorbell and the configuration of a queue are written; the distributor starts the next record or
replay; a TOKEN record fires; a token is signalled (R400 to R402); a ready node of a replay starts.
That a queue goes on only when none of its grids has an unplaced block, and that a replay with a refused node fails, is the model's (log 49). -/
def Obligations.QueueEvents : Prop :=
  ∀ (s : State), Powered s →
    ((getPart s s.ev.a).present = true → s.ev.b < 64 →
      Happens .queueTail s (writeTail s.ev.a s.ev.b s.ev.c (s.ev.who.getD 0) s) ∧ Happens .queueCfg s (writeQueueCfg s.ev.a s.ev.b s.ev.c s)) ∧
    ((getPart s s.ev.a).present = true → s.ev.b < 256 → Happens .tokSignal s (signalToken s.ev.a s.ev.b [] s)) ∧
    (∀ t, distNext s s.ev.a = .start s.ev.b false t → Happens .recordStart s (notePre s.ev.a (passTurn s.ev.a s.ev.b s t))) ∧
    (∀ t, distNext s s.ev.a = .start s.ev.b true t → Happens .graphReplayStart s (notePre s.ev.a t)) ∧
    (∀ pa r, headOf s s.ev.a s.ev.b = some (pa, some r) → r.token = true → r.bad = false → waitHolds s s.ev.a r = true → r.params ≤ s.ptp.ns →
      queueGrid s s.ev.a s.ev.b = none →
      Happens .tokenRecordFire s (signalToken s.ev.a r.sigTok (waitToks s s.ev.a r) (nextRecord s.ev.a s.ev.b (writeStatus s.ev.a pa 1 [] [] s)))) ∧
    (∀ r n gr u, mfind s.ev.a s.runs = some r → readyNode r = some n →
      (let rec0 := launchRec (r.nodes.getD n 0)
       let l := { rec0 with params := (r.genAddr + rec0.params) % 2 ^ 64 }
       l.bad = false → (l.coop = false ∨ mfind r.queue (preempted s r.part) = none) → launchGrid s r.part l = (some gr, u) →
         (let t := startGrid u { gr with queue := r.queue, order := r.order + n, cls := r.cls.getD gr.cls, node := some (r.rid, n), acq := nodeAcq r n }
          Happens .graphNodeStart s (notePre r.part (if t.1 = 0 then passTurn r.part r.queue s { t.2 with runs := mmodify r.rid (fun r => { r with started := r.started ++ [n] }) t.2.runs }
            else failRun r.rid t.1 t.2)))))

/-- R383 to R393: a resize goes from PLAN through ADMIT or the shunt, REHASH, EVAC and SCRUB as its events end each state's work, SCRUB for core
quads, L2 slices and channel groups; GO, CANCEL and EVDONE act as R383 gives; the bays' owner is written (R381), a new partition's attestation
record is that of R431. When a state's work is done is log 31's reading, what SCRUB resets log 33's. -/
def Obligations.ResizeEvents : Prop :=
  ∀ (s : State), Powered s →
    (let part := s.ev.a
     let p := getPart s part
     (part < 40 → Happens .goResize s (goAct part s.ev.flag (modPart part (fun p => { p with grow := s.ev.flag }) s)) ∧ Happens .cancel s (cancelAct part s)) ∧
     (part < 40 → Happens .evdone s (evdoneAct part s)) ∧
     (p.state = 1 → Happens .planDone s (settleResize 4 part (setPart part { p with state := if p.growing then 2 else 3 } s))) ∧
     (p.state = 2 → Happens .admitEvent s (settleResize 4 part (notePre part (setPart part
       { p with quads := p.nquads, slices := p.nslices, chgrps := p.nchgrps, present := true, state := 4, oldSlices := p.slices, moved := []
                ar := if p.present then p.ar else firstAr part } s)))) ∧
     (p.state = 4 → s.ev.b ∈ heldLines s part → mustMove p s.ev.b = true →
       Happens .rehashSweep s (setPart part { p with moved := minsert s.ev.b true p.moved } s)) ∧
     (p.state = 4 → (∀ l ∈ heldLines s part, mustMove p l = false) →
       Happens .rehashDone s (settleResize 4 part (setPart part { p with oldSlices := newSlices p, moved := [] } s))) ∧
     (p.state = 5 → ∀ src dst rest, p.evacPending = (src, dst) :: rest →
       Happens .evacFrameCopy s (modPart part (fun p => { p with evacPending := rest, forward := minsert src dst p.forward }) (copyFrame src dst s))) ∧
     (p.state = 6 →
       (s.ev.b = 0 → bit p.quads s.ev.c = true → bit p.nquads s.ev.c = false →
         Happens .scrubDone s (settleResize 4 part (modPart part (fun p => { p with quads := p.quads - 2 ^ s.ev.c }) (scrubQuad part s.ev.c s)))) ∧
       (s.ev.b = 1 → bit p.slices s.ev.c = true → bit p.nslices s.ev.c = false →
         Happens .scrubDone s (settleResize 4 part (modPart part (fun p => { p with slices := p.slices - 2 ^ s.ev.c }) (scrubSlice part s.ev.c s)))) ∧
       (s.ev.b = 2 → bit p.chgrps s.ev.c = true → bit p.nchgrps s.ev.c = false → groupBusy s s.ev.c = false →
         Happens .scrubDone s (settleResize 4 part (modPart part (fun p => { p with chgrps := p.chgrps - 2 ^ s.ev.c }) (scrubGroup part s.ev.c s))))) ∧
     (p.present = true → Happens .partWchan s (writeWchan part s.ev.b s)))

namespace Sys2Proof.Machine

/-- The mailbox commands of R429: code, event, the modes and stages that permit it, and what it does. -/
def mailboxRow (s : State) : Instr → Option (Nat × Bool × MbxOut)
  | .imgChunk => some (1, stageOf s == 14 || modeOf s == 1, mbxImgChunk s)
  | .imgRun => some (2, stageOf s == 14, mbxImgRun s)
  | .imgFlash => some (3, modeOf s == 1, mbxImgFlash s)
  | .cfgWrite => some (4, stageOf s == 15 || modeOf s == 1, mbxCfgWrite s)
  | .testEnter => some (5, modeOf s == 0, { result := 0, st := { s with boot := { s.boot with devstat := s.boot.devstat + 4 } } })
  | .pwrLimit => some (6, modeOf s == 1 || modeOf s == 2, mbxPwrLimit s)
  | .dumpRelease => some (7, true, { result := 0, st := { s with boot := { s.boot with
      devstat := s.boot.devstat - bits s.boot.devstat 8 1 * 256, dump := none } } })
  | .identity => some (8, modeOf s == 1, mbxIdentity s)
  | .keySet => some (9, modeOf s == 1, mbxKeySet s)
  | .keyClear => some (10, modeOf s == 1, mbxKeyClear s)
  | .loadPolicy => some (11, modeOf s == 1, mbxLoadPolicy s)
  | .loadContainer => some (12, modeOf s == 1, mbxLoad s)
  | .quote => some (13, modeOf s == 1, mbxQuote s)
  | _ => none

end Sys2Proof.Machine

/-- R428, R429: a mailbox command that the host has started runs to its end: BUSY clears, RESULT holds 0 or the error, 4 where the mode or
the stage does not permit it and 1 for an unknown command, and vector 0 of the physical function is raised. -/
def Obligations.MailboxCommands : Prop :=
  (∀ (i : Instr) (code : Nat) (ok : Bool) (out : MbxOut) (s : State), Powered s → mailboxRow s i = some (code, ok, out) → mbxBusy s = true →
    s.boot.mbxCmd = code → Happens i s (mbxEnd (if ok then out else { result := 4, st := s }))) ∧
  (∀ (s : State), Powered s → mbxBusy s = true → (s.boot.mbxCmd = 0 ∨ 13 < s.boot.mbxCmd) →
    Happens .mbxUnknownCommand s (mbxEnd { result := 1, st := s }))

/-- R379, R424 to R427, R432 to R435: a driver's register write, a virtual function's reads, which give nothing of a queue that it does not
own, DBG_CTL's MGO on a halted core, RESET, and what stops or slows the package: power
lost by a thermal trip or a feed fault, a fatal error with its dump, the power limit's control of the clock. What of the package RESET keeps is the
model's choice (log 34), and so is the free KIND of a package fatal error that is not the loss of a stack (log 36). -/
def Obligations.PackageEvents : Prop :=
  ∀ (s : State), Powered s →
    (s.ev.who = none → Happens .mgmtRegisterWrite s (mgmtWrite s.ev.a s.ev.b s.ev.c s)) ∧
    (∀ vf, s.ev.who = some vf → Happens .mgmtRegisterWrite s (vfWrite vf s.ev.a s.ev.b s.ev.c s)) ∧
    (∀ vf part q, mfind vf s.vfs = some part → (getPart s part).present = true → q < 64 → queueVf (getPart s part) q ≠ vf →
      vfRead s vf 0 = partStat (getPart s part) ∧ vfRead s vf (0x1200 + 8 * q) = 0 ∧ vfRead s vf (0x1400 + 8 * q) = 0) ∧
    (bit s.ev.b 1 = true → coreOwned s s.ev.a = true → Happens .mgo s (writeDbgCtl s.ev.a s.ev.b s)) ∧
    exec .resetEvent s = .next (bootAll { State.reset with
      pkg := s.pkg, hostLinks := s.hostLinks, fresh := s.fresh, ptp := { servo := { draws := s.ptp.servo.draws } }, mem := s.mem.filter (fun e => decide (2 ^ 42 ≤ e.1))
      boot := { State.reset.boot with flash := s.boot.flash, cfgRec := s.boot.cfgRec }
      fab := { State.reset.fab with ethUp := s.ev.a % 256, ethAddr := (List.range 8).zip s.ev.xs } }) ∧
    Happens .thermalTrip s (powerLost s) ∧ Happens .feedFault s (powerLost s) ∧
    Happens .packageFatalError s (writeDump (2 + s.ev.a) ((s.parts.filter (fun e => e.2.present)).foldl (fun m e => m ||| 2 ^ e.1) 0)
      (rasLog (if s.ev.a = 1 then 6 else (Config.freeByte s.fresh).toNat) 2 none (if s.ev.a = 1 then s.ev.b % 32 * 2 ^ 16 else 0) 0 (stopAll { s with fresh := s.fresh + 1 }))) ∧
    (let limit := bits s.boot.pwrStat 16 16
     let clock := bits s.boot.pwrStat 32 12
     (limit < s.ev.a → 1050 < clock → Happens .powerLimitControl s (setClock s.ev.a (max 1050 (clock - 25)) s.boot.hbmCap s)) ∧
     (limit < s.ev.a → clock ≤ 1050 → Happens .powerLimitControl s (setClock s.ev.a clock true s)))

/-- R58 to R69: words written out from the encoding tables decode to the instructions they stand for: compact IADD and FADD, NOP,
BRA with its offset, IMAD, MOV and LD with a literal, MLOOP, SVC with its code. -/
def Obligations.DecodeWords : Prop :=
  decodeNum (0 + 4 * 0x00 + 2 ^ 10 * 3 + 2 ^ 17 * 5 + 2 ^ 24 * 7) = .iadd 0 7 5 3 ∧
  decodeNum (0 + 4 * 0x20 + 2 ^ 10 * 1 + 2 ^ 17 * 2 + 2 ^ 24 * 4 + 2 ^ 31) = .fadd 1 4 2 1 ∧
  decodeNum (0 + 4 * 0x60) = .nop 0 ∧ decodeNum (0 + 4 * 0x61 + 2 ^ 10 * (2 ^ 22 - 2)) = .bra 0x3FFFFE ∧
  decodeNum (1 + 4 * 0x04 + 2 ^ 14 * 9 + 2 ^ 24 * 4 + 2 ^ 32 * (1 + 2 ^ 10 * 2 + 2 ^ 20 * 3)) =
    .imad (.ext { dst := 9, ty := 4, a := 1, b := 2, c := 3 }) ∧
  decodeNum (2 + 4 * 0x1D + 2 ^ 10 * 4 + 2 ^ 32 * 0x1122334455667788) = .movExt (.cmpLit 0 0 0 4 0x1122334455667788) ∧
  decodeNum (3 + 4 * 0x80 + 2 ^ 14 * 6 + 2 ^ 24 * 4 + 2 ^ 32 * (8 + 2 ^ 10 * 1023) + 2 ^ 64 * (2 ^ 25 * 5 + 2 ^ 28 * 2 + 2 ^ 30 * 1) + 2 ^ 96 * 0x40) =
    .ldExt (.extLit { dst := 6, ty := 4, a := 8, b := 1023, scope := 5, order := 2, hint := 1 } 0x40) ∧
  decodeNum (1 + 4 * 0xA8 + 2 ^ 14 * 938 + 2 ^ 32 * (16 + 2 ^ 10 * 18 + 2 ^ 20 * 20)) = .mloop (.ext { dst := 938, a := 16, b := 18, c := 20 }) ∧
  decodeNum (1 + 4 * 0xE4 + 2 ^ 32 * (5 + 2 ^ 10 * 1)) = .svc (.ext { a := 5, b := 1 })

/-- R58 to R69: for every instruction word of every row, whatever its operands, decoding what it encodes to gives it back with its length;
every well-formed instruction is such a word. -/
def Obligations.DecodeOfEncode : Prop :=
  (∀ (i : Instr) (rest : List Byte), i.isWord = true → i.canonical = true →
    decode (wordsBytes (encode i) ++ rest) = .ok (i, (wordsBytes (encode i)).length)) ∧
  (∀ i : Instr, i.wellFormed = true → i.isWord = true ∧ i.canonical = true)

/-- R58, R70: every sequence of bytes as long as LEN asks decodes to an instruction word, and encoding that word gives the bytes back: no
bit is dropped, and no two words are the same instruction. Fewer bytes are refused by name. -/
def Obligations.EncodeOfDecode : Prop :=
  ∀ bs : List Byte,
    (∀ i n, decode bs = .ok (i, n) → i.isWord = true ∧ i.canonical = true ∧ n ≤ bs.length ∧ wordsBytes (encode i) = bs.take n) ∧
    (∀ b0 b1 b2 b3 rest, bs = b0 :: b1 :: b2 :: b3 :: rest → lenBytes b0.toNat ≤ bs.length → ∃ i n, decode bs = .ok (i, n)) ∧
    (bs.length < 4 → decode bs = .error .truncated)

/-- R12, R26, R27, R58, R73: a group's turn is its issue where the group is the choice of its slot: it stands ready in its active set, and no
other such group of the slot comes before it in R26's order; else the cycle passes. The issue performs the instruction that the
bytes at the group's lowest program counter with a lane that is not held decode to, for those lanes, none of which waits any longer; where
those bytes cannot be fetched the lanes take the fetch fault. Whose turn it is, the agenda says (log 1); what slots with nothing ready
count meanwhile, log 5. -/
def Obligations.StepIssuesDecoded : Prop :=
  (∀ (s : State) (gid : Nat) (rest : List Turn), s.agenda = .issue gid :: rest →
    (let s0 := enterDue s.groups.length { s with agenda := rest }
     let ready := readyGroups s0
     (∀ g p, chosenIssue s0 ready gid = some (g, p) →
       step s = issueOf s0 ready g p ∧ mfind gid s0.groups = some g ∧ g.gid = gid ∧ g.active = true ∧ nextIssue s0 g = some p ∧
       (∀ h q, (h, q) ∈ ready → sameSlot s0 h g = true → rankLt (rankOf s0 h q) (rankOf s0 g p) = false)) ∧
     (chosenIssue s0 ready gid = none → step s = .next (idleTick s0)))) ∧
  (∀ (s : State) (ready : List (Group × Pick)) (g : Group) (p : Pick), nextIssue s g = some p →
    p.lanes ≠ [] ∧ (∀ l ∈ p.lanes, getPc g l = p.pc ∧ hasLane g.live l = true) ∧
    (∀ b0 u1 bs u2 i n, fetchBytes 1 s g p.pc = (.ok b0, u1) →
      fetchBytes (lenBytes (b0.getD 0 0) / 4 - 1) u1 g ((p.pc + 4) % 2 ^ 64) = (.ok bs, u2) → (∀ v ∈ b0 ++ bs, v < 256) →
      decode ((b0 ++ bs).map (fun v => BitVec.ofNat 8 v)) = .ok (i, n) →
      issueOf s ready g p = exec i { endWait g.gid (restSlots s ready (beatsOf (maskOf p.lanes)) u2) with
        isu := { gid := g.gid, pc := p.pc, mask := maskOf p.lanes } }) ∧
    (∀ e, p.got = .error e → issueOf s ready g p = .next (fetchTrap (restSlots s ready (beatsOf (maskOf p.lanes)) p.st) g p.pc p.lanes e)))

/-- An event's turn performs that event with its operands; with no turn on the agenda, the first internal event that can happen takes
place, else the first of the ready groups in R26's order issues, else a cycle passes (the model's choice of schedule, log 1). -/
def Obligations.StepTakesEvents : Prop :=
  ∀ (s : State),
    (∀ i a rest, s.agenda = .event i a :: rest →
      (i.isWord = false → step s = exec i { s with agenda := rest, ev := a }) ∧ (i.isWord = true → step s = .next { s with agenda := rest })) ∧
    (s.agenda = [] →
      (∀ i a, nextEvent s = some (i, a) → i.isWord = false → step s = exec i { s with ev := a }) ∧
      (nextEvent s = none →
        (∀ g p, firstReady s (readyGroups s) = some (g, p) → g.active = true ∧ nextIssue s g = some p ∧ step s = issueOf s (readyGroups s) g p) ∧
        (nextGroup s = none → step s = .next (idleTick s))))

/-- Every state has a next state: no instruction and no event ends in a fault or a refusal, whatever the state; so every run goes on. It rests on the
model's choices that a cycle passes where nothing is ready (log 1) and that an event that cannot happen answers the same state (log 2). -/
def Obligations.NeverStops : Prop := (∀ s : State, ∃ t, step s = .next t) ∧ ∀ s : State, Safe s

/-- The memory keeps its canonical form through every step, from every state that has it: addresses strictly rise and no byte is listed
that reads as an unlisted one (log 4). -/
def Obligations.MemoryStaysCanonical : Prop := ∀ s t : State, Memory.wf s.mem → step s = .next t → Memory.wf t.mem

/-- R189, R195, R200, R362: a store's part applied at its home writes the bytes of its value to its addresses and to no others, where the
line is readable, no copy in an L1 is in error (R214), no valid dray sector follows it, the host holds nothing modified, the lanes of the
issue did not overlap and no other
address of the pool stands in one place with it; likewise the package's own writes. The bytes of a write to pad are its value's (R184),
and nothing changes with them but what notes the write: the trigger queues (R298), the collectives that it reaches (R344), what readers may
still miss (R241, log 14), the releases that its places carry (R233) and the report of an uncorrectable word that a trigger reads (R186). -/
def Obligations.BytesWritten : Prop :=
  (∀ (s : State) (o : Op) (a : Access) (p : Piece) (b : Nat), a.away = [] → (∀ e ∈ s.hostHalf, e.2.dirty = none) → lineBad s p.pa = false →
    (∀ e ∈ s.l1, e.2.bad = false) → (∀ e ∈ s.dray, bit e.2.valid (lineOf p.pa % 512) = true → e.2.page ≠ lineOf p.pa / 512) →
    (∀ i < p.n, memKey s b = memKey s (p.pa + i) → b = p.pa + i) →
    memByte (applyPart s o false a p) b = if p.pa ≤ b ∧ b < p.pa + p.n then bits a.data (8 * (p.off + (b - p.pa))) 8 else memByte s b) ∧
  (∀ (s : State) (pa n v b : Nat), (mfind (b / 64) s.hostHalf).bind (fun h => h.dirty) = none →
    (∀ i < n, memKey s b = memKey s (pa + i) → b = pa + i) →
    memByte (memSet s pa n v) b = if pa ≤ b ∧ b < pa + n then bits v (8 * (b - pa)) 8 else memByte s b) ∧
  (∀ (blk : Block) (off n v b : Nat),
    (cget 0 b (padPut off n v blk).pad).toNat = (if off ≤ b ∧ b < off + n then bits v (8 * (b - off)) 8 else (cget 0 b blk.pad).toNat) ∧
    padGet (padPut off n v blk) off n = v % 2 ^ (8 * n)) ∧
  (∀ (s : State) (o : Op) (lane off n v : Nat) (rmw : Bool) (blk : Block), mfind o.bid s.blocks = some blk →
    (let t := padWrite s o lane rmw off n v
     mfind o.bid t.blocks = some (padPut off n v blk) ∧ (∀ h, h ≠ o.bid → mfind h t.blocks = mfind h s.blocks) ∧
     { t with blocks := s.blocks, groups := s.groups, ops := s.ops, past := s.past, stamp := s.stamp, relAt := s.relAt, mem := s.mem
              parts := s.parts, vfIstat := s.vfIstat, irqs := s.irqs } = s ∧
     (∀ h g, mfind h t.groups = some g → ∃ g0, mfind h s.groups = some g0 ∧ { g with trigq := g0.trigq } = g0) ∧
     t.ops.map (fun e => { e with poisoned := false }) = s.ops.map (fun e => { e with poisoned := false })))

/-- The machine right after reset: what R47, R177, R183, R195, R210, R346, R353, R362, R373, R384, R394, R396, R425, R427 and R435 give
(no partition exists, banks 0 to 3 are CACHE and the others PAD, all ready, every way in lookup, the clocks at 0, the registers at their
reset values), with nothing listed in memory, which is then in its canonical form (logs 3 and 4). -/
def Obligations.AfterReset : Prop :=
  (∀ p, (getPart State.reset p).present = false ∧ (getPart State.reset p).state = 0 ∧ (getPart State.reset p).result = 0 ∧
    (getPart State.reset p).drayCfg = 0 ∧ (getPart State.reset p).istat = 0 ∧ (∀ q, cget 0 q (getPart State.reset p).qcfg = 0)) ∧
  (∀ c k, getBank (getCore State.reset c) k = { mode := if k < 4 then 0 else 1 } ∧ (getCore State.reset c).bankctl = 0 ∧
    (getCore State.reset c).dbgCtl = 0 ∧ cget 0 k (getCore State.reset c).dbgCmp = 0) ∧
  (∀ n, waysOf State.reset n = 0xFFFFFFFF) ∧ (∀ k, cget 0 k State.reset.fab.members = 0) ∧ (∀ p c, rateOf State.reset p c = 256) ∧
  State.reset.groups = [] ∧ State.reset.blocks = [] ∧ State.reset.ops = [] ∧ State.reset.l1 = [] ∧ State.reset.tlb = [] ∧
  State.reset.cycle = 0 ∧ State.reset.ptp = {} ∧ State.reset.hostWinBase = 0 ∧ State.reset.hostWinSize = 0 ∧ State.reset.boot.devstat = 0 ∧
  bits State.reset.boot.pwrStat 0 16 = 0 ∧ bits State.reset.boot.pwrStat 16 16 = 5000 ∧ bits State.reset.boot.pwrStat 32 12 = 2100 ∧
  State.reset.fab.class_ = 0 ∧ State.reset.fab.mctab = 0 ∧ State.reset.fab.nacklog = 0 ∧ State.reset.pool.rtab = 0 ∧ State.reset.pool.fstat = 0 ∧
  State.reset.mem = [] ∧ Memory.wf State.reset.mem
end

