-- ==== Sys2Proof/Laws/Exec.lean ====
section
/-! SUPPORT. What performing an instruction can come to: an instruction word is an issue that `runWord` carries out, an event
changes the state or leaves it; nothing refuses, and only a word without an issuing group faults. -/

namespace Sys2Proof.Machine

/-- Every instruction word is carried out by `runWord` on the fields of its own words. -/
theorem exec_word (i : Instr) (r : Raw) (h : rawInstr i = some r) : ∃ body, ∀ s, exec i s = runWord r body s := by
  cases i
  case reservedMajorOpcode w => cases h; exact ⟨fun x => .ok x.s {}, fun _ => rfl⟩
  all_goals first | (cases h; done) | (cases h; exact ⟨_, fun _ => rfl⟩)

/-- An event has a next state from every state. -/
theorem exec_event_next (i : Instr) (s : State) (h : i.isWord = false) : ∃ t, exec i s = .next t := by
  have out : ∀ r, ∃ t, eventOut s r = .next t := fun r => by cases r <;> exact ⟨_, rfl⟩
  cases i <;> first | (cases h; done) | exact out _ | exact out (some _) | exact out (evPtpCfg s) | exact out (evPackageFatalError s) | (simp only [exec, execResetEvent]; split <;> exact ⟨_, rfl⟩)

/-- Where the issuing group, its block and its grid exist, an issue has a next state. -/
theorem runWord_next (r : Raw) (body : Ctx → Res) (s : State) (g : Group) (b : Block) (gr : Grid) (hg : mfind s.isu.gid s.groups = some g)
    (hb : mfind g.bid s.blocks = some b) (hr : mfind b.grid s.grids = some gr) : ∃ t, runWord r body s = .next t := by
  simp only [runWord, hg, hb, hr]
  repeat' split
  all_goals exact ⟨_, rfl⟩

end Sys2Proof.Machine
end

