-- ==== Sys2Proof/Laws/Bodies.lean ====
section
/-! SUPPORT. The effect of each instruction word, as `runWord` is given it. -/

namespace Sys2Proof.Machine

/-- The effect that an instruction word has of its own. -/
def bodyOf : Instr → Ctx → Res
  | .iadd _ _ _ _ => bodyIadd
  | .iaddExt _ => bodyIadd
  | .isub _ _ _ _ => bodyIsub
  | .isubExt _ => bodyIsub
  | .imul _ _ _ _ => bodyImul
  | .imulExt _ => bodyImul
  | .imulh _ _ _ _ => bodyImulh
  | .imulhExt _ => bodyImulh
  | .imad _ => bodyImad
  | .imadw _ => bodyImadw
  | .iaddc _ => bodyIaddc
  | .ineg _ _ _ _ => bodyIneg
  | .inegExt _ => bodyIneg
  | .iabs _ _ _ _ => bodyIabs
  | .iabsExt _ => bodyIabs
  | .imin _ _ _ _ => bodyImin
  | .iminExt _ => bodyImin
  | .imax _ _ _ _ => bodyImax
  | .imaxExt _ => bodyImax
  | .iand _ _ _ _ => bodyAnd
  | .iandExt _ => bodyAnd
  | .ior _ _ _ _ => bodyOr
  | .iorExt _ => bodyOr
  | .ixor _ _ _ _ => bodyXor
  | .ixorExt _ => bodyXor
  | .andn _ _ _ _ => bodyAndn
  | .andnExt _ => bodyAndn
  | .inot _ _ _ _ => bodyNot
  | .inotExt _ => bodyNot
  | .shl _ _ _ _ => bodyShl
  | .shlExt _ => bodyShl
  | .shr _ _ _ _ => bodyShr
  | .shrExt _ => bodyShr
  | .sar _ _ _ _ => bodySar
  | .sarExt _ => bodySar
  | .rotl _ _ _ _ => bodyRotl
  | .rotlExt _ => bodyRotl
  | .bfx _ => bodyBfx
  | .bfi _ => bodyBfi
  | .popc _ _ _ _ => bodyPopc
  | .popcExt _ => bodyPopc
  | .clz _ _ _ _ => bodyClz
  | .clzExt _ => bodyClz
  | .ctz _ _ _ _ => bodyCtz
  | .ctzExt _ => bodyCtz
  | .brev _ _ _ _ => bodyBrev
  | .brevExt _ => bodyBrev
  | .icmp _ _ _ _ => bodyIcmp
  | .icmpExt _ => bodyIcmp
  | .sel _ => bodySel
  | .lea _ => bodyLea
  | .mov _ _ _ _ => bodyMov
  | .movExt _ => bodyMov
  | .bysel _ => bodyBysel
  | .fadd _ _ _ _ => bodyFadd
  | .faddExt _ => bodyFadd
  | .fsub _ _ _ _ => bodyFsub
  | .fsubExt _ => bodyFsub
  | .fmul _ _ _ _ => bodyFmul
  | .fmulExt _ => bodyFmul
  | .ffma _ => bodyFfma
  | .fmin _ _ _ _ => bodyFmin
  | .fminExt _ => bodyFmin
  | .fmax _ _ _ _ => bodyFmax
  | .fmaxExt _ => bodyFmax
  | .fminp _ => bodyFminp
  | .fmaxp _ => bodyFmaxp
  | .fcmp _ _ _ _ => bodyFcmp
  | .fcmpExt _ => bodyFcmp
  | .frcp _ _ _ _ => bodyFrcp
  | .frcpExt _ => bodyFrcp
  | .frsq _ _ _ _ => bodyFrsq
  | .frsqExt _ => bodyFrsq
  | .fsqrt _ _ _ _ => bodyFsqrt
  | .fsqrtExt _ => bodyFsqrt
  | .fdiv _ => bodyFdiv
  | .fexp2 _ _ _ _ => bodyFexp2
  | .fexp2Ext _ => bodyFexp2
  | .flog2 _ _ _ _ => bodyFlog2
  | .flog2Ext _ => bodyFlog2
  | .fsin _ => bodyFsin
  | .fcos _ => bodyFcos
  | .frnd _ => bodyFrnd
  | .fclass _ => bodyFclass
  | .fldexp _ => bodyFldexp
  | .ffrexp _ => bodyFfrexp
  | .padd2 _ => bodyPadd2
  | .pmul2 _ => bodyPmul2
  | .pfma2 _ => bodyPfma2
  | .cvt _ => bodyCvt
  | .qblk _ => bodyQblk
  | .dqblk _ => bodyDqblk
  | .shfl _ => bodyShfl
  | .matchOp _ => bodyMatch
  | .ballot _ => bodyBallot
  | .vote _ => bodyVote
  | .redu _ => bodyRedu
  | .scan _ => bodyScan
  | .nop _ => bodyNop
  | .nopExt _ => bodyNop
  | .bra _ => bodyBra
  | .braExt _ => bodyBra
  | .brx _ => bodyBrx
  | .call _ => bodyCall
  | .callExt _ => bodyCall
  | .ret _ => bodyRet
  | .retExt _ => bodyRet
  | .loopOp _ => bodyLoop
  | .lbinv _ => bodyLbinv
  | .exitOp _ => bodyExit
  | .exitOpExt _ => bodyExit
  | .yield _ => bodyYield
  | .yieldExt _ => bodyYield
  | .trap _ => bodyTrap
  | .brk _ => bodyBrk
  | .waitc _ => bodyWaitc
  | .bar _ => bodyBar
  | .abinit _ => bodyAbinit
  | .abarv _ => bodyAbarv
  | .abwait _ => bodyAbwait
  | .abexp _ => bodyAbexp
  | .stgw _ => bodyStgw
  | .stgp _ => bodyStgp
  | .spawn _ => bodySpawn
  | .joinOp _ => bodyJoin
  | .ralloc _ => bodyRalloc
  | .rfree _ => bodyRfree
  | .twait _ => bodyTwait
  | .ld _ _ _ _ => bodyLd
  | .ldExt _ => bodyLd
  | .st _ _ _ _ => bodySt
  | .stExt _ => bodySt
  | .ldp _ => bodyLdp
  | .stp _ => bodyStp
  | .atom _ => bodyAtom
  | .atomn _ => bodyAtomn
  | .atomw _ => bodyAtomw
  | .atomp _ => bodyAtomp
  | .fence _ => bodyFence
  | .xfence _ => bodyXfence
  | .xlt _ => bodyXlt
  | .pref _ => bodyPref
  | .cflush _ => bodyCflush
  | .cinv _ => bodyCinv
  | .hcopy _ => bodyHcopy
  | .hxpose _ => bodyHxpose
  | .hfill _ => bodyHfill
  | .hrem _ => bodyHrem
  | .hsig _ => bodyHsig
  | .htrig _ => bodyHtrig
  | .gath _ => bodyGath
  | .scat _ => bodyScat
  | .mloop _ => bodyMloop
  | .mzero _ => bodyMzero
  | .mtrd _ => bodyMtrd
  | .mtwr _ => bodyMtwr
  | .mldt _ => bodyMldt
  | .mstt _ => bodyMstt
  | .rtrav _ => bodyRtrav
  | .texf _ => bodyTexf
  | .wsend _ => bodyWsend
  | .wrecv _ => bodyWrecv
  | .wbay _ => bodyWbay
  | .coll _ => bodyColl
  | .cmpj _ => bodyCmpj
  | .cmpq _ => bodyCmpq
  | .csrr _ => bodyCsrr
  | .csrw _ => bodyCsrw
  | .eret _ => bodyEret
  | .time _ => bodyTime
  | .svc _ => bodySvc
  | .reservedMajorOpcode _ => (fun x => .ok x.s {})
  | _ => fun x => .ok x.s {}

theorem exec_bodyOf (i : Instr) (r : Raw) (h : rawInstr i = some r) (s : State) : exec i s = runWord r (bodyOf i) s := by
  cases i <;> first | (cases h; done) | (cases h; rfl)

theorem Issues.exec {i : Instr} {s : State} {x : Ctx} (h : Issues i s x) : exec i s = runWord x.r (bodyOf i) s := exec_bodyOf i x.r h.raw s

end Sys2Proof.Machine
end

