-- ==== Sys2Proof/Laws/Maps.lean ====
section
/-! SUPPORT. The laws of sparse tables: a read after a write, and that every operation keeps the canonical form. -/

namespace Sys2Proof.Machine

theorem mfind_minsert {α : Type} (k j : Nat) (v : α) (m : List (Nat × α)) : mfind j (minsert k v m) = if j = k then some v else mfind j m := by
  induction m with
  | nil => simp [minsert, mfind]
  | cons e m ih =>
    obtain ⟨i, w⟩ := e
    simp only [minsert]
    split
    · subst i; simp only [mfind]; split <;> rfl
    · split
      · simp only [mfind]
      · simp only [mfind, ih]; split <;> split <;> simp_all

theorem mfind_merase {α : Type} (k j : Nat) (m : List (Nat × α)) : mfind j (merase k m) = if j = k then none else mfind j m := by
  induction m with
  | nil => simp [merase, mfind]
  | cons e m ih =>
    obtain ⟨i, w⟩ := e
    simp only [merase]
    split
    · subst i; rw [ih]; simp only [mfind]; split <;> simp_all
    · simp only [mfind, ih]; split <;> split <;> simp_all

theorem mfind_mmodify {α : Type} (k j : Nat) (f : α → α) (m : List (Nat × α)) :
    mfind j (mmodify k f m) = if j = k then (mfind k m).map f else mfind j m := by
  unfold mmodify
  split <;> rename_i h
  · rw [mfind_minsert]; split <;> simp_all
  · split <;> simp_all

/-- A read after a write: the written cell holds the value, every other holds what it held. -/
theorem cget_cset {α : Type} [DecidableEq α] (d : α) (k j : Nat) (v : α) (m : List (Nat × α)) :
    cget d j (cset d k v m) = if j = k then v else cget d j m := by
  unfold cget cset
  split
  · rw [mfind_merase]; split <;> simp_all
  · rw [mfind_minsert]; split <;> simp_all

theorem sortedFrom_mono {α : Type} {lo hi : Nat} (h : lo ≤ hi) (m : List (Nat × α)) (hm : sortedFrom hi m = true) : sortedFrom lo m = true := by
  cases m with
  | nil => rfl
  | cons e m =>
    obtain ⟨i, w⟩ := e
    simp only [sortedFrom, Bool.and_eq_true, decide_eq_true_eq] at hm ⊢
    exact ⟨by omega, hm.2⟩

theorem sortedFrom_minsert {α : Type} (k : Nat) (v : α) (m : List (Nat × α)) : ∀ lo, sortedFrom lo m = true → lo ≤ k → sortedFrom lo (minsert k v m) = true := by
  induction m with
  | nil => intro lo _ h; simp [minsert, sortedFrom, h]
  | cons e m ih =>
    obtain ⟨i, w⟩ := e
    intro lo hm h
    simp only [sortedFrom, Bool.and_eq_true, decide_eq_true_eq] at hm
    simp only [minsert]
    split
    · subst i; simp [sortedFrom, h, hm.2]
    · split
      · simp only [sortedFrom, Bool.and_eq_true, decide_eq_true_eq]; exact ⟨h, by omega, hm.2⟩
      · simp only [sortedFrom, Bool.and_eq_true, decide_eq_true_eq]; exact ⟨hm.1, ih _ hm.2 (by omega)⟩

theorem merase_sublist {α : Type} (k : Nat) (m : List (Nat × α)) : (merase k m).Sublist m := by
  induction m with
  | nil => exact List.Sublist.refl _
  | cons e m ih =>
    obtain ⟨i, w⟩ := e
    simp only [merase]
    split
    · exact ih.cons _
    · exact ih.cons_cons _

theorem sortedFrom_sublist {α : Type} {m n : List (Nat × α)} (h : m.Sublist n) : ∀ lo, sortedFrom lo n = true → sortedFrom lo m = true := by
  induction h with
  | slnil => intro lo h; exact h
  | cons e _ ih =>
    intro lo h
    obtain ⟨i, w⟩ := e
    simp only [sortedFrom, Bool.and_eq_true, decide_eq_true_eq] at h
    exact ih lo (sortedFrom_mono (by omega) _ h.2)
  | cons_cons e _ ih =>
    intro lo h
    obtain ⟨i, w⟩ := e
    simp only [sortedFrom, Bool.and_eq_true, decide_eq_true_eq] at h ⊢
    exact ⟨h.1, ih _ h.2⟩

theorem mem_minsert {α : Type} (k : Nat) (v : α) (m : List (Nat × α)) (e : Nat × α) (h : e ∈ minsert k v m) : e = (k, v) ∨ e ∈ m := by
  induction m with
  | nil => simpa [minsert] using h
  | cons a m ih =>
    obtain ⟨j, w⟩ := a
    simp only [minsert] at h
    repeat' split at h
    all_goals
      simp only [List.mem_cons] at h ⊢
      first
        | (rcases h with h | h | h <;> simp [h])
        | (rcases h with h | h <;> simp [h])
        | (rcases h with h | h
           · simp [h]
           · rcases ih h with h | h <;> simp [h])

/-- Part of a canonical table is canonical. -/
theorem cellsOk_sublist {α : Type} [DecidableEq α] (d : α) {m n : List (Nat × α)} (h : m.Sublist n) (hn : cellsOk d n = true) : cellsOk d m = true := by
  simp only [cellsOk, Bool.and_eq_true, List.all_eq_true] at hn ⊢
  exact ⟨sortedFrom_sublist h 0 hn.1, fun e he => hn.2 e (h.subset he)⟩

theorem cellsOk_filter {α : Type} [DecidableEq α] (d : α) (p : Nat × α → Bool) (m : List (Nat × α)) (h : cellsOk d m = true) : cellsOk d (m.filter p) = true :=
  cellsOk_sublist d List.filter_sublist h

theorem cellsOk_minsert {α : Type} [DecidableEq α] (d : α) (k : Nat) (v : α) (hv : v ≠ d) (m : List (Nat × α)) (h : cellsOk d m = true) :
    cellsOk d (minsert k v m) = true := by
  simp only [cellsOk, Bool.and_eq_true, List.all_eq_true, decide_eq_true_eq] at h ⊢
  refine ⟨sortedFrom_minsert k v m 0 h.1 (Nat.zero_le k), fun e he => ?_⟩
  rcases mem_minsert k v m e he with rfl | he
  · exact hv
  · exact h.2 e he

/-- A write of a cell keeps the canonical form. -/
theorem cellsOk_cset {α : Type} [DecidableEq α] (d : α) (k : Nat) (v : α) (m : List (Nat × α)) (h : cellsOk d m = true) : cellsOk d (cset d k v m) = true := by
  unfold cset
  split <;> rename_i hv
  · exact cellsOk_sublist d (merase_sublist k m) h
  · exact cellsOk_minsert d k v hv m h

end Sys2Proof.Machine
end

