-- ==== Sys2Proof/Laws/Regs.lean ====
section
/-! SUPPORT. The registers of a group: a read after a write, and what writing a destination changes. -/

namespace Sys2Proof.Machine

theorem bits_lt (w lo n : Nat) : bits w lo n < 2 ^ n := Nat.mod_lt _ (Nat.two_pow_pos n)

/-- Different registers, or different lanes of a vector register, are different cells. -/
theorem regKey_eq (c d l m : Nat) (hl : l < 96) (hm : m < 96) : regKey c l = regKey d m ↔ c = d ∧ (isV c = true → l = m) := by
  simp only [regKey]
  constructor
  · intro h
    have hcd : c = d := by split at h <;> split at h <;> omega
    subst hcd
    refine ⟨rfl, fun hv => ?_⟩
    simp only [hv, if_true] at h
    omega
  · rintro ⟨rfl, h⟩
    split <;> rename_i hv
    · rw [h hv]
    · rfl

theorem getReg_putReg (g : Group) (c d l m w : Nat) (hl : l < 96) (hm : m < 96) :
    getReg (putReg g c l w) d m = if c = d ∧ (isV c = true → l = m) then w % 2 ^ 32 else getReg g d m := by
  simp only [getReg, putReg, cget_cset]
  have h : (regKey d m = regKey c l) ↔ (c = d ∧ (isV c = true → l = m)) := by rw [eq_comm]; exact regKey_eq c d l m hl hm
  by_cases hc : regKey d m = regKey c l
  · rw [if_pos hc, if_pos (h.mp hc)]; simp
  · rw [if_neg hc, if_neg (fun k => hc (h.mpr k))]

theorem getPoison_putPoison (g : Group) (c d l m : Nat) (p : Bool) (hl : l < 96) (hm : m < 96) :
    getPoison (putPoison g c l p) d m = if c = d ∧ (isV c = true → l = m) then p else getPoison g d m := by
  simp only [getPoison, putPoison, cget_cset]
  have h : (regKey d m = regKey c l) ↔ (c = d ∧ (isV c = true → l = m)) := by rw [eq_comm]; exact regKey_eq c d l m hl hm
  by_cases hc : regKey d m = regKey c l
  · rw [if_pos hc, if_pos (h.mp hc)]
  · rw [if_neg hc, if_neg (fun k => hc (h.mpr k))]

@[simp] theorem getReg_putPoison (g : Group) (c d l m : Nat) (p : Bool) : getReg (putPoison g c l p) d m = getReg g d m := rfl
@[simp] theorem getPoison_putReg (g : Group) (c d l m w : Nat) : getPoison (putReg g c l w) d m = getPoison g d m := rfl

/-- `h` differs from `g` at most in registers and poison. -/
def RegsOnly (g h : Group) : Prop := { h with regs := g.regs, poison := g.poison } = g

theorem RegsOnly.refl (g : Group) : RegsOnly g g := rfl

theorem RegsOnly.trans {g h k : Group} (a : RegsOnly g h) (b : RegsOnly h k) : RegsOnly g k := by
  unfold RegsOnly at *; rw [← a, ← b]

/-- What writing a destination of `n` registers in a lane does outside a replay: each register takes its word of the value and the
poison; every other register keeps its own. -/
theorem writeDst_spec (x : Ctx) (g : Group) (d n lane val : Nat) (p : Bool) (hr : x.inReplay = false) (hl : lane < 96) :
    RegsOnly g (writeDst x g d n lane val p) ∧
    ∀ c m, m < 96 →
      getReg (writeDst x g d n lane val p) c m = (if d ≤ c ∧ c < d + n ∧ (isV c = true → lane = m) then bits val (32 * (c - d)) 32 else getReg g c m) ∧
      getPoison (writeDst x g d n lane val p) c m =
        (if isLc d = false ∧ d ≤ c ∧ c < d + n ∧ (isV c = true → lane = m) then p else getPoison g c m) := by
  have e : writeDst x g d n lane val p = (List.range n).foldl (fun g k =>
      let g1 := putReg g (d + k) lane (bits val (32 * k) 32)
      if isLc d then g1 else putPoison g1 (d + k) lane p) g := by
    unfold writeDst; rw [hr]; rfl
  rw [e]
  clear e
  induction n with
  | zero => refine ⟨rfl, fun c m _ => ⟨?_, ?_⟩⟩ <;> simp <;> intros <;> omega
  | succ n ih =>
    obtain ⟨ho, ih⟩ := ih
    rw [List.range_succ, List.foldl_append]
    generalize (List.range n).foldl (fun g k =>
      let g1 := putReg g (d + k) lane (bits val (32 * k) 32)
      if isLc d then g1 else putPoison g1 (d + k) lane p) g = h at *
    simp only [List.foldl_cons, List.foldl_nil]
    refine ⟨ho.trans (by split <;> rfl), fun c m hm => ?_⟩
    obtain ⟨h1, h2⟩ := ih c m hm
    have hb : bits val (32 * n) 32 % 2 ^ 32 = bits val (32 * n) 32 := Nat.mod_eq_of_lt (bits_lt _ _ _)
    constructor
    · have : getReg (if isLc d = true then putReg h (d + n) lane (bits val (32 * n) 32) else putPoison (putReg h (d + n) lane (bits val (32 * n) 32)) (d + n) lane p) c m =
          getReg (putReg h (d + n) lane (bits val (32 * n) 32)) c m := by split <;> rfl
      rw [this, getReg_putReg _ _ _ _ _ _ hl hm, h1, hb]
      by_cases hc : d + n = c
      · subst hc
        by_cases hv : (isV (d + n) = true → lane = m)
        · rw [if_pos ⟨rfl, hv⟩, if_pos ⟨by omega, by omega, hv⟩, Nat.add_sub_cancel_left]
        · rw [if_neg (fun k => hv k.2), if_neg (fun k => absurd k.2.1 (Nat.lt_irrefl _)), if_neg (fun k => hv k.2.2)]
      · rw [if_neg (fun k => hc k.1)]
        by_cases hh : d ≤ c ∧ c < d + n ∧ (isV c = true → lane = m)
        · rw [if_pos hh, if_pos ⟨hh.1, by omega, hh.2.2⟩]
        · rw [if_neg hh, if_neg (fun k => hh ⟨k.1, by omega, k.2.2⟩)]
    · by_cases hlc : isLc d = true
      · simp only [hlc, if_true, getPoison_putReg, h2]; simp
      · have hlc' : isLc d = false := by simpa using hlc
        simp only [hlc', Bool.false_eq_true, if_false, getPoison_putPoison _ _ _ _ _ _ hl hm, getPoison_putReg, h2, true_and]
        by_cases hc : d + n = c
        · subst hc
          by_cases hv : (isV (d + n) = true → lane = m)
          · rw [if_pos ⟨rfl, hv⟩, if_pos ⟨by omega, by omega, hv⟩]
          · rw [if_neg (fun k => hv k.2), if_neg (fun k => absurd k.2.1 (Nat.lt_irrefl _)), if_neg (fun k => hv k.2.2)]
        · rw [if_neg (fun k => hc k.1)]
          by_cases hh : d ≤ c ∧ c < d + n ∧ (isV c = true → lane = m)
          · rw [if_pos hh, if_pos ⟨hh.1, by omega, hh.2.2⟩]
          · rw [if_neg hh, if_neg (fun k => hh ⟨k.1, by omega, k.2.2⟩)]

end Sys2Proof.Machine
end

