-- ==== Sys2Proof/Laws/Issue.lean ====
section
/-! SUPPORT. One issue of an instruction: where its own effect is reached, what follows the effect, and what the shared lane operations
write. The statements about single instructions rest on these. -/

namespace Sys2Proof.Machine

/-- What follows an effect leaves the group's registers below the loop counters, its poison, and all that `KeepsGroup` keeps. -/
structure Settles (g h : Group) : Prop where
  keeps : KeepsGroup g h
  poison : h.poison = g.poison
  regs : ∀ c m, c < 944 → m < 96 → getReg h c m = getReg g c m

theorem KeepsGroup.refl (g : Group) : KeepsGroup g g := rfl

theorem KeepsGroup.trans {g h k : Group} (a : KeepsGroup g h) (b : KeepsGroup h k) : KeepsGroup g k := by
  unfold KeepsGroup at *; rw [← a, ← b]

theorem RegsOnly.keeps {g h : Group} (a : RegsOnly g h) : KeepsGroup g h := by
  unfold KeepsGroup RegsOnly at *; rw [← a]

theorem Settles.refl (g : Group) : Settles g g := ⟨rfl, rfl, fun _ _ _ _ => rfl⟩

theorem Settles.trans {g h k : Group} (a : Settles g h) (b : Settles h k) : Settles g k :=
  ⟨a.keeps.trans b.keeps, b.poison.trans a.poison, fun c m hc hm => (b.regs c m hc hm).trans (a.regs c m hc hm)⟩

theorem Settles.plain {g h : Group} (k : KeepsGroup g h) (r : h.regs = g.regs) (p : h.poison = g.poison) : Settles g h :=
  ⟨k, p, fun c m _ _ => by simp only [getReg, r]⟩

theorem Settles.fold {α : Type} (f : Group → α → Group) (hf : ∀ g a, Settles g (f g a)) (as : List α) : ∀ g, Settles g (as.foldl f g) := by
  induction as with
  | nil => exact fun g => Settles.refl g
  | cons a as ih => exact fun g => (hf g a).trans (ih _)

theorem settles_loopCtr (g : Group) (k w : Nat) : Settles g (putReg g (944 + k) 0 w) := by
  refine ⟨rfl, rfl, fun c m hc hm => ?_⟩
  rw [getReg_putReg _ _ _ _ _ _ (by omega) hm, if_neg (fun h => by omega)]

theorem settles_arrive (pc : Nat) (branch : Bool) (g : Group) (ln : Nat × Nat) : Settles g (arrive pc branch g ln) := by
  unfold arrive
  dsimp only
  generalize (if branch = true then leaveByBranch g.loops ln.1 pc ln.2 else g.loops) = ls
  split
  · split <;> exact .plain rfl rfl rfl
  · exact .plain rfl rfl rfl

theorem settles_closeOne (g : Group) (h : Group × Bool) (e : closeOne g = some h) : Settles g h.1 := by
  unfold closeOne at e
  split at e
  · cases e
  · dsimp only at e
    split at e
    · cases e
      dsimp only
      refine Settles.trans ?_ (settles_loopCtr _ _ _)
      exact .plain rfl rfl rfl
    · rename_i en _ _
      have hf := Settles.fold (fun (x : Group) l => { x with upc := cset 0 l en.start x.upc }) (fun g a => (.plain rfl rfl rfl)) (lanesOf en.members)
        { g with parkLoop := g.parkLoop &&& ~~~en.members }
      have h0 : Settles g { g with parkLoop := g.parkLoop &&& ~~~en.members } := .plain rfl rfl rfl
      cases e
      dsimp only
      exact (h0.trans hf).trans (settles_loopCtr _ _ _)

theorem settles_closeLoops (fuel : Nat) : ∀ g again, Settles g (closeLoops fuel g again).1 := by
  induction fuel with
  | zero => exact fun g _ => Settles.refl g
  | succ fuel ih =>
    intro g again
    simp only [closeLoops]
    split
    · exact Settles.refl g
    · rename_i g1 o e
      exact (settles_closeOne g (g1, o) e).trans (ih _ _)

theorem settles_dropCapture (before : List LoopEntry) (g : Group) : Settles g (dropCapture before g) := by
  unfold dropCapture; split <;> exact .plain rfl rfl rfl

theorem settles_windowPoison (g : Group) (n : Snap) (named : BitVec 925) (fk ad : Nat) (nr : Bool) : Settles g (windowPoison g n named fk ad nr) := by
  unfold windowPoison
  split
  · exact Settles.refl g
  · dsimp only; split <;> exact .plain rfl rfl rfl

theorem KeepsOutside.refl (s : State) (gid : Nat) : KeepsOutside s s gid := ⟨rfl, rfl, fun _ _ => rfl⟩

theorem KeepsOutside.trans {s t u : State} {gid : Nat} (a : KeepsOutside s t gid) (b : KeepsOutside t u gid) : KeepsOutside s u gid :=
  ⟨by rw [← a.rest, ← b.rest], by rw [← a.clock, ← b.clock], fun h hh => (b.others h hh).trans (a.others h hh)⟩

theorem keepsOutside_tick (n : Nat) (s : State) (gid : Nat) : KeepsOutside s (tick n s) gid := ⟨rfl, rfl, fun _ _ => rfl⟩

theorem keepsOutside_slotTick (g : Group) (n : Nat) (s : State) (gid : Nat) : KeepsOutside s (slotTick g n s) gid := ⟨rfl, rfl, fun _ _ => rfl⟩

theorem keepsOutside_setGroup (g : Group) (s : State) : KeepsOutside s (setGroup g s) g.gid :=
  ⟨rfl, rfl, fun h hh => by simp only [setGroup, mfind_minsert, if_neg hh]⟩

@[simp] theorem find_setGroup (g : Group) (s : State) : mfind g.gid (setGroup g s).groups = some g := by
  simp only [setGroup, mfind_minsert, if_true]

theorem Settles.gid {g h : Group} (a : Settles g h) : h.gid = g.gid := by
  have := a.keeps; unfold KeepsGroup at this; rw [← this]

/-- What `recapture` does to a group that is there: at most its loop buffer changes. -/
theorem recapture_spec (s : State) (gid : Nat) (g : Group) (hg : mfind gid s.groups = some g) (hk : g.gid = gid) :
    ∃ g', mfind gid (recapture s gid).groups = some g' ∧ KeepsOutside s (recapture s gid) gid ∧ Settles g g' := by
  have same : ∃ g', mfind gid s.groups = some g' ∧ KeepsOutside s s gid ∧ Settles g g' := ⟨g, hg, .refl _ _, .refl _⟩
  unfold recapture
  rw [hg]
  dsimp only
  split
  · split
    · split
      · rename_i bs _
        subst hk
        refine ⟨_, find_setGroup { g with lbuf := some { base := _, bytes := bs, stale := false } } s, ?_, .plain rfl rfl rfl⟩
        exact keepsOutside_setGroup { g with lbuf := some { base := _, bytes := bs, stale := false } } s
      · exact same
    · exact same
  · exact same

theorem settles_service (x : Ctx) (o : Out) (cyc : Nat) (g : Group) : Settles g (settleService x o cyc g) := by
  have h0 : Settles g { g with seq := g.seq + 1, lastIssue := cyc } := .plain rfl rfl rfl
  exact (h0.trans (Settles.fold (fun (g : Group) l => { g with spc := cset 0 l (nextOf x o l) g.spc }) (fun _ _ => .plain rfl rfl rfl)
    (movedOf x o) _)).trans (.plain rfl rfl rfl)

theorem settles_settleLoops (x : Ctx) (o : Out) (cyc : Nat) (g : Group) : Settles g (settleLoops x o cyc g).1 := by
  have h0 : Settles g { g with seq := g.seq + 1, lastIssue := cyc, parkWide := g.parkWide &&& ~~~o.also, noBp := false } := .plain rfl rfl rfl
  have h1 := h0.trans (Settles.fold (fun g l => arrive x.pc (o.branch && ((o.next.bind (mfind l)).isSome)) g (l, nextOf x o l))
    (fun g a => settles_arrive _ _ g _) (movedOf x o) _)
  unfold settleLoops
  generalize (movedOf x o).foldl _ _ = g2 at *
  have h2 : Settles g { g2 with loops := popEmpty g2.loops, srctr := srctrAfter o g2 } := h1.trans (.plain rfl rfl rfl)
  exact (h2.trans (settles_closeLoops 8 _ false)).trans (settles_dropCapture x.g.loops _)

theorem settles_settleWindow (x : Ctx) (s : State) (o : Out) (g : Group) (hr : x.inReplay = false) : Settles g (settleWindow x s o g) := by
  unfold settleWindow
  simp only [hr, Bool.false_eq_true, if_false]
  split
  · refine Settles.trans ?_ (settles_windowPoison _ _ _ _ _ _)
    exact .plain rfl rfl rfl
  · exact .plain rfl rfl rfl

/-- What follows an effect: only the group and the time change, and the group only as `Settles` says. -/
theorem finishIssue_spec (x : Ctx) (s : State) (o : Out) (g : Group) (hg : mfind x.g.gid s.groups = some g) (hk : g.gid = x.g.gid)
    (hr : x.inReplay = false) :
    ∃ g', mfind x.g.gid (finishIssue x s o).groups = some g' ∧ KeepsOutside s (finishIssue x s o) x.g.gid ∧ Settles g g' := by
  have put : ∀ g6 : Group, Settles g g6 → mfind x.g.gid (setGroup g6 s).groups = some g6 ∧ KeepsOutside s (setGroup g6 s) x.g.gid ∧ g6.gid = x.g.gid := by
    intro g6 h6
    have hgid : g6.gid = x.g.gid := h6.gid.trans hk
    rw [← hgid]
    exact ⟨find_setGroup _ _, keepsOutside_setGroup _ _, rfl⟩
  unfold finishIssue
  rw [hg]
  dsimp only
  by_cases hs : x.g.service = true
  · rw [if_pos hs]
    have h1 := settles_service x o (slotTime s x.g) g
    obtain ⟨k1, k2, _⟩ := put _ h1
    exact ⟨_, k1, k2.trans (keepsOutside_slotTick _ _ _ _), h1⟩
  · rw [if_neg hs]
    have h1 := (settles_settleLoops x o (slotTime s x.g) g).trans (settles_settleWindow x s o _ hr)
    obtain ⟨k1, k2, k3⟩ := put _ h1
    generalize settleWindow x s o (settleLoops x o (slotTime s x.g) g).1 = g6 at *
    by_cases ha : (settleLoops x o (slotTime s x.g) g).2 = true
    · rw [if_pos ha]
      obtain ⟨g', m1, m2, m3⟩ := recapture_spec (setGroup g6 s) x.g.gid g6 k1 k3
      exact ⟨g', m1, (k2.trans m2).trans (keepsOutside_slotTick _ _ _ _), h1.trans m3⟩
    · rw [if_neg ha]
      exact ⟨g6, k1, k2.trans (keepsOutside_slotTick _ _ _ _), h1⟩

/-- An issue that no check stops does what its instruction's own effect gives. -/
theorem exec_body {i : Instr} {s : State} {x : Ctx} (body : Ctx → Res) (hx : Issues i s x) (hg : Goes x) (he : exec i s = runWord x.r body s) :
    exec i s = match body x with
      | .trap t => .next (trapNow x t)
      | .trapIn s1 t => .next (trapNow { x with s := s1 } t)
      | .hold => .next s
      | .park => .next (finishIssue x (setGroup { x.g with parkWide := x.g.parkWide ||| x.mask } s) { stay := x.mask })
      | .ok s1 o => if overCount s1 x.g.gid then .next s else .next (finishIssue x s1 o) := by
  obtain ⟨xs, g, b, gr, r, info, mask, pc⟩ := x
  obtain ⟨_, h2, h3, _, h5, h6, h7, h8, h9⟩ := hx
  dsimp only at h2 h3 h5 h6 h7 h8 h9 he
  subst h2 h7 h8 h9
  obtain ⟨k1, k2, k3, k4, _⟩ := hg
  dsimp only at k2 k3
  have hd : (g.service && serviceDouble r.op) = false := by
    cases h : g.service
    · rfl
    · exact k3 h
  rw [he]
  simp only [runWord, h3, h5, h6]
  rw [k1]
  dsimp only
  rw [k2]
  dsimp only
  rw [hd]
  simp only [Bool.false_eq_true, if_false, settleRes]
  rw [k4]
  all_goals
    dsimp only
    generalize body _ = b
    cases b <;> rfl

/-- The form in which most statements say it. -/
theorem endsWith_of {i : Instr} {s s1 : State} {x : Ctx} {o : Out} (body : Ctx → Res) (hx : Issues i s x) (hg : Goes x)
    (he : exec i s = runWord x.r body s) (hb : body x = .ok s1 o) : EndsWith i s x s1 o := by
  intro hc
  rw [exec_body body hx hg he, hb]
  simp only [hc, Bool.false_eq_true, if_false]

/-- Counters within their bound stay so when only registers change. -/
theorem overCount_setGroup (g h : Group) (s : State) (hh : h.gid = g.gid) (hc : ∀ e ∈ h.cnts, e.2 ≤ 255) : overCount (setGroup h s) g.gid = false := by
  unfold overCount
  rw [← hh, find_setGroup]
  dsimp only
  rw [List.any_eq_false]
  intro e he
  have := hc e he
  simp; omega

/-- An issue whose effect changes only registers of its group. -/
theorem exec_regs {i : Instr} {s : State} {x : Ctx} (body : Ctx → Res) (hx : Issues i s x) (hg : Goes x) (hc : Calm x)
    (he : exec i s = runWord x.r body s) (g1 : Group) (o : Out) (hb : body x = .ok (setGroup g1 x.s) o) (hr : RegsOnly x.g g1) :
    ∃ t g', exec i s = .next t ∧ mfind x.g.gid t.groups = some g' ∧ KeepsOutside s t x.g.gid ∧ KeepsGroup x.g g' ∧ Settles g1 g' := by
  have hgid : g1.gid = x.g.gid := by unfold RegsOnly at hr; rw [← hr]
  have hcn : g1.cnts = x.g.cnts := by unfold RegsOnly at hr; rw [← hr]
  have h1 := endsWith_of body hx hg he hb (overCount_setGroup x.g g1 x.s hgid (by rw [hcn]; exact hg.counters))
  have hf : mfind x.g.gid (setGroup g1 x.s).groups = some g1 := by rw [← hgid]; exact find_setGroup _ _
  have hin : x.inReplay = false := by simp [Ctx.inReplay, hc.forward]
  obtain ⟨g', k1, k2, k3⟩ := finishIssue_spec x (setGroup g1 x.s) o g1 hf hgid hin
  refine ⟨_, g', h1, k1, ?_, hr.keeps.trans k3.keeps, k3⟩
  have h0 := keepsOutside_setGroup g1 x.s
  rw [hgid] at h0
  rw [← hx.st]
  exact h0.trans k2

theorem mem_lanesOf {m : LaneMask} {l : Nat} : l ∈ lanesOf m ↔ l < 96 ∧ hasLane m l = true := by
  simp [lanesOf, hasLane, List.mem_filter]

theorem lowLane_mem {m : LaneMask} (h : lanesOf m ≠ []) : lowLane m ∈ lanesOf m := by
  unfold lowLane
  cases hl : lanesOf m with
  | nil => exact absurd hl h
  | cons a as => simp

/-- The lanes that compute a result are lanes of the issue. -/
theorem workLanes_mem (x : Ctx) : ∀ l ∈ workLanes x, l ∈ x.lanes := by
  intro l hl
  unfold workLanes at hl
  dsimp only at hl
  split at hl
  · split at hl
    · cases hl
    · rename_i hne
      simp only [List.mem_singleton] at hl
      subst hl
      refine lowLane_mem (fun h => hne ?_)
      have : x.lanes = [] := h
      rw [this]; rfl
  · exact (List.mem_filter.mp hl).1

theorem workLanes_lt (x : Ctx) : ∀ l ∈ workLanes x, l < 96 := fun l hl => (mem_lanesOf.mp (workLanes_mem x l hl)).1

/-- With no register poisoned nothing that a lane reads is. -/
theorem getPoison_clean (g : Group) (h : g.poison = []) (c l : Nat) : getPoison g c l = false := by
  simp [getPoison, h, cget, mfind]

theorem readCode_clean (x : Ctx) (h : x.g.poison = []) (t : OTy) (c l : Nat) : (readCode x t c l).2 = false := by
  unfold readCode
  dsimp only
  repeat' split
  all_goals simp [getPoison_clean x.g h]

theorem readSrc_clean (x : Ctx) (h : x.g.poison = []) (t : OTy) (c r l : Nat) : (readSrc x t c r l).2 = false := by
  unfold readSrc
  dsimp only
  repeat' split
  all_goals simp [getPoison_clean x.g h, readCode_clean x h]

theorem readSlot_clean (x : Ctx) (h : x.g.poison = []) (sl : Slot) (c r l : Nat) : (readSlot x sl c r l).2 = false := by
  unfold readSlot; split
  · rfl
  · exact readSrc_clean x h _ _ _ _

theorem srcA_clean (x : Ctx) (h : x.g.poison = []) (l : Nat) : (srcA x l).2 = false := readSlot_clean x h _ _ _ _
theorem srcB_clean (x : Ctx) (h : x.g.poison = []) (l : Nat) : (srcB x l).2 = false := readSlot_clean x h _ _ _ _
theorem srcC_clean (x : Ctx) (h : x.g.poison = []) (l : Nat) : (srcC x l).2 = false := readSlot_clean x h _ _ _ _

theorem predOf_clean (x : Ctx) (h : x.g.poison = []) (l : Nat) : (predOf x l).2 = false := by
  unfold predOf
  split
  · exact readCode_clean x h _ _ _
  · rfl

theorem ppLanes_clean (x : Ctx) (h : x.g.poison = []) : ppLanes x = [] := by
  simp [ppLanes, predOf_clean x h]

/-- Writing one result per lane: the registers of each lane that computes one hold its words without poison, all others are as
they were. -/
theorem fold_writeDst (x : Ctx) (n : Nat) (f : Nat → Nat) (hr : x.inReplay = false) (hd : isLc x.r.d = false)
    (hw : ∀ k, k < n → isV (x.r.d + k) = isV x.r.d) (ls : List Nat) (hl : ∀ l ∈ ls, l < 96) (hu : isV x.r.d = false → ls.length ≤ 1) :
    ∀ g, RegsOnly g ((ls.map (fun l => (l, f l, false))).foldl (fun g e => writeDst x g x.r.d n e.1 e.2.1 e.2.2) g) ∧
      (∀ l ∈ ls, ∀ k, k < n → getReg ((ls.map (fun l => (l, f l, false))).foldl (fun g e => writeDst x g x.r.d n e.1 e.2.1 e.2.2) g) (x.r.d + k) l = bits (f l) (32 * k) 32 ∧
        getPoison ((ls.map (fun l => (l, f l, false))).foldl (fun g e => writeDst x g x.r.d n e.1 e.2.1 e.2.2) g) (x.r.d + k) l = false) ∧
      KeepsRegs g ((ls.map (fun l => (l, f l, false))).foldl (fun g e => writeDst x g x.r.d n e.1 e.2.1 e.2.2) g) x.r.d n ls := by
  induction ls with
  | nil =>
    intro g
    exact ⟨rfl, fun l h => (by cases h), fun _ _ _ _ _ => ⟨rfl, rfl⟩⟩
  | cons l ls ih =>
    intro g
    have hl0 : l < 96 := hl l (by simp)
    obtain ⟨a1, a2⟩ := writeDst_spec x g x.r.d n l (f l) false hr hl0
    have ih' := ih (fun k hk => hl k (List.mem_cons_of_mem _ hk)) (fun h => by have := hu h; simp at this; simp [this])
      (writeDst x g x.r.d n l (f l) false)
    simp only [List.map_cons, List.foldl_cons]
    have hnil : ls = [] → (ls.map (fun l => (l, f l, false))).foldl (fun g e => writeDst x g x.r.d n e.1 e.2.1 e.2.2)
        (writeDst x g x.r.d n l (f l) false) = writeDst x g x.r.d n l (f l) false := fun e => by rw [e]; rfl
    generalize (ls.map (fun l => (l, f l, false))).foldl (fun g e => writeDst x g x.r.d n e.1 e.2.1 e.2.2) (writeDst x g x.r.d n l (f l) false) = h at *
    obtain ⟨b1, b2, b3⟩ := ih'
    refine ⟨a1.trans b1, fun m hm k hk => ?_, fun c m hc hm hout => ?_⟩
    · by_cases hin : m ∈ ls
      · exact b2 m hin k hk
      · have hml : m = l := by simpa [hin] using hm
        subst hml
        have hdk : x.r.d + k < 944 ∨ ¬ x.r.d + k < 944 := by omega
        have keep : getReg h (x.r.d + k) m = getReg (writeDst x g x.r.d n m (f m) false) (x.r.d + k) m ∧
            getPoison h (x.r.d + k) m = getPoison (writeDst x g x.r.d n m (f m) false) (x.r.d + k) m := by
          by_cases hv : isV x.r.d = true
          · have hvk : isV (x.r.d + k) = true := by rw [hw k hk]; exact hv
            have hlt : x.r.d + k < 944 := by simp [isV] at hvk; omega
            exact b3 _ _ hlt hl0 (Or.inr ⟨hvk, hin⟩)
          · have hv' : isV x.r.d = false := by simpa using hv
            have hlen := hu hv'
            rw [hnil (by simpa using hlen)]
            exact ⟨rfl, rfl⟩
        rw [keep.1, keep.2]
        obtain ⟨c1, c2⟩ := a2 (x.r.d + k) m hl0
        rw [c1, c2]
        rw [if_pos ⟨by omega, by omega, fun _ => rfl⟩, if_pos ⟨hd, by omega, by omega, fun _ => rfl⟩, Nat.add_sub_cancel_left]
        exact ⟨rfl, rfl⟩
    · have hb := b3 c m hc hm (by
        rcases hout with h1 | ⟨h1, h2⟩
        · exact Or.inl h1
        · exact Or.inr ⟨h1, fun k => h2 (List.mem_cons_of_mem _ k)⟩)
      obtain ⟨c1, c2⟩ := a2 c m hm
      rw [hb.1, hb.2, c1, c2]
      have hn : ¬ (x.r.d ≤ c ∧ c < x.r.d + n ∧ (isV c = true → l = m)) := by
        rintro ⟨k1, k2, k3⟩
        rcases hout with h1 | ⟨h1, h2⟩
        · exact h1 ⟨k1, k2⟩
        · exact h2 (by simp [k3 h1])
      rw [if_neg hn, if_neg (fun k => hn k.2)]
      exact ⟨rfl, rfl⟩

theorem workLanes_uni (x : Ctx) (h : x.r.uni = true) : (workLanes x).length ≤ 1 := by
  unfold workLanes
  dsimp only
  rw [if_pos h]
  split <;> simp

theorem LaneDst.one {x : Ctx} {n : Nat} (h : LaneDst x n) : (isV x.r.d = false → (workLanes x).length ≤ 1) ∧ isLc x.r.d = false ∧
    ∀ k, k < n → isV (x.r.d + k) = isV x.r.d := by
  rcases h with ⟨h1, h2⟩ | ⟨h1, h2⟩
  · refine ⟨fun h => (by rw [h] at h1; cases h1), ?_, fun k hk => ?_⟩
    · simp [isV, isLc] at *; omega
    · simp [isV] at *; omega
  · refine ⟨fun _ => workLanes_uni x h1, ?_, fun k hk => ?_⟩
    · simp [isS, isLc] at *; omega
    · simp [isV, isS] at *; omega

/-- An effect that writes one clean result in each lane of `ls` and changes nothing else. -/
theorem exec_writes {i : Instr} {s : State} {x : Ctx} (body : Ctx → Res) (hx : Issues i s x) (hg : Goes x) (hc : Calm x)
    (he : exec i s = runWord x.r body s) (n : Nat) (f : Nat → Nat) (o : Out) (ls : List Nat)
    (hd : isLc x.r.d = false) (hw : ∀ k, k < n → isV (x.r.d + k) = isV x.r.d) (hl : ∀ l ∈ ls, l < 96) (hu : isV x.r.d = false → ls.length ≤ 1)
    (hlt : ∀ l ∈ ls, ∀ k, k < n → x.r.d + k < 944)
    (hb : body x = .ok (setGroup ((ls.map (fun l => (l, f l, false))).foldl (fun g e => writeDst x g x.r.d n e.1 e.2.1 e.2.2) x.g) x.s) o) :
    ∃ t g', exec i s = .next t ∧ mfind x.g.gid t.groups = some g' ∧ KeepsOutside s t x.g.gid ∧ KeepsGroup x.g g' ∧
      (∀ l ∈ ls, ∀ k, k < n → getReg g' (x.r.d + k) l = bits (f l) (32 * k) 32 ∧ getPoison g' (x.r.d + k) l = false) ∧
      KeepsRegs x.g g' x.r.d n ls := by
  have hin : x.inReplay = false := by simp [Ctx.inReplay, hc.forward]
  obtain ⟨a1, a2, a3⟩ := fold_writeDst x n f hin hd hw ls hl hu x.g
  obtain ⟨t, g', b1, b2, b3, b4, b5⟩ := exec_regs body hx hg hc he _ o hb a1
  have hp : ∀ c m, getPoison g' c m = getPoison ((ls.map (fun l => (l, f l, false))).foldl (fun g e => writeDst x g x.r.d n e.1 e.2.1 e.2.2) x.g) c m := by
    intro c m; simp only [getPoison, b5.poison]
  refine ⟨t, g', b1, b2, b3, b4, fun l hm k hk => ?_, fun c m hc hm ho => ?_⟩
  · rw [hp, b5.regs _ _ (hlt l hm k hk) (hl l hm)]
    exact a2 l hm k hk
  · rw [hp, b5.regs _ _ hc hm]
    exact a3 c m hc hm ho

/-- The instructions that compute a result per lane. -/
theorem laneOp_computes {i : Instr} {s : State} {x : Ctx} {n : Nat} (body : Ctx → Res) (hx : Issues i s x) (hg : Goes x) (hc : Calm x)
    (hd : LaneDst x n) (hn : n ≤ 16) (he : exec i s = runWord x.r body s) (sr : Bool) (f : Nat → Nat × Bool) (hb : body x = laneOp x n sr f)
    (hp : ∀ l, (f l).2 = false) : Computes i s x n (fun l => (f l).1) := by
  obtain ⟨h1, h2, h3⟩ := hd.one
  have hout : (workLanes x).map (fun l => (l, (f l).1, (f l).2 || (predOf x l).2)) = (workLanes x).map (fun l => (l, (f l).1, false)) := by
    refine List.map_congr_left (fun l _ => ?_)
    rw [hp, predOf_clean x hc.clean]; rfl
  have hlt : ∀ k, k < n → x.r.d + k < 944 := by
    intro k hk
    rcases hd with ⟨h1, h2⟩ | ⟨_, h2⟩
    · simp [isV] at *; omega
    · simp [isS] at *; omega
  unfold laneOp at hb
  dsimp only at hb
  rw [hout] at hb
  obtain ⟨t, g', k1, k2⟩ := exec_writes body hx hg hc he n (fun l => (f l).1) _ (workLanes x) h2 h3 (workLanes_lt x) h1 (fun _ _ => hlt) hb
  exact ⟨t, k1, g', k2⟩

/-- A word that meets no trap of `wordTrap` meets none of its static checks, and has no bad descriptor. -/
theorem wordTrap_none (x : Ctx) (h : wordTrap x = none) :
    staticTrap x.r x.g.role x.g.service x.g.k x.b.ntiles = none ∧ descBad x = false := by
  unfold wordTrap at h
  split at h
  · rename_i e
    refine ⟨e, ?_⟩
    cases k : descBad x with
    | false => rfl
    | true => rw [k] at h; cases h
  · split at h <;> cases h

end Sys2Proof.Machine
end

