-- ==== Sys2Proof/Laws/Ctl.lean ====
section
/-! SUPPORT. The shared operations of the control instructions: what taking a trap does (spec/25 R410, R413), and how a word of pad is
reached, a group-wide instruction joined and a recorded fault passed where nothing stands in the way. -/

namespace Sys2Proof.Machine

theorem cget_fold_cset (v : Nat) (ls : List Nat) (l : Nat) : ∀ m : List (Nat × Nat), cget 0 l (ls.foldl (fun m l => cset 0 l v m) m) = if l ∈ ls then v else cget 0 l m := by
  induction ls with
  | nil => intro m; simp
  | cons a as ih =>
    intro m
    rw [List.foldl_cons, ih, cget_cset]
    by_cases h : l ∈ as
    · simp [h]
    · by_cases h2 : l = a <;> simp [h, h2]

theorem causeCode_le (c : Cause) : causeCode c ≤ 21 := by cases c <;> decide

/-- Taking a trap at user level: what `Traps` says, and the code that the record holds where no poison stands behind it. -/
theorem trapNow_spec (x : Ctx) (t : TrapInfo) (hs : x.g.service = false) :
    ∃ g', Traps x (trapNow x t) t.cause t.lanes g' ∧
      (t.close = 0 → t.fkind = 0 → t.code < 2 ^ 20 → t.cause ≠ .poison → bits g'.tr.cause 16 20 = t.code) := by
  let G : Group := { x.g with
      tr := trapRec x.g x.pc t
      service := true
      spc := (lanesOf x.g.live).foldl (fun m l => cset 0 l (getPart x.s (partOf x.s x.g)).svcEntry m) []
      lastIssue := slotTime x.s x.g
      noBp := t.cause == .addrBreak
      hfault := if t.cause == .haulFault then none else x.g.hfault }
  have e : trapNow x t = slotTick x.g (beatsOf x.mask) (setGroup G x.s) := by
    unfold trapNow takeTrap
    simp only [hs, Bool.false_eq_true, if_false]
    rfl
  rw [e]
  refine ⟨G, ⟨find_setGroup G x.s, (keepsOutside_setGroup G x.s).trans (keepsOutside_slotTick x.g _ _ _), ?_, ?_, ?_, ?_, ?_, ?_, ?_, ?_, ?_, ?_⟩, ?_⟩
  all_goals try rfl
  · intro l hl
    rw [cget_fold_cset, if_pos hl]
  · have := causeCode_le t.cause
    simp only [G, trapRec, bits, Nat.shiftRight_zero]
    repeat' split
    all_goals omega
  · simp only [G, trapRec]; omega
  · intro h1 h2 h3 h4
    have := causeCode_le t.cause
    have hb : (t.cause == Cause.poison) = false := by simpa using h4
    simp only [G, trapRec, bits, h1, h2, hb]
    rw [Nat.shiftRight_eq_div_pow]
    simp
    split <;> split <;> omega

/-- A trap at service level is a double trap, fatal to the partition (R411). -/
theorem trapNow_double (x : Ctx) (t : TrapInfo) (hs : x.g.service = true) :
    trapNow x t = slotTick x.g (beatsOf x.mask) (partFatal (partOf x.s x.g) (coreOf x.s x.g) x.s) := by
  unfold trapNow takeTrap; rw [if_pos hs]

/-- An instruction whose own effect is a trap takes it. -/
theorem exec_trap {i : Instr} {s : State} {x : Ctx} (hx : Issues i s x) (hg : Goes x) (t : TrapInfo) (hb : bodyOf i x = .trap t) :
    exec i s = .next (trapNow x t) := by rw [exec_body _ hx hg hx.exec, hb]

/-- A word that a check of R71 refuses takes that trap for all of ISSUE. -/
theorem exec_wordTrap {i : Instr} {s : State} {x : Ctx} (hx : Issues i s x) (c : Cause) (ha : addrBreak x = none) (hc : wordTrap x = some c) :
    exec i s = .next (trapNow x { cause := c, lanes := x.mask }) := by
  rw [hx.exec]
  obtain ⟨xs, g, b, gr, r, info, mask, pc⟩ := x
  obtain ⟨_, h2, h3, _, h5, h6, h7, h8, h9⟩ := hx
  dsimp only at *
  subst h2 h7 h8 h9
  simp only [runWord, h3, h5, h6]
  rw [ha]; dsimp only; rw [hc]

theorem Issues.grp {i : Instr} {s : State} {x : Ctx} (hx : Issues i s x) : mfind x.g.gid x.s.groups = some x.g := by
  rw [hx.st, hx.key]; exact hx.group

theorem Calm.inReplay {x : Ctx} (hc : Calm x) : x.inReplay = false := by simp [Ctx.inReplay, hc.forward]
theorem Calm.uB {x : Ctx} (hc : Calm x) : (uB x).2 = false := srcB_clean x hc.clean _
theorem Calm.uC {x : Ctx} (hc : Calm x) : (uC x).2 = false := srcC_clean x hc.clean _

theorem haulFault_none {x : Ctx} (h : x.g.hfault = none) (ps : List Path) : haulFault x ps = none := by simp [haulFault, h]

theorem ctlPoison_clean (x : Ctx) (h : x.g.poison = []) (k : Res) : ctlPoison x false k = k := by
  simp [ctlPoison, ppLanes_clean x h]

/-- A group-wide instruction takes effect once the whole group stands at it, and parks its lanes until then (R31). -/
theorem groupWide_calm {x : Ctx} (hc : Calm x) (k : LaneMask → Res) :
    groupWide x k = if (x.g.live &&& ~~~(x.mask ||| parkedHere x)).toNat = 0 then k (parkedHere x) else .park := by
  unfold groupWide; rw [hc.inReplay]; simp

/-- A word of pad that stands where `PadWordAt` says is reached. -/
theorem padWord_ok {x : Ctx} (hc : Calm x) (n : Nat) (reads : Bool) (k : Nat → Res) (off : Nat) (h : PadWordAt x n off) (hr : reads = true → padBad x.b off n = false) :
    padWord x n false reads k = k off := by
  obtain ⟨h1, h2, h3⟩ := h
  unfold padWord
  simp only [hc.uB, ppLanes_clean x hc.clean, ← h1, h2, h3]
  cases reads
  · simp
  · simp [hr rfl]

/-- So it is for an instruction that writes it, with an enabled lane. -/
theorem padObject_ok {x : Ctx} (hc : Calm x) (he : enLanes x ≠ []) (n : Nat) (reads : Bool) (k : Nat → Res) (off : Nat) (h : PadWordAt x n off) (hr : reads = true → padBad x.b off n = false) :
    padObject x n false reads k = k off := by
  unfold padObject
  rw [padWord_ok hc n reads _ off h hr, hc.inReplay]
  simp [he]

end Sys2Proof.Machine
end

