-- ==== Sys2Proof/Laws/State.lean ====
section
/-! SUPPORT. Each field after each named update: the field that the update writes takes what it writes, every other keeps its own. -/

namespace Sys2Proof.Machine

@[simp] theorem setGroup_agenda (g : Group) (s : State) : (setGroup g s).agenda = s.agenda := rfl
@[simp] theorem setGroup_isu (g : Group) (s : State) : (setGroup g s).isu = s.isu := rfl
@[simp] theorem setGroup_ev (g : Group) (s : State) : (setGroup g s).ev = s.ev := rfl
@[simp] theorem setGroup_fresh (g : Group) (s : State) : (setGroup g s).fresh = s.fresh := rfl
@[simp] theorem setGroup_groups (g : Group) (s : State) : (setGroup g s).groups = minsert g.gid g s.groups := rfl
@[simp] theorem setGroup_blocks (g : Group) (s : State) : (setGroup g s).blocks = s.blocks := rfl
@[simp] theorem setGroup_grids (g : Group) (s : State) : (setGroup g s).grids = s.grids := rfl
@[simp] theorem setGroup_runs (g : Group) (s : State) : (setGroup g s).runs = s.runs := rfl
@[simp] theorem setGroup_cores (g : Group) (s : State) : (setGroup g s).cores = s.cores := rfl
@[simp] theorem setGroup_parts (g : Group) (s : State) : (setGroup g s).parts = s.parts := rfl
@[simp] theorem setGroup_vfs (g : Group) (s : State) : (setGroup g s).vfs = s.vfs := rfl
@[simp] theorem setGroup_vfIstat (g : Group) (s : State) : (setGroup g s).vfIstat = s.vfIstat := rfl
@[simp] theorem setGroup_ops (g : Group) (s : State) : (setGroup g s).ops = s.ops := rfl
@[simp] theorem setGroup_nextOp (g : Group) (s : State) : (setGroup g s).nextOp = s.nextOp := rfl
@[simp] theorem setGroup_mem (g : Group) (s : State) : (setGroup g s).mem = s.mem := rfl
@[simp] theorem setGroup_tags (g : Group) (s : State) : (setGroup g s).tags = s.tags := rfl
@[simp] theorem setGroup_lineErr (g : Group) (s : State) : (setGroup g s).lineErr = s.lineErr := rfl
@[simp] theorem setGroup_l2Err (g : Group) (s : State) : (setGroup g s).l2Err = s.l2Err := rfl
@[simp] theorem setGroup_l1 (g : Group) (s : State) : (setGroup g s).l1 = s.l1 := rfl
@[simp] theorem setGroup_il (g : Group) (s : State) : (setGroup g s).il = s.il := rfl
@[simp] theorem setGroup_dir (g : Group) (s : State) : (setGroup g s).dir = s.dir := rfl
@[simp] theorem setGroup_updates (g : Group) (s : State) : (setGroup g s).updates = s.updates := rfl
@[simp] theorem setGroup_hostHalf (g : Group) (s : State) : (setGroup g s).hostHalf = s.hostHalf := rfl
@[simp] theorem setGroup_tlb (g : Group) (s : State) : (setGroup g s).tlb = s.tlb := rfl
@[simp] theorem setGroup_dray (g : Group) (s : State) : (setGroup g s).dray = s.dray := rfl
@[simp] theorem setGroup_ways (g : Group) (s : State) : (setGroup g s).ways = s.ways := rfl
@[simp] theorem setGroup_pkg (g : Group) (s : State) : (setGroup g s).pkg = s.pkg := rfl
@[simp] theorem setGroup_hostWinBase (g : Group) (s : State) : (setGroup g s).hostWinBase = s.hostWinBase := rfl
@[simp] theorem setGroup_hostWinSize (g : Group) (s : State) : (setGroup g s).hostWinSize = s.hostWinSize := rfl
@[simp] theorem setGroup_boot (g : Group) (s : State) : (setGroup g s).boot = s.boot := rfl
@[simp] theorem setGroup_fab (g : Group) (s : State) : (setGroup g s).fab = s.fab := rfl
@[simp] theorem setGroup_pool (g : Group) (s : State) : (setGroup g s).pool = s.pool := rfl
@[simp] theorem setGroup_ptp (g : Group) (s : State) : (setGroup g s).ptp = s.ptp := rfl
@[simp] theorem setGroup_cycle (g : Group) (s : State) : (setGroup g s).cycle = s.cycle := rfl
@[simp] theorem setGroup_past (g : Group) (s : State) : (setGroup g s).past = s.past := rfl
@[simp] theorem setGroup_stamp (g : Group) (s : State) : (setGroup g s).stamp = s.stamp := rfl
@[simp] theorem setGroup_relAt (g : Group) (s : State) : (setGroup g s).relAt = s.relAt := rfl
@[simp] theorem setGroup_bufHit (g : Group) (s : State) : (setGroup g s).bufHit = s.bufHit := rfl
@[simp] theorem setGroup_hostLinks (g : Group) (s : State) : (setGroup g s).hostLinks = s.hostLinks := rfl
@[simp] theorem setGroup_idle (g : Group) (s : State) : (setGroup g s).idle = s.idle := rfl
@[simp] theorem setGroup_slotClk (g : Group) (s : State) : (setGroup g s).slotClk = s.slotClk := rfl
@[simp] theorem setGroup_compTurn (g : Group) (s : State) : (setGroup g s).compTurn = s.compTurn := rfl
@[simp] theorem setGroup_irqs (g : Group) (s : State) : (setGroup g s).irqs = s.irqs := rfl

@[simp] theorem setBlock_agenda (b : Block) (s : State) : (setBlock b s).agenda = s.agenda := rfl
@[simp] theorem setBlock_isu (b : Block) (s : State) : (setBlock b s).isu = s.isu := rfl
@[simp] theorem setBlock_ev (b : Block) (s : State) : (setBlock b s).ev = s.ev := rfl
@[simp] theorem setBlock_fresh (b : Block) (s : State) : (setBlock b s).fresh = s.fresh := rfl
@[simp] theorem setBlock_groups (b : Block) (s : State) : (setBlock b s).groups = s.groups := rfl
@[simp] theorem setBlock_blocks (b : Block) (s : State) : (setBlock b s).blocks = minsert b.bid b s.blocks := rfl
@[simp] theorem setBlock_grids (b : Block) (s : State) : (setBlock b s).grids = s.grids := rfl
@[simp] theorem setBlock_runs (b : Block) (s : State) : (setBlock b s).runs = s.runs := rfl
@[simp] theorem setBlock_cores (b : Block) (s : State) : (setBlock b s).cores = s.cores := rfl
@[simp] theorem setBlock_parts (b : Block) (s : State) : (setBlock b s).parts = s.parts := rfl
@[simp] theorem setBlock_vfs (b : Block) (s : State) : (setBlock b s).vfs = s.vfs := rfl
@[simp] theorem setBlock_vfIstat (b : Block) (s : State) : (setBlock b s).vfIstat = s.vfIstat := rfl
@[simp] theorem setBlock_ops (b : Block) (s : State) : (setBlock b s).ops = s.ops := rfl
@[simp] theorem setBlock_nextOp (b : Block) (s : State) : (setBlock b s).nextOp = s.nextOp := rfl
@[simp] theorem setBlock_mem (b : Block) (s : State) : (setBlock b s).mem = s.mem := rfl
@[simp] theorem setBlock_tags (b : Block) (s : State) : (setBlock b s).tags = s.tags := rfl
@[simp] theorem setBlock_lineErr (b : Block) (s : State) : (setBlock b s).lineErr = s.lineErr := rfl
@[simp] theorem setBlock_l2Err (b : Block) (s : State) : (setBlock b s).l2Err = s.l2Err := rfl
@[simp] theorem setBlock_l1 (b : Block) (s : State) : (setBlock b s).l1 = s.l1 := rfl
@[simp] theorem setBlock_il (b : Block) (s : State) : (setBlock b s).il = s.il := rfl
@[simp] theorem setBlock_dir (b : Block) (s : State) : (setBlock b s).dir = s.dir := rfl
@[simp] theorem setBlock_updates (b : Block) (s : State) : (setBlock b s).updates = s.updates := rfl
@[simp] theorem setBlock_hostHalf (b : Block) (s : State) : (setBlock b s).hostHalf = s.hostHalf := rfl
@[simp] theorem setBlock_tlb (b : Block) (s : State) : (setBlock b s).tlb = s.tlb := rfl
@[simp] theorem setBlock_dray (b : Block) (s : State) : (setBlock b s).dray = s.dray := rfl
@[simp] theorem setBlock_ways (b : Block) (s : State) : (setBlock b s).ways = s.ways := rfl
@[simp] theorem setBlock_pkg (b : Block) (s : State) : (setBlock b s).pkg = s.pkg := rfl
@[simp] theorem setBlock_hostWinBase (b : Block) (s : State) : (setBlock b s).hostWinBase = s.hostWinBase := rfl
@[simp] theorem setBlock_hostWinSize (b : Block) (s : State) : (setBlock b s).hostWinSize = s.hostWinSize := rfl
@[simp] theorem setBlock_boot (b : Block) (s : State) : (setBlock b s).boot = s.boot := rfl
@[simp] theorem setBlock_fab (b : Block) (s : State) : (setBlock b s).fab = s.fab := rfl
@[simp] theorem setBlock_pool (b : Block) (s : State) : (setBlock b s).pool = s.pool := rfl
@[simp] theorem setBlock_ptp (b : Block) (s : State) : (setBlock b s).ptp = s.ptp := rfl
@[simp] theorem setBlock_cycle (b : Block) (s : State) : (setBlock b s).cycle = s.cycle := rfl
@[simp] theorem setBlock_past (b : Block) (s : State) : (setBlock b s).past = s.past := rfl
@[simp] theorem setBlock_stamp (b : Block) (s : State) : (setBlock b s).stamp = s.stamp := rfl
@[simp] theorem setBlock_relAt (b : Block) (s : State) : (setBlock b s).relAt = s.relAt := rfl
@[simp] theorem setBlock_bufHit (b : Block) (s : State) : (setBlock b s).bufHit = s.bufHit := rfl
@[simp] theorem setBlock_hostLinks (b : Block) (s : State) : (setBlock b s).hostLinks = s.hostLinks := rfl
@[simp] theorem setBlock_idle (b : Block) (s : State) : (setBlock b s).idle = s.idle := rfl
@[simp] theorem setBlock_slotClk (b : Block) (s : State) : (setBlock b s).slotClk = s.slotClk := rfl
@[simp] theorem setBlock_compTurn (b : Block) (s : State) : (setBlock b s).compTurn = s.compTurn := rfl
@[simp] theorem setBlock_irqs (b : Block) (s : State) : (setBlock b s).irqs = s.irqs := rfl

@[simp] theorem setGrid_agenda (g : Grid) (s : State) : (setGrid g s).agenda = s.agenda := rfl
@[simp] theorem setGrid_isu (g : Grid) (s : State) : (setGrid g s).isu = s.isu := rfl
@[simp] theorem setGrid_ev (g : Grid) (s : State) : (setGrid g s).ev = s.ev := rfl
@[simp] theorem setGrid_fresh (g : Grid) (s : State) : (setGrid g s).fresh = s.fresh := rfl
@[simp] theorem setGrid_groups (g : Grid) (s : State) : (setGrid g s).groups = s.groups := rfl
@[simp] theorem setGrid_blocks (g : Grid) (s : State) : (setGrid g s).blocks = s.blocks := rfl
@[simp] theorem setGrid_grids (g : Grid) (s : State) : (setGrid g s).grids = minsert g.gid g s.grids := rfl
@[simp] theorem setGrid_runs (g : Grid) (s : State) : (setGrid g s).runs = s.runs := rfl
@[simp] theorem setGrid_cores (g : Grid) (s : State) : (setGrid g s).cores = s.cores := rfl
@[simp] theorem setGrid_parts (g : Grid) (s : State) : (setGrid g s).parts = s.parts := rfl
@[simp] theorem setGrid_vfs (g : Grid) (s : State) : (setGrid g s).vfs = s.vfs := rfl
@[simp] theorem setGrid_vfIstat (g : Grid) (s : State) : (setGrid g s).vfIstat = s.vfIstat := rfl
@[simp] theorem setGrid_ops (g : Grid) (s : State) : (setGrid g s).ops = s.ops := rfl
@[simp] theorem setGrid_nextOp (g : Grid) (s : State) : (setGrid g s).nextOp = s.nextOp := rfl
@[simp] theorem setGrid_mem (g : Grid) (s : State) : (setGrid g s).mem = s.mem := rfl
@[simp] theorem setGrid_tags (g : Grid) (s : State) : (setGrid g s).tags = s.tags := rfl
@[simp] theorem setGrid_lineErr (g : Grid) (s : State) : (setGrid g s).lineErr = s.lineErr := rfl
@[simp] theorem setGrid_l2Err (g : Grid) (s : State) : (setGrid g s).l2Err = s.l2Err := rfl
@[simp] theorem setGrid_l1 (g : Grid) (s : State) : (setGrid g s).l1 = s.l1 := rfl
@[simp] theorem setGrid_il (g : Grid) (s : State) : (setGrid g s).il = s.il := rfl
@[simp] theorem setGrid_dir (g : Grid) (s : State) : (setGrid g s).dir = s.dir := rfl
@[simp] theorem setGrid_updates (g : Grid) (s : State) : (setGrid g s).updates = s.updates := rfl
@[simp] theorem setGrid_hostHalf (g : Grid) (s : State) : (setGrid g s).hostHalf = s.hostHalf := rfl
@[simp] theorem setGrid_tlb (g : Grid) (s : State) : (setGrid g s).tlb = s.tlb := rfl
@[simp] theorem setGrid_dray (g : Grid) (s : State) : (setGrid g s).dray = s.dray := rfl
@[simp] theorem setGrid_ways (g : Grid) (s : State) : (setGrid g s).ways = s.ways := rfl
@[simp] theorem setGrid_pkg (g : Grid) (s : State) : (setGrid g s).pkg = s.pkg := rfl
@[simp] theorem setGrid_hostWinBase (g : Grid) (s : State) : (setGrid g s).hostWinBase = s.hostWinBase := rfl
@[simp] theorem setGrid_hostWinSize (g : Grid) (s : State) : (setGrid g s).hostWinSize = s.hostWinSize := rfl
@[simp] theorem setGrid_boot (g : Grid) (s : State) : (setGrid g s).boot = s.boot := rfl
@[simp] theorem setGrid_fab (g : Grid) (s : State) : (setGrid g s).fab = s.fab := rfl
@[simp] theorem setGrid_pool (g : Grid) (s : State) : (setGrid g s).pool = s.pool := rfl
@[simp] theorem setGrid_ptp (g : Grid) (s : State) : (setGrid g s).ptp = s.ptp := rfl
@[simp] theorem setGrid_cycle (g : Grid) (s : State) : (setGrid g s).cycle = s.cycle := rfl
@[simp] theorem setGrid_past (g : Grid) (s : State) : (setGrid g s).past = s.past := rfl
@[simp] theorem setGrid_stamp (g : Grid) (s : State) : (setGrid g s).stamp = s.stamp := rfl
@[simp] theorem setGrid_relAt (g : Grid) (s : State) : (setGrid g s).relAt = s.relAt := rfl
@[simp] theorem setGrid_bufHit (g : Grid) (s : State) : (setGrid g s).bufHit = s.bufHit := rfl
@[simp] theorem setGrid_hostLinks (g : Grid) (s : State) : (setGrid g s).hostLinks = s.hostLinks := rfl
@[simp] theorem setGrid_idle (g : Grid) (s : State) : (setGrid g s).idle = s.idle := rfl
@[simp] theorem setGrid_slotClk (g : Grid) (s : State) : (setGrid g s).slotClk = s.slotClk := rfl
@[simp] theorem setGrid_compTurn (g : Grid) (s : State) : (setGrid g s).compTurn = s.compTurn := rfl
@[simp] theorem setGrid_irqs (g : Grid) (s : State) : (setGrid g s).irqs = s.irqs := rfl

@[simp] theorem setPart_agenda (p : Nat) (v : Part) (s : State) : (setPart p v s).agenda = s.agenda := rfl
@[simp] theorem setPart_isu (p : Nat) (v : Part) (s : State) : (setPart p v s).isu = s.isu := rfl
@[simp] theorem setPart_ev (p : Nat) (v : Part) (s : State) : (setPart p v s).ev = s.ev := rfl
@[simp] theorem setPart_fresh (p : Nat) (v : Part) (s : State) : (setPart p v s).fresh = s.fresh := rfl
@[simp] theorem setPart_groups (p : Nat) (v : Part) (s : State) : (setPart p v s).groups = s.groups := rfl
@[simp] theorem setPart_blocks (p : Nat) (v : Part) (s : State) : (setPart p v s).blocks = s.blocks := rfl
@[simp] theorem setPart_grids (p : Nat) (v : Part) (s : State) : (setPart p v s).grids = s.grids := rfl
@[simp] theorem setPart_runs (p : Nat) (v : Part) (s : State) : (setPart p v s).runs = s.runs := rfl
@[simp] theorem setPart_cores (p : Nat) (v : Part) (s : State) : (setPart p v s).cores = s.cores := rfl
@[simp] theorem setPart_parts (p : Nat) (v : Part) (s : State) : (setPart p v s).parts = minsert p v s.parts := rfl
@[simp] theorem setPart_vfs (p : Nat) (v : Part) (s : State) : (setPart p v s).vfs = s.vfs := rfl
@[simp] theorem setPart_vfIstat (p : Nat) (v : Part) (s : State) : (setPart p v s).vfIstat = s.vfIstat := rfl
@[simp] theorem setPart_ops (p : Nat) (v : Part) (s : State) : (setPart p v s).ops = s.ops := rfl
@[simp] theorem setPart_nextOp (p : Nat) (v : Part) (s : State) : (setPart p v s).nextOp = s.nextOp := rfl
@[simp] theorem setPart_mem (p : Nat) (v : Part) (s : State) : (setPart p v s).mem = s.mem := rfl
@[simp] theorem setPart_tags (p : Nat) (v : Part) (s : State) : (setPart p v s).tags = s.tags := rfl
@[simp] theorem setPart_lineErr (p : Nat) (v : Part) (s : State) : (setPart p v s).lineErr = s.lineErr := rfl
@[simp] theorem setPart_l2Err (p : Nat) (v : Part) (s : State) : (setPart p v s).l2Err = s.l2Err := rfl
@[simp] theorem setPart_l1 (p : Nat) (v : Part) (s : State) : (setPart p v s).l1 = s.l1 := rfl
@[simp] theorem setPart_il (p : Nat) (v : Part) (s : State) : (setPart p v s).il = s.il := rfl
@[simp] theorem setPart_dir (p : Nat) (v : Part) (s : State) : (setPart p v s).dir = s.dir := rfl
@[simp] theorem setPart_updates (p : Nat) (v : Part) (s : State) : (setPart p v s).updates = s.updates := rfl
@[simp] theorem setPart_hostHalf (p : Nat) (v : Part) (s : State) : (setPart p v s).hostHalf = s.hostHalf := rfl
@[simp] theorem setPart_tlb (p : Nat) (v : Part) (s : State) : (setPart p v s).tlb = s.tlb := rfl
@[simp] theorem setPart_dray (p : Nat) (v : Part) (s : State) : (setPart p v s).dray = s.dray := rfl
@[simp] theorem setPart_ways (p : Nat) (v : Part) (s : State) : (setPart p v s).ways = s.ways := rfl
@[simp] theorem setPart_pkg (p : Nat) (v : Part) (s : State) : (setPart p v s).pkg = s.pkg := rfl
@[simp] theorem setPart_hostWinBase (p : Nat) (v : Part) (s : State) : (setPart p v s).hostWinBase = s.hostWinBase := rfl
@[simp] theorem setPart_hostWinSize (p : Nat) (v : Part) (s : State) : (setPart p v s).hostWinSize = s.hostWinSize := rfl
@[simp] theorem setPart_boot (p : Nat) (v : Part) (s : State) : (setPart p v s).boot = s.boot := rfl
@[simp] theorem setPart_fab (p : Nat) (v : Part) (s : State) : (setPart p v s).fab = s.fab := rfl
@[simp] theorem setPart_pool (p : Nat) (v : Part) (s : State) : (setPart p v s).pool = s.pool := rfl
@[simp] theorem setPart_ptp (p : Nat) (v : Part) (s : State) : (setPart p v s).ptp = s.ptp := rfl
@[simp] theorem setPart_cycle (p : Nat) (v : Part) (s : State) : (setPart p v s).cycle = s.cycle := rfl
@[simp] theorem setPart_past (p : Nat) (v : Part) (s : State) : (setPart p v s).past = s.past := rfl
@[simp] theorem setPart_stamp (p : Nat) (v : Part) (s : State) : (setPart p v s).stamp = s.stamp := rfl
@[simp] theorem setPart_relAt (p : Nat) (v : Part) (s : State) : (setPart p v s).relAt = s.relAt := rfl
@[simp] theorem setPart_bufHit (p : Nat) (v : Part) (s : State) : (setPart p v s).bufHit = s.bufHit := rfl
@[simp] theorem setPart_hostLinks (p : Nat) (v : Part) (s : State) : (setPart p v s).hostLinks = s.hostLinks := rfl
@[simp] theorem setPart_idle (p : Nat) (v : Part) (s : State) : (setPart p v s).idle = s.idle := rfl
@[simp] theorem setPart_slotClk (p : Nat) (v : Part) (s : State) : (setPart p v s).slotClk = s.slotClk := rfl
@[simp] theorem setPart_compTurn (p : Nat) (v : Part) (s : State) : (setPart p v s).compTurn = s.compTurn := rfl
@[simp] theorem setPart_irqs (p : Nat) (v : Part) (s : State) : (setPart p v s).irqs = s.irqs := rfl

@[simp] theorem setCore_agenda (c : Nat) (v : Core) (s : State) : (setCore c v s).agenda = s.agenda := rfl
@[simp] theorem setCore_isu (c : Nat) (v : Core) (s : State) : (setCore c v s).isu = s.isu := rfl
@[simp] theorem setCore_ev (c : Nat) (v : Core) (s : State) : (setCore c v s).ev = s.ev := rfl
@[simp] theorem setCore_fresh (c : Nat) (v : Core) (s : State) : (setCore c v s).fresh = s.fresh := rfl
@[simp] theorem setCore_groups (c : Nat) (v : Core) (s : State) : (setCore c v s).groups = s.groups := rfl
@[simp] theorem setCore_blocks (c : Nat) (v : Core) (s : State) : (setCore c v s).blocks = s.blocks := rfl
@[simp] theorem setCore_grids (c : Nat) (v : Core) (s : State) : (setCore c v s).grids = s.grids := rfl
@[simp] theorem setCore_runs (c : Nat) (v : Core) (s : State) : (setCore c v s).runs = s.runs := rfl
@[simp] theorem setCore_cores (c : Nat) (v : Core) (s : State) : (setCore c v s).cores = minsert c v s.cores := rfl
@[simp] theorem setCore_parts (c : Nat) (v : Core) (s : State) : (setCore c v s).parts = s.parts := rfl
@[simp] theorem setCore_vfs (c : Nat) (v : Core) (s : State) : (setCore c v s).vfs = s.vfs := rfl
@[simp] theorem setCore_vfIstat (c : Nat) (v : Core) (s : State) : (setCore c v s).vfIstat = s.vfIstat := rfl
@[simp] theorem setCore_ops (c : Nat) (v : Core) (s : State) : (setCore c v s).ops = s.ops := rfl
@[simp] theorem setCore_nextOp (c : Nat) (v : Core) (s : State) : (setCore c v s).nextOp = s.nextOp := rfl
@[simp] theorem setCore_mem (c : Nat) (v : Core) (s : State) : (setCore c v s).mem = s.mem := rfl
@[simp] theorem setCore_tags (c : Nat) (v : Core) (s : State) : (setCore c v s).tags = s.tags := rfl
@[simp] theorem setCore_lineErr (c : Nat) (v : Core) (s : State) : (setCore c v s).lineErr = s.lineErr := rfl
@[simp] theorem setCore_l2Err (c : Nat) (v : Core) (s : State) : (setCore c v s).l2Err = s.l2Err := rfl
@[simp] theorem setCore_l1 (c : Nat) (v : Core) (s : State) : (setCore c v s).l1 = s.l1 := rfl
@[simp] theorem setCore_il (c : Nat) (v : Core) (s : State) : (setCore c v s).il = s.il := rfl
@[simp] theorem setCore_dir (c : Nat) (v : Core) (s : State) : (setCore c v s).dir = s.dir := rfl
@[simp] theorem setCore_updates (c : Nat) (v : Core) (s : State) : (setCore c v s).updates = s.updates := rfl
@[simp] theorem setCore_hostHalf (c : Nat) (v : Core) (s : State) : (setCore c v s).hostHalf = s.hostHalf := rfl
@[simp] theorem setCore_tlb (c : Nat) (v : Core) (s : State) : (setCore c v s).tlb = s.tlb := rfl
@[simp] theorem setCore_dray (c : Nat) (v : Core) (s : State) : (setCore c v s).dray = s.dray := rfl
@[simp] theorem setCore_ways (c : Nat) (v : Core) (s : State) : (setCore c v s).ways = s.ways := rfl
@[simp] theorem setCore_pkg (c : Nat) (v : Core) (s : State) : (setCore c v s).pkg = s.pkg := rfl
@[simp] theorem setCore_hostWinBase (c : Nat) (v : Core) (s : State) : (setCore c v s).hostWinBase = s.hostWinBase := rfl
@[simp] theorem setCore_hostWinSize (c : Nat) (v : Core) (s : State) : (setCore c v s).hostWinSize = s.hostWinSize := rfl
@[simp] theorem setCore_boot (c : Nat) (v : Core) (s : State) : (setCore c v s).boot = s.boot := rfl
@[simp] theorem setCore_fab (c : Nat) (v : Core) (s : State) : (setCore c v s).fab = s.fab := rfl
@[simp] theorem setCore_pool (c : Nat) (v : Core) (s : State) : (setCore c v s).pool = s.pool := rfl
@[simp] theorem setCore_ptp (c : Nat) (v : Core) (s : State) : (setCore c v s).ptp = s.ptp := rfl
@[simp] theorem setCore_cycle (c : Nat) (v : Core) (s : State) : (setCore c v s).cycle = s.cycle := rfl
@[simp] theorem setCore_past (c : Nat) (v : Core) (s : State) : (setCore c v s).past = s.past := rfl
@[simp] theorem setCore_stamp (c : Nat) (v : Core) (s : State) : (setCore c v s).stamp = s.stamp := rfl
@[simp] theorem setCore_relAt (c : Nat) (v : Core) (s : State) : (setCore c v s).relAt = s.relAt := rfl
@[simp] theorem setCore_bufHit (c : Nat) (v : Core) (s : State) : (setCore c v s).bufHit = s.bufHit := rfl
@[simp] theorem setCore_hostLinks (c : Nat) (v : Core) (s : State) : (setCore c v s).hostLinks = s.hostLinks := rfl
@[simp] theorem setCore_idle (c : Nat) (v : Core) (s : State) : (setCore c v s).idle = s.idle := rfl
@[simp] theorem setCore_slotClk (c : Nat) (v : Core) (s : State) : (setCore c v s).slotClk = s.slotClk := rfl
@[simp] theorem setCore_compTurn (c : Nat) (v : Core) (s : State) : (setCore c v s).compTurn = s.compTurn := rfl
@[simp] theorem setCore_irqs (c : Nat) (v : Core) (s : State) : (setCore c v s).irqs = s.irqs := rfl

@[simp] theorem modGroup_agenda (i : Nat) (f : Group → Group) (s : State) : (modGroup i f s).agenda = s.agenda := rfl
@[simp] theorem modGroup_isu (i : Nat) (f : Group → Group) (s : State) : (modGroup i f s).isu = s.isu := rfl
@[simp] theorem modGroup_ev (i : Nat) (f : Group → Group) (s : State) : (modGroup i f s).ev = s.ev := rfl
@[simp] theorem modGroup_fresh (i : Nat) (f : Group → Group) (s : State) : (modGroup i f s).fresh = s.fresh := rfl
@[simp] theorem modGroup_groups (i : Nat) (f : Group → Group) (s : State) : (modGroup i f s).groups = mmodify i f s.groups := rfl
@[simp] theorem modGroup_blocks (i : Nat) (f : Group → Group) (s : State) : (modGroup i f s).blocks = s.blocks := rfl
@[simp] theorem modGroup_grids (i : Nat) (f : Group → Group) (s : State) : (modGroup i f s).grids = s.grids := rfl
@[simp] theorem modGroup_runs (i : Nat) (f : Group → Group) (s : State) : (modGroup i f s).runs = s.runs := rfl
@[simp] theorem modGroup_cores (i : Nat) (f : Group → Group) (s : State) : (modGroup i f s).cores = s.cores := rfl
@[simp] theorem modGroup_parts (i : Nat) (f : Group → Group) (s : State) : (modGroup i f s).parts = s.parts := rfl
@[simp] theorem modGroup_vfs (i : Nat) (f : Group → Group) (s : State) : (modGroup i f s).vfs = s.vfs := rfl
@[simp] theorem modGroup_vfIstat (i : Nat) (f : Group → Group) (s : State) : (modGroup i f s).vfIstat = s.vfIstat := rfl
@[simp] theorem modGroup_ops (i : Nat) (f : Group → Group) (s : State) : (modGroup i f s).ops = s.ops := rfl
@[simp] theorem modGroup_nextOp (i : Nat) (f : Group → Group) (s : State) : (modGroup i f s).nextOp = s.nextOp := rfl
@[simp] theorem modGroup_mem (i : Nat) (f : Group → Group) (s : State) : (modGroup i f s).mem = s.mem := rfl
@[simp] theorem modGroup_tags (i : Nat) (f : Group → Group) (s : State) : (modGroup i f s).tags = s.tags := rfl
@[simp] theorem modGroup_lineErr (i : Nat) (f : Group → Group) (s : State) : (modGroup i f s).lineErr = s.lineErr := rfl
@[simp] theorem modGroup_l2Err (i : Nat) (f : Group → Group) (s : State) : (modGroup i f s).l2Err = s.l2Err := rfl
@[simp] theorem modGroup_l1 (i : Nat) (f : Group → Group) (s : State) : (modGroup i f s).l1 = s.l1 := rfl
@[simp] theorem modGroup_il (i : Nat) (f : Group → Group) (s : State) : (modGroup i f s).il = s.il := rfl
@[simp] theorem modGroup_dir (i : Nat) (f : Group → Group) (s : State) : (modGroup i f s).dir = s.dir := rfl
@[simp] theorem modGroup_updates (i : Nat) (f : Group → Group) (s : State) : (modGroup i f s).updates = s.updates := rfl
@[simp] theorem modGroup_hostHalf (i : Nat) (f : Group → Group) (s : State) : (modGroup i f s).hostHalf = s.hostHalf := rfl
@[simp] theorem modGroup_tlb (i : Nat) (f : Group → Group) (s : State) : (modGroup i f s).tlb = s.tlb := rfl
@[simp] theorem modGroup_dray (i : Nat) (f : Group → Group) (s : State) : (modGroup i f s).dray = s.dray := rfl
@[simp] theorem modGroup_ways (i : Nat) (f : Group → Group) (s : State) : (modGroup i f s).ways = s.ways := rfl
@[simp] theorem modGroup_pkg (i : Nat) (f : Group → Group) (s : State) : (modGroup i f s).pkg = s.pkg := rfl
@[simp] theorem modGroup_hostWinBase (i : Nat) (f : Group → Group) (s : State) : (modGroup i f s).hostWinBase = s.hostWinBase := rfl
@[simp] theorem modGroup_hostWinSize (i : Nat) (f : Group → Group) (s : State) : (modGroup i f s).hostWinSize = s.hostWinSize := rfl
@[simp] theorem modGroup_boot (i : Nat) (f : Group → Group) (s : State) : (modGroup i f s).boot = s.boot := rfl
@[simp] theorem modGroup_fab (i : Nat) (f : Group → Group) (s : State) : (modGroup i f s).fab = s.fab := rfl
@[simp] theorem modGroup_pool (i : Nat) (f : Group → Group) (s : State) : (modGroup i f s).pool = s.pool := rfl
@[simp] theorem modGroup_ptp (i : Nat) (f : Group → Group) (s : State) : (modGroup i f s).ptp = s.ptp := rfl
@[simp] theorem modGroup_cycle (i : Nat) (f : Group → Group) (s : State) : (modGroup i f s).cycle = s.cycle := rfl
@[simp] theorem modGroup_past (i : Nat) (f : Group → Group) (s : State) : (modGroup i f s).past = s.past := rfl
@[simp] theorem modGroup_stamp (i : Nat) (f : Group → Group) (s : State) : (modGroup i f s).stamp = s.stamp := rfl
@[simp] theorem modGroup_relAt (i : Nat) (f : Group → Group) (s : State) : (modGroup i f s).relAt = s.relAt := rfl
@[simp] theorem modGroup_bufHit (i : Nat) (f : Group → Group) (s : State) : (modGroup i f s).bufHit = s.bufHit := rfl
@[simp] theorem modGroup_hostLinks (i : Nat) (f : Group → Group) (s : State) : (modGroup i f s).hostLinks = s.hostLinks := rfl
@[simp] theorem modGroup_idle (i : Nat) (f : Group → Group) (s : State) : (modGroup i f s).idle = s.idle := rfl
@[simp] theorem modGroup_slotClk (i : Nat) (f : Group → Group) (s : State) : (modGroup i f s).slotClk = s.slotClk := rfl
@[simp] theorem modGroup_compTurn (i : Nat) (f : Group → Group) (s : State) : (modGroup i f s).compTurn = s.compTurn := rfl
@[simp] theorem modGroup_irqs (i : Nat) (f : Group → Group) (s : State) : (modGroup i f s).irqs = s.irqs := rfl

@[simp] theorem modBlock_agenda (i : Nat) (f : Block → Block) (s : State) : (modBlock i f s).agenda = s.agenda := rfl
@[simp] theorem modBlock_isu (i : Nat) (f : Block → Block) (s : State) : (modBlock i f s).isu = s.isu := rfl
@[simp] theorem modBlock_ev (i : Nat) (f : Block → Block) (s : State) : (modBlock i f s).ev = s.ev := rfl
@[simp] theorem modBlock_fresh (i : Nat) (f : Block → Block) (s : State) : (modBlock i f s).fresh = s.fresh := rfl
@[simp] theorem modBlock_groups (i : Nat) (f : Block → Block) (s : State) : (modBlock i f s).groups = s.groups := rfl
@[simp] theorem modBlock_blocks (i : Nat) (f : Block → Block) (s : State) : (modBlock i f s).blocks = mmodify i f s.blocks := rfl
@[simp] theorem modBlock_grids (i : Nat) (f : Block → Block) (s : State) : (modBlock i f s).grids = s.grids := rfl
@[simp] theorem modBlock_runs (i : Nat) (f : Block → Block) (s : State) : (modBlock i f s).runs = s.runs := rfl
@[simp] theorem modBlock_cores (i : Nat) (f : Block → Block) (s : State) : (modBlock i f s).cores = s.cores := rfl
@[simp] theorem modBlock_parts (i : Nat) (f : Block → Block) (s : State) : (modBlock i f s).parts = s.parts := rfl
@[simp] theorem modBlock_vfs (i : Nat) (f : Block → Block) (s : State) : (modBlock i f s).vfs = s.vfs := rfl
@[simp] theorem modBlock_vfIstat (i : Nat) (f : Block → Block) (s : State) : (modBlock i f s).vfIstat = s.vfIstat := rfl
@[simp] theorem modBlock_ops (i : Nat) (f : Block → Block) (s : State) : (modBlock i f s).ops = s.ops := rfl
@[simp] theorem modBlock_nextOp (i : Nat) (f : Block → Block) (s : State) : (modBlock i f s).nextOp = s.nextOp := rfl
@[simp] theorem modBlock_mem (i : Nat) (f : Block → Block) (s : State) : (modBlock i f s).mem = s.mem := rfl
@[simp] theorem modBlock_tags (i : Nat) (f : Block → Block) (s : State) : (modBlock i f s).tags = s.tags := rfl
@[simp] theorem modBlock_lineErr (i : Nat) (f : Block → Block) (s : State) : (modBlock i f s).lineErr = s.lineErr := rfl
@[simp] theorem modBlock_l2Err (i : Nat) (f : Block → Block) (s : State) : (modBlock i f s).l2Err = s.l2Err := rfl
@[simp] theorem modBlock_l1 (i : Nat) (f : Block → Block) (s : State) : (modBlock i f s).l1 = s.l1 := rfl
@[simp] theorem modBlock_il (i : Nat) (f : Block → Block) (s : State) : (modBlock i f s).il = s.il := rfl
@[simp] theorem modBlock_dir (i : Nat) (f : Block → Block) (s : State) : (modBlock i f s).dir = s.dir := rfl
@[simp] theorem modBlock_updates (i : Nat) (f : Block → Block) (s : State) : (modBlock i f s).updates = s.updates := rfl
@[simp] theorem modBlock_hostHalf (i : Nat) (f : Block → Block) (s : State) : (modBlock i f s).hostHalf = s.hostHalf := rfl
@[simp] theorem modBlock_tlb (i : Nat) (f : Block → Block) (s : State) : (modBlock i f s).tlb = s.tlb := rfl
@[simp] theorem modBlock_dray (i : Nat) (f : Block → Block) (s : State) : (modBlock i f s).dray = s.dray := rfl
@[simp] theorem modBlock_ways (i : Nat) (f : Block → Block) (s : State) : (modBlock i f s).ways = s.ways := rfl
@[simp] theorem modBlock_pkg (i : Nat) (f : Block → Block) (s : State) : (modBlock i f s).pkg = s.pkg := rfl
@[simp] theorem modBlock_hostWinBase (i : Nat) (f : Block → Block) (s : State) : (modBlock i f s).hostWinBase = s.hostWinBase := rfl
@[simp] theorem modBlock_hostWinSize (i : Nat) (f : Block → Block) (s : State) : (modBlock i f s).hostWinSize = s.hostWinSize := rfl
@[simp] theorem modBlock_boot (i : Nat) (f : Block → Block) (s : State) : (modBlock i f s).boot = s.boot := rfl
@[simp] theorem modBlock_fab (i : Nat) (f : Block → Block) (s : State) : (modBlock i f s).fab = s.fab := rfl
@[simp] theorem modBlock_pool (i : Nat) (f : Block → Block) (s : State) : (modBlock i f s).pool = s.pool := rfl
@[simp] theorem modBlock_ptp (i : Nat) (f : Block → Block) (s : State) : (modBlock i f s).ptp = s.ptp := rfl
@[simp] theorem modBlock_cycle (i : Nat) (f : Block → Block) (s : State) : (modBlock i f s).cycle = s.cycle := rfl
@[simp] theorem modBlock_past (i : Nat) (f : Block → Block) (s : State) : (modBlock i f s).past = s.past := rfl
@[simp] theorem modBlock_stamp (i : Nat) (f : Block → Block) (s : State) : (modBlock i f s).stamp = s.stamp := rfl
@[simp] theorem modBlock_relAt (i : Nat) (f : Block → Block) (s : State) : (modBlock i f s).relAt = s.relAt := rfl
@[simp] theorem modBlock_bufHit (i : Nat) (f : Block → Block) (s : State) : (modBlock i f s).bufHit = s.bufHit := rfl
@[simp] theorem modBlock_hostLinks (i : Nat) (f : Block → Block) (s : State) : (modBlock i f s).hostLinks = s.hostLinks := rfl
@[simp] theorem modBlock_idle (i : Nat) (f : Block → Block) (s : State) : (modBlock i f s).idle = s.idle := rfl
@[simp] theorem modBlock_slotClk (i : Nat) (f : Block → Block) (s : State) : (modBlock i f s).slotClk = s.slotClk := rfl
@[simp] theorem modBlock_compTurn (i : Nat) (f : Block → Block) (s : State) : (modBlock i f s).compTurn = s.compTurn := rfl
@[simp] theorem modBlock_irqs (i : Nat) (f : Block → Block) (s : State) : (modBlock i f s).irqs = s.irqs := rfl

@[simp] theorem modGrid_agenda (i : Nat) (f : Grid → Grid) (s : State) : (modGrid i f s).agenda = s.agenda := rfl
@[simp] theorem modGrid_isu (i : Nat) (f : Grid → Grid) (s : State) : (modGrid i f s).isu = s.isu := rfl
@[simp] theorem modGrid_ev (i : Nat) (f : Grid → Grid) (s : State) : (modGrid i f s).ev = s.ev := rfl
@[simp] theorem modGrid_fresh (i : Nat) (f : Grid → Grid) (s : State) : (modGrid i f s).fresh = s.fresh := rfl
@[simp] theorem modGrid_groups (i : Nat) (f : Grid → Grid) (s : State) : (modGrid i f s).groups = s.groups := rfl
@[simp] theorem modGrid_blocks (i : Nat) (f : Grid → Grid) (s : State) : (modGrid i f s).blocks = s.blocks := rfl
@[simp] theorem modGrid_grids (i : Nat) (f : Grid → Grid) (s : State) : (modGrid i f s).grids = mmodify i f s.grids := rfl
@[simp] theorem modGrid_runs (i : Nat) (f : Grid → Grid) (s : State) : (modGrid i f s).runs = s.runs := rfl
@[simp] theorem modGrid_cores (i : Nat) (f : Grid → Grid) (s : State) : (modGrid i f s).cores = s.cores := rfl
@[simp] theorem modGrid_parts (i : Nat) (f : Grid → Grid) (s : State) : (modGrid i f s).parts = s.parts := rfl
@[simp] theorem modGrid_vfs (i : Nat) (f : Grid → Grid) (s : State) : (modGrid i f s).vfs = s.vfs := rfl
@[simp] theorem modGrid_vfIstat (i : Nat) (f : Grid → Grid) (s : State) : (modGrid i f s).vfIstat = s.vfIstat := rfl
@[simp] theorem modGrid_ops (i : Nat) (f : Grid → Grid) (s : State) : (modGrid i f s).ops = s.ops := rfl
@[simp] theorem modGrid_nextOp (i : Nat) (f : Grid → Grid) (s : State) : (modGrid i f s).nextOp = s.nextOp := rfl
@[simp] theorem modGrid_mem (i : Nat) (f : Grid → Grid) (s : State) : (modGrid i f s).mem = s.mem := rfl
@[simp] theorem modGrid_tags (i : Nat) (f : Grid → Grid) (s : State) : (modGrid i f s).tags = s.tags := rfl
@[simp] theorem modGrid_lineErr (i : Nat) (f : Grid → Grid) (s : State) : (modGrid i f s).lineErr = s.lineErr := rfl
@[simp] theorem modGrid_l2Err (i : Nat) (f : Grid → Grid) (s : State) : (modGrid i f s).l2Err = s.l2Err := rfl
@[simp] theorem modGrid_l1 (i : Nat) (f : Grid → Grid) (s : State) : (modGrid i f s).l1 = s.l1 := rfl
@[simp] theorem modGrid_il (i : Nat) (f : Grid → Grid) (s : State) : (modGrid i f s).il = s.il := rfl
@[simp] theorem modGrid_dir (i : Nat) (f : Grid → Grid) (s : State) : (modGrid i f s).dir = s.dir := rfl
@[simp] theorem modGrid_updates (i : Nat) (f : Grid → Grid) (s : State) : (modGrid i f s).updates = s.updates := rfl
@[simp] theorem modGrid_hostHalf (i : Nat) (f : Grid → Grid) (s : State) : (modGrid i f s).hostHalf = s.hostHalf := rfl
@[simp] theorem modGrid_tlb (i : Nat) (f : Grid → Grid) (s : State) : (modGrid i f s).tlb = s.tlb := rfl
@[simp] theorem modGrid_dray (i : Nat) (f : Grid → Grid) (s : State) : (modGrid i f s).dray = s.dray := rfl
@[simp] theorem modGrid_ways (i : Nat) (f : Grid → Grid) (s : State) : (modGrid i f s).ways = s.ways := rfl
@[simp] theorem modGrid_pkg (i : Nat) (f : Grid → Grid) (s : State) : (modGrid i f s).pkg = s.pkg := rfl
@[simp] theorem modGrid_hostWinBase (i : Nat) (f : Grid → Grid) (s : State) : (modGrid i f s).hostWinBase = s.hostWinBase := rfl
@[simp] theorem modGrid_hostWinSize (i : Nat) (f : Grid → Grid) (s : State) : (modGrid i f s).hostWinSize = s.hostWinSize := rfl
@[simp] theorem modGrid_boot (i : Nat) (f : Grid → Grid) (s : State) : (modGrid i f s).boot = s.boot := rfl
@[simp] theorem modGrid_fab (i : Nat) (f : Grid → Grid) (s : State) : (modGrid i f s).fab = s.fab := rfl
@[simp] theorem modGrid_pool (i : Nat) (f : Grid → Grid) (s : State) : (modGrid i f s).pool = s.pool := rfl
@[simp] theorem modGrid_ptp (i : Nat) (f : Grid → Grid) (s : State) : (modGrid i f s).ptp = s.ptp := rfl
@[simp] theorem modGrid_cycle (i : Nat) (f : Grid → Grid) (s : State) : (modGrid i f s).cycle = s.cycle := rfl
@[simp] theorem modGrid_past (i : Nat) (f : Grid → Grid) (s : State) : (modGrid i f s).past = s.past := rfl
@[simp] theorem modGrid_stamp (i : Nat) (f : Grid → Grid) (s : State) : (modGrid i f s).stamp = s.stamp := rfl
@[simp] theorem modGrid_relAt (i : Nat) (f : Grid → Grid) (s : State) : (modGrid i f s).relAt = s.relAt := rfl
@[simp] theorem modGrid_bufHit (i : Nat) (f : Grid → Grid) (s : State) : (modGrid i f s).bufHit = s.bufHit := rfl
@[simp] theorem modGrid_hostLinks (i : Nat) (f : Grid → Grid) (s : State) : (modGrid i f s).hostLinks = s.hostLinks := rfl
@[simp] theorem modGrid_idle (i : Nat) (f : Grid → Grid) (s : State) : (modGrid i f s).idle = s.idle := rfl
@[simp] theorem modGrid_slotClk (i : Nat) (f : Grid → Grid) (s : State) : (modGrid i f s).slotClk = s.slotClk := rfl
@[simp] theorem modGrid_compTurn (i : Nat) (f : Grid → Grid) (s : State) : (modGrid i f s).compTurn = s.compTurn := rfl
@[simp] theorem modGrid_irqs (i : Nat) (f : Grid → Grid) (s : State) : (modGrid i f s).irqs = s.irqs := rfl

@[simp] theorem modPart_agenda (p : Nat) (f : Part → Part) (s : State) : (modPart p f s).agenda = s.agenda := rfl
@[simp] theorem modPart_isu (p : Nat) (f : Part → Part) (s : State) : (modPart p f s).isu = s.isu := rfl
@[simp] theorem modPart_ev (p : Nat) (f : Part → Part) (s : State) : (modPart p f s).ev = s.ev := rfl
@[simp] theorem modPart_fresh (p : Nat) (f : Part → Part) (s : State) : (modPart p f s).fresh = s.fresh := rfl
@[simp] theorem modPart_groups (p : Nat) (f : Part → Part) (s : State) : (modPart p f s).groups = s.groups := rfl
@[simp] theorem modPart_blocks (p : Nat) (f : Part → Part) (s : State) : (modPart p f s).blocks = s.blocks := rfl
@[simp] theorem modPart_grids (p : Nat) (f : Part → Part) (s : State) : (modPart p f s).grids = s.grids := rfl
@[simp] theorem modPart_runs (p : Nat) (f : Part → Part) (s : State) : (modPart p f s).runs = s.runs := rfl
@[simp] theorem modPart_cores (p : Nat) (f : Part → Part) (s : State) : (modPart p f s).cores = s.cores := rfl
@[simp] theorem modPart_parts (p : Nat) (f : Part → Part) (s : State) : (modPart p f s).parts = minsert p (f (getPart s p)) s.parts := rfl
@[simp] theorem modPart_vfs (p : Nat) (f : Part → Part) (s : State) : (modPart p f s).vfs = s.vfs := rfl
@[simp] theorem modPart_vfIstat (p : Nat) (f : Part → Part) (s : State) : (modPart p f s).vfIstat = s.vfIstat := rfl
@[simp] theorem modPart_ops (p : Nat) (f : Part → Part) (s : State) : (modPart p f s).ops = s.ops := rfl
@[simp] theorem modPart_nextOp (p : Nat) (f : Part → Part) (s : State) : (modPart p f s).nextOp = s.nextOp := rfl
@[simp] theorem modPart_mem (p : Nat) (f : Part → Part) (s : State) : (modPart p f s).mem = s.mem := rfl
@[simp] theorem modPart_tags (p : Nat) (f : Part → Part) (s : State) : (modPart p f s).tags = s.tags := rfl
@[simp] theorem modPart_lineErr (p : Nat) (f : Part → Part) (s : State) : (modPart p f s).lineErr = s.lineErr := rfl
@[simp] theorem modPart_l2Err (p : Nat) (f : Part → Part) (s : State) : (modPart p f s).l2Err = s.l2Err := rfl
@[simp] theorem modPart_l1 (p : Nat) (f : Part → Part) (s : State) : (modPart p f s).l1 = s.l1 := rfl
@[simp] theorem modPart_il (p : Nat) (f : Part → Part) (s : State) : (modPart p f s).il = s.il := rfl
@[simp] theorem modPart_dir (p : Nat) (f : Part → Part) (s : State) : (modPart p f s).dir = s.dir := rfl
@[simp] theorem modPart_updates (p : Nat) (f : Part → Part) (s : State) : (modPart p f s).updates = s.updates := rfl
@[simp] theorem modPart_hostHalf (p : Nat) (f : Part → Part) (s : State) : (modPart p f s).hostHalf = s.hostHalf := rfl
@[simp] theorem modPart_tlb (p : Nat) (f : Part → Part) (s : State) : (modPart p f s).tlb = s.tlb := rfl
@[simp] theorem modPart_dray (p : Nat) (f : Part → Part) (s : State) : (modPart p f s).dray = s.dray := rfl
@[simp] theorem modPart_ways (p : Nat) (f : Part → Part) (s : State) : (modPart p f s).ways = s.ways := rfl
@[simp] theorem modPart_pkg (p : Nat) (f : Part → Part) (s : State) : (modPart p f s).pkg = s.pkg := rfl
@[simp] theorem modPart_hostWinBase (p : Nat) (f : Part → Part) (s : State) : (modPart p f s).hostWinBase = s.hostWinBase := rfl
@[simp] theorem modPart_hostWinSize (p : Nat) (f : Part → Part) (s : State) : (modPart p f s).hostWinSize = s.hostWinSize := rfl
@[simp] theorem modPart_boot (p : Nat) (f : Part → Part) (s : State) : (modPart p f s).boot = s.boot := rfl
@[simp] theorem modPart_fab (p : Nat) (f : Part → Part) (s : State) : (modPart p f s).fab = s.fab := rfl
@[simp] theorem modPart_pool (p : Nat) (f : Part → Part) (s : State) : (modPart p f s).pool = s.pool := rfl
@[simp] theorem modPart_ptp (p : Nat) (f : Part → Part) (s : State) : (modPart p f s).ptp = s.ptp := rfl
@[simp] theorem modPart_cycle (p : Nat) (f : Part → Part) (s : State) : (modPart p f s).cycle = s.cycle := rfl
@[simp] theorem modPart_past (p : Nat) (f : Part → Part) (s : State) : (modPart p f s).past = s.past := rfl
@[simp] theorem modPart_stamp (p : Nat) (f : Part → Part) (s : State) : (modPart p f s).stamp = s.stamp := rfl
@[simp] theorem modPart_relAt (p : Nat) (f : Part → Part) (s : State) : (modPart p f s).relAt = s.relAt := rfl
@[simp] theorem modPart_bufHit (p : Nat) (f : Part → Part) (s : State) : (modPart p f s).bufHit = s.bufHit := rfl
@[simp] theorem modPart_hostLinks (p : Nat) (f : Part → Part) (s : State) : (modPart p f s).hostLinks = s.hostLinks := rfl
@[simp] theorem modPart_idle (p : Nat) (f : Part → Part) (s : State) : (modPart p f s).idle = s.idle := rfl
@[simp] theorem modPart_slotClk (p : Nat) (f : Part → Part) (s : State) : (modPart p f s).slotClk = s.slotClk := rfl
@[simp] theorem modPart_compTurn (p : Nat) (f : Part → Part) (s : State) : (modPart p f s).compTurn = s.compTurn := rfl
@[simp] theorem modPart_irqs (p : Nat) (f : Part → Part) (s : State) : (modPart p f s).irqs = s.irqs := rfl

@[simp] theorem modCore_agenda (c : Nat) (f : Core → Core) (s : State) : (modCore c f s).agenda = s.agenda := rfl
@[simp] theorem modCore_isu (c : Nat) (f : Core → Core) (s : State) : (modCore c f s).isu = s.isu := rfl
@[simp] theorem modCore_ev (c : Nat) (f : Core → Core) (s : State) : (modCore c f s).ev = s.ev := rfl
@[simp] theorem modCore_fresh (c : Nat) (f : Core → Core) (s : State) : (modCore c f s).fresh = s.fresh := rfl
@[simp] theorem modCore_groups (c : Nat) (f : Core → Core) (s : State) : (modCore c f s).groups = s.groups := rfl
@[simp] theorem modCore_blocks (c : Nat) (f : Core → Core) (s : State) : (modCore c f s).blocks = s.blocks := rfl
@[simp] theorem modCore_grids (c : Nat) (f : Core → Core) (s : State) : (modCore c f s).grids = s.grids := rfl
@[simp] theorem modCore_runs (c : Nat) (f : Core → Core) (s : State) : (modCore c f s).runs = s.runs := rfl
@[simp] theorem modCore_cores (c : Nat) (f : Core → Core) (s : State) : (modCore c f s).cores = minsert c (f (getCore s c)) s.cores := rfl
@[simp] theorem modCore_parts (c : Nat) (f : Core → Core) (s : State) : (modCore c f s).parts = s.parts := rfl
@[simp] theorem modCore_vfs (c : Nat) (f : Core → Core) (s : State) : (modCore c f s).vfs = s.vfs := rfl
@[simp] theorem modCore_vfIstat (c : Nat) (f : Core → Core) (s : State) : (modCore c f s).vfIstat = s.vfIstat := rfl
@[simp] theorem modCore_ops (c : Nat) (f : Core → Core) (s : State) : (modCore c f s).ops = s.ops := rfl
@[simp] theorem modCore_nextOp (c : Nat) (f : Core → Core) (s : State) : (modCore c f s).nextOp = s.nextOp := rfl
@[simp] theorem modCore_mem (c : Nat) (f : Core → Core) (s : State) : (modCore c f s).mem = s.mem := rfl
@[simp] theorem modCore_tags (c : Nat) (f : Core → Core) (s : State) : (modCore c f s).tags = s.tags := rfl
@[simp] theorem modCore_lineErr (c : Nat) (f : Core → Core) (s : State) : (modCore c f s).lineErr = s.lineErr := rfl
@[simp] theorem modCore_l2Err (c : Nat) (f : Core → Core) (s : State) : (modCore c f s).l2Err = s.l2Err := rfl
@[simp] theorem modCore_l1 (c : Nat) (f : Core → Core) (s : State) : (modCore c f s).l1 = s.l1 := rfl
@[simp] theorem modCore_il (c : Nat) (f : Core → Core) (s : State) : (modCore c f s).il = s.il := rfl
@[simp] theorem modCore_dir (c : Nat) (f : Core → Core) (s : State) : (modCore c f s).dir = s.dir := rfl
@[simp] theorem modCore_updates (c : Nat) (f : Core → Core) (s : State) : (modCore c f s).updates = s.updates := rfl
@[simp] theorem modCore_hostHalf (c : Nat) (f : Core → Core) (s : State) : (modCore c f s).hostHalf = s.hostHalf := rfl
@[simp] theorem modCore_tlb (c : Nat) (f : Core → Core) (s : State) : (modCore c f s).tlb = s.tlb := rfl
@[simp] theorem modCore_dray (c : Nat) (f : Core → Core) (s : State) : (modCore c f s).dray = s.dray := rfl
@[simp] theorem modCore_ways (c : Nat) (f : Core → Core) (s : State) : (modCore c f s).ways = s.ways := rfl
@[simp] theorem modCore_pkg (c : Nat) (f : Core → Core) (s : State) : (modCore c f s).pkg = s.pkg := rfl
@[simp] theorem modCore_hostWinBase (c : Nat) (f : Core → Core) (s : State) : (modCore c f s).hostWinBase = s.hostWinBase := rfl
@[simp] theorem modCore_hostWinSize (c : Nat) (f : Core → Core) (s : State) : (modCore c f s).hostWinSize = s.hostWinSize := rfl
@[simp] theorem modCore_boot (c : Nat) (f : Core → Core) (s : State) : (modCore c f s).boot = s.boot := rfl
@[simp] theorem modCore_fab (c : Nat) (f : Core → Core) (s : State) : (modCore c f s).fab = s.fab := rfl
@[simp] theorem modCore_pool (c : Nat) (f : Core → Core) (s : State) : (modCore c f s).pool = s.pool := rfl
@[simp] theorem modCore_ptp (c : Nat) (f : Core → Core) (s : State) : (modCore c f s).ptp = s.ptp := rfl
@[simp] theorem modCore_cycle (c : Nat) (f : Core → Core) (s : State) : (modCore c f s).cycle = s.cycle := rfl
@[simp] theorem modCore_past (c : Nat) (f : Core → Core) (s : State) : (modCore c f s).past = s.past := rfl
@[simp] theorem modCore_stamp (c : Nat) (f : Core → Core) (s : State) : (modCore c f s).stamp = s.stamp := rfl
@[simp] theorem modCore_relAt (c : Nat) (f : Core → Core) (s : State) : (modCore c f s).relAt = s.relAt := rfl
@[simp] theorem modCore_bufHit (c : Nat) (f : Core → Core) (s : State) : (modCore c f s).bufHit = s.bufHit := rfl
@[simp] theorem modCore_hostLinks (c : Nat) (f : Core → Core) (s : State) : (modCore c f s).hostLinks = s.hostLinks := rfl
@[simp] theorem modCore_idle (c : Nat) (f : Core → Core) (s : State) : (modCore c f s).idle = s.idle := rfl
@[simp] theorem modCore_slotClk (c : Nat) (f : Core → Core) (s : State) : (modCore c f s).slotClk = s.slotClk := rfl
@[simp] theorem modCore_compTurn (c : Nat) (f : Core → Core) (s : State) : (modCore c f s).compTurn = s.compTurn := rfl
@[simp] theorem modCore_irqs (c : Nat) (f : Core → Core) (s : State) : (modCore c f s).irqs = s.irqs := rfl

@[simp] theorem modOp_agenda (i : Nat) (f : Op → Op) (s : State) : (modOp i f s).agenda = s.agenda := rfl
@[simp] theorem modOp_isu (i : Nat) (f : Op → Op) (s : State) : (modOp i f s).isu = s.isu := rfl
@[simp] theorem modOp_ev (i : Nat) (f : Op → Op) (s : State) : (modOp i f s).ev = s.ev := rfl
@[simp] theorem modOp_fresh (i : Nat) (f : Op → Op) (s : State) : (modOp i f s).fresh = s.fresh := rfl
@[simp] theorem modOp_groups (i : Nat) (f : Op → Op) (s : State) : (modOp i f s).groups = s.groups := rfl
@[simp] theorem modOp_blocks (i : Nat) (f : Op → Op) (s : State) : (modOp i f s).blocks = s.blocks := rfl
@[simp] theorem modOp_grids (i : Nat) (f : Op → Op) (s : State) : (modOp i f s).grids = s.grids := rfl
@[simp] theorem modOp_runs (i : Nat) (f : Op → Op) (s : State) : (modOp i f s).runs = s.runs := rfl
@[simp] theorem modOp_cores (i : Nat) (f : Op → Op) (s : State) : (modOp i f s).cores = s.cores := rfl
@[simp] theorem modOp_parts (i : Nat) (f : Op → Op) (s : State) : (modOp i f s).parts = s.parts := rfl
@[simp] theorem modOp_vfs (i : Nat) (f : Op → Op) (s : State) : (modOp i f s).vfs = s.vfs := rfl
@[simp] theorem modOp_vfIstat (i : Nat) (f : Op → Op) (s : State) : (modOp i f s).vfIstat = s.vfIstat := rfl
@[simp] theorem modOp_ops (i : Nat) (f : Op → Op) (s : State) : (modOp i f s).ops = s.ops.map (fun o => if o.oid == i then f o else o) := rfl
@[simp] theorem modOp_nextOp (i : Nat) (f : Op → Op) (s : State) : (modOp i f s).nextOp = s.nextOp := rfl
@[simp] theorem modOp_mem (i : Nat) (f : Op → Op) (s : State) : (modOp i f s).mem = s.mem := rfl
@[simp] theorem modOp_tags (i : Nat) (f : Op → Op) (s : State) : (modOp i f s).tags = s.tags := rfl
@[simp] theorem modOp_lineErr (i : Nat) (f : Op → Op) (s : State) : (modOp i f s).lineErr = s.lineErr := rfl
@[simp] theorem modOp_l2Err (i : Nat) (f : Op → Op) (s : State) : (modOp i f s).l2Err = s.l2Err := rfl
@[simp] theorem modOp_l1 (i : Nat) (f : Op → Op) (s : State) : (modOp i f s).l1 = s.l1 := rfl
@[simp] theorem modOp_il (i : Nat) (f : Op → Op) (s : State) : (modOp i f s).il = s.il := rfl
@[simp] theorem modOp_dir (i : Nat) (f : Op → Op) (s : State) : (modOp i f s).dir = s.dir := rfl
@[simp] theorem modOp_updates (i : Nat) (f : Op → Op) (s : State) : (modOp i f s).updates = s.updates := rfl
@[simp] theorem modOp_hostHalf (i : Nat) (f : Op → Op) (s : State) : (modOp i f s).hostHalf = s.hostHalf := rfl
@[simp] theorem modOp_tlb (i : Nat) (f : Op → Op) (s : State) : (modOp i f s).tlb = s.tlb := rfl
@[simp] theorem modOp_dray (i : Nat) (f : Op → Op) (s : State) : (modOp i f s).dray = s.dray := rfl
@[simp] theorem modOp_ways (i : Nat) (f : Op → Op) (s : State) : (modOp i f s).ways = s.ways := rfl
@[simp] theorem modOp_pkg (i : Nat) (f : Op → Op) (s : State) : (modOp i f s).pkg = s.pkg := rfl
@[simp] theorem modOp_hostWinBase (i : Nat) (f : Op → Op) (s : State) : (modOp i f s).hostWinBase = s.hostWinBase := rfl
@[simp] theorem modOp_hostWinSize (i : Nat) (f : Op → Op) (s : State) : (modOp i f s).hostWinSize = s.hostWinSize := rfl
@[simp] theorem modOp_boot (i : Nat) (f : Op → Op) (s : State) : (modOp i f s).boot = s.boot := rfl
@[simp] theorem modOp_fab (i : Nat) (f : Op → Op) (s : State) : (modOp i f s).fab = s.fab := rfl
@[simp] theorem modOp_pool (i : Nat) (f : Op → Op) (s : State) : (modOp i f s).pool = s.pool := rfl
@[simp] theorem modOp_ptp (i : Nat) (f : Op → Op) (s : State) : (modOp i f s).ptp = s.ptp := rfl
@[simp] theorem modOp_cycle (i : Nat) (f : Op → Op) (s : State) : (modOp i f s).cycle = s.cycle := rfl
@[simp] theorem modOp_past (i : Nat) (f : Op → Op) (s : State) : (modOp i f s).past = s.past := rfl
@[simp] theorem modOp_stamp (i : Nat) (f : Op → Op) (s : State) : (modOp i f s).stamp = s.stamp := rfl
@[simp] theorem modOp_relAt (i : Nat) (f : Op → Op) (s : State) : (modOp i f s).relAt = s.relAt := rfl
@[simp] theorem modOp_bufHit (i : Nat) (f : Op → Op) (s : State) : (modOp i f s).bufHit = s.bufHit := rfl
@[simp] theorem modOp_hostLinks (i : Nat) (f : Op → Op) (s : State) : (modOp i f s).hostLinks = s.hostLinks := rfl
@[simp] theorem modOp_idle (i : Nat) (f : Op → Op) (s : State) : (modOp i f s).idle = s.idle := rfl
@[simp] theorem modOp_slotClk (i : Nat) (f : Op → Op) (s : State) : (modOp i f s).slotClk = s.slotClk := rfl
@[simp] theorem modOp_compTurn (i : Nat) (f : Op → Op) (s : State) : (modOp i f s).compTurn = s.compTurn := rfl
@[simp] theorem modOp_irqs (i : Nat) (f : Op → Op) (s : State) : (modOp i f s).irqs = s.irqs := rfl

@[simp] theorem raiseIrq_agenda (fn vec : Nat) (s : State) : (raiseIrq fn vec s).agenda = s.agenda := rfl
@[simp] theorem raiseIrq_isu (fn vec : Nat) (s : State) : (raiseIrq fn vec s).isu = s.isu := rfl
@[simp] theorem raiseIrq_ev (fn vec : Nat) (s : State) : (raiseIrq fn vec s).ev = s.ev := rfl
@[simp] theorem raiseIrq_fresh (fn vec : Nat) (s : State) : (raiseIrq fn vec s).fresh = s.fresh := rfl
@[simp] theorem raiseIrq_groups (fn vec : Nat) (s : State) : (raiseIrq fn vec s).groups = s.groups := rfl
@[simp] theorem raiseIrq_blocks (fn vec : Nat) (s : State) : (raiseIrq fn vec s).blocks = s.blocks := rfl
@[simp] theorem raiseIrq_grids (fn vec : Nat) (s : State) : (raiseIrq fn vec s).grids = s.grids := rfl
@[simp] theorem raiseIrq_runs (fn vec : Nat) (s : State) : (raiseIrq fn vec s).runs = s.runs := rfl
@[simp] theorem raiseIrq_cores (fn vec : Nat) (s : State) : (raiseIrq fn vec s).cores = s.cores := rfl
@[simp] theorem raiseIrq_parts (fn vec : Nat) (s : State) : (raiseIrq fn vec s).parts = s.parts := rfl
@[simp] theorem raiseIrq_vfs (fn vec : Nat) (s : State) : (raiseIrq fn vec s).vfs = s.vfs := rfl
@[simp] theorem raiseIrq_vfIstat (fn vec : Nat) (s : State) : (raiseIrq fn vec s).vfIstat = s.vfIstat := rfl
@[simp] theorem raiseIrq_ops (fn vec : Nat) (s : State) : (raiseIrq fn vec s).ops = s.ops := rfl
@[simp] theorem raiseIrq_nextOp (fn vec : Nat) (s : State) : (raiseIrq fn vec s).nextOp = s.nextOp := rfl
@[simp] theorem raiseIrq_mem (fn vec : Nat) (s : State) : (raiseIrq fn vec s).mem = s.mem := rfl
@[simp] theorem raiseIrq_tags (fn vec : Nat) (s : State) : (raiseIrq fn vec s).tags = s.tags := rfl
@[simp] theorem raiseIrq_lineErr (fn vec : Nat) (s : State) : (raiseIrq fn vec s).lineErr = s.lineErr := rfl
@[simp] theorem raiseIrq_l2Err (fn vec : Nat) (s : State) : (raiseIrq fn vec s).l2Err = s.l2Err := rfl
@[simp] theorem raiseIrq_l1 (fn vec : Nat) (s : State) : (raiseIrq fn vec s).l1 = s.l1 := rfl
@[simp] theorem raiseIrq_il (fn vec : Nat) (s : State) : (raiseIrq fn vec s).il = s.il := rfl
@[simp] theorem raiseIrq_dir (fn vec : Nat) (s : State) : (raiseIrq fn vec s).dir = s.dir := rfl
@[simp] theorem raiseIrq_updates (fn vec : Nat) (s : State) : (raiseIrq fn vec s).updates = s.updates := rfl
@[simp] theorem raiseIrq_hostHalf (fn vec : Nat) (s : State) : (raiseIrq fn vec s).hostHalf = s.hostHalf := rfl
@[simp] theorem raiseIrq_tlb (fn vec : Nat) (s : State) : (raiseIrq fn vec s).tlb = s.tlb := rfl
@[simp] theorem raiseIrq_dray (fn vec : Nat) (s : State) : (raiseIrq fn vec s).dray = s.dray := rfl
@[simp] theorem raiseIrq_ways (fn vec : Nat) (s : State) : (raiseIrq fn vec s).ways = s.ways := rfl
@[simp] theorem raiseIrq_pkg (fn vec : Nat) (s : State) : (raiseIrq fn vec s).pkg = s.pkg := rfl
@[simp] theorem raiseIrq_hostWinBase (fn vec : Nat) (s : State) : (raiseIrq fn vec s).hostWinBase = s.hostWinBase := rfl
@[simp] theorem raiseIrq_hostWinSize (fn vec : Nat) (s : State) : (raiseIrq fn vec s).hostWinSize = s.hostWinSize := rfl
@[simp] theorem raiseIrq_boot (fn vec : Nat) (s : State) : (raiseIrq fn vec s).boot = s.boot := rfl
@[simp] theorem raiseIrq_fab (fn vec : Nat) (s : State) : (raiseIrq fn vec s).fab = s.fab := rfl
@[simp] theorem raiseIrq_pool (fn vec : Nat) (s : State) : (raiseIrq fn vec s).pool = s.pool := rfl
@[simp] theorem raiseIrq_ptp (fn vec : Nat) (s : State) : (raiseIrq fn vec s).ptp = s.ptp := rfl
@[simp] theorem raiseIrq_cycle (fn vec : Nat) (s : State) : (raiseIrq fn vec s).cycle = s.cycle := rfl
@[simp] theorem raiseIrq_past (fn vec : Nat) (s : State) : (raiseIrq fn vec s).past = s.past := rfl
@[simp] theorem raiseIrq_stamp (fn vec : Nat) (s : State) : (raiseIrq fn vec s).stamp = s.stamp := rfl
@[simp] theorem raiseIrq_relAt (fn vec : Nat) (s : State) : (raiseIrq fn vec s).relAt = s.relAt := rfl
@[simp] theorem raiseIrq_bufHit (fn vec : Nat) (s : State) : (raiseIrq fn vec s).bufHit = s.bufHit := rfl
@[simp] theorem raiseIrq_hostLinks (fn vec : Nat) (s : State) : (raiseIrq fn vec s).hostLinks = s.hostLinks := rfl
@[simp] theorem raiseIrq_idle (fn vec : Nat) (s : State) : (raiseIrq fn vec s).idle = s.idle := rfl
@[simp] theorem raiseIrq_slotClk (fn vec : Nat) (s : State) : (raiseIrq fn vec s).slotClk = s.slotClk := rfl
@[simp] theorem raiseIrq_compTurn (fn vec : Nat) (s : State) : (raiseIrq fn vec s).compTurn = s.compTurn := rfl
@[simp] theorem raiseIrq_irqs (fn vec : Nat) (s : State) : (raiseIrq fn vec s).irqs = s.irqs ++ [(fn, vec)] := rfl

@[simp] theorem tick_agenda (n : Nat) (s : State) : (tick n s).agenda = s.agenda := rfl
@[simp] theorem tick_isu (n : Nat) (s : State) : (tick n s).isu = s.isu := rfl
@[simp] theorem tick_ev (n : Nat) (s : State) : (tick n s).ev = s.ev := rfl
@[simp] theorem tick_fresh (n : Nat) (s : State) : (tick n s).fresh = s.fresh := rfl
@[simp] theorem tick_groups (n : Nat) (s : State) : (tick n s).groups = s.groups := rfl
@[simp] theorem tick_blocks (n : Nat) (s : State) : (tick n s).blocks = s.blocks := rfl
@[simp] theorem tick_grids (n : Nat) (s : State) : (tick n s).grids = s.grids := rfl
@[simp] theorem tick_runs (n : Nat) (s : State) : (tick n s).runs = s.runs := rfl
@[simp] theorem tick_cores (n : Nat) (s : State) : (tick n s).cores = s.cores := rfl
@[simp] theorem tick_parts (n : Nat) (s : State) : (tick n s).parts = s.parts := rfl
@[simp] theorem tick_vfs (n : Nat) (s : State) : (tick n s).vfs = s.vfs := rfl
@[simp] theorem tick_vfIstat (n : Nat) (s : State) : (tick n s).vfIstat = s.vfIstat := rfl
@[simp] theorem tick_ops (n : Nat) (s : State) : (tick n s).ops = s.ops := rfl
@[simp] theorem tick_nextOp (n : Nat) (s : State) : (tick n s).nextOp = s.nextOp := rfl
@[simp] theorem tick_mem (n : Nat) (s : State) : (tick n s).mem = s.mem := rfl
@[simp] theorem tick_tags (n : Nat) (s : State) : (tick n s).tags = s.tags := rfl
@[simp] theorem tick_lineErr (n : Nat) (s : State) : (tick n s).lineErr = s.lineErr := rfl
@[simp] theorem tick_l2Err (n : Nat) (s : State) : (tick n s).l2Err = s.l2Err := rfl
@[simp] theorem tick_l1 (n : Nat) (s : State) : (tick n s).l1 = s.l1 := rfl
@[simp] theorem tick_il (n : Nat) (s : State) : (tick n s).il = s.il := rfl
@[simp] theorem tick_dir (n : Nat) (s : State) : (tick n s).dir = s.dir := rfl
@[simp] theorem tick_updates (n : Nat) (s : State) : (tick n s).updates = s.updates := rfl
@[simp] theorem tick_hostHalf (n : Nat) (s : State) : (tick n s).hostHalf = s.hostHalf := rfl
@[simp] theorem tick_tlb (n : Nat) (s : State) : (tick n s).tlb = s.tlb := rfl
@[simp] theorem tick_dray (n : Nat) (s : State) : (tick n s).dray = s.dray := rfl
@[simp] theorem tick_ways (n : Nat) (s : State) : (tick n s).ways = s.ways := rfl
@[simp] theorem tick_pkg (n : Nat) (s : State) : (tick n s).pkg = s.pkg := rfl
@[simp] theorem tick_hostWinBase (n : Nat) (s : State) : (tick n s).hostWinBase = s.hostWinBase := rfl
@[simp] theorem tick_hostWinSize (n : Nat) (s : State) : (tick n s).hostWinSize = s.hostWinSize := rfl
@[simp] theorem tick_boot (n : Nat) (s : State) : (tick n s).boot = s.boot := rfl
@[simp] theorem tick_fab (n : Nat) (s : State) : (tick n s).fab = s.fab := rfl
@[simp] theorem tick_pool (n : Nat) (s : State) : (tick n s).pool = s.pool := rfl
@[simp] theorem tick_cycle (n : Nat) (s : State) : (tick n s).cycle = s.cycle + n := rfl
@[simp] theorem tick_past (n : Nat) (s : State) : (tick n s).past = s.past := rfl
@[simp] theorem tick_stamp (n : Nat) (s : State) : (tick n s).stamp = s.stamp := rfl
@[simp] theorem tick_relAt (n : Nat) (s : State) : (tick n s).relAt = s.relAt := rfl
@[simp] theorem tick_bufHit (n : Nat) (s : State) : (tick n s).bufHit = s.bufHit := rfl
@[simp] theorem tick_hostLinks (n : Nat) (s : State) : (tick n s).hostLinks = s.hostLinks := rfl
@[simp] theorem tick_idle (n : Nat) (s : State) : (tick n s).idle = s.idle := rfl
@[simp] theorem tick_slotClk (n : Nat) (s : State) : (tick n s).slotClk = s.slotClk := rfl
@[simp] theorem tick_compTurn (n : Nat) (s : State) : (tick n s).compTurn = s.compTurn := rfl
@[simp] theorem tick_ptp_cfg (n : Nat) (s : State) : (tick n s).ptp.cfg = s.ptp.cfg := rfl
@[simp] theorem tick_ptp_stat (n : Nat) (s : State) : (tick n s).ptp.stat = s.ptp.stat := rfl
@[simp] theorem tick_irqs (n : Nat) (s : State) : (tick n s).irqs = s.irqs := rfl

@[simp] theorem memPut_agenda (pa v : Nat) (s : State) : (memPut s pa v).agenda = s.agenda := rfl
@[simp] theorem memPut_isu (pa v : Nat) (s : State) : (memPut s pa v).isu = s.isu := rfl
@[simp] theorem memPut_ev (pa v : Nat) (s : State) : (memPut s pa v).ev = s.ev := rfl
@[simp] theorem memPut_fresh (pa v : Nat) (s : State) : (memPut s pa v).fresh = s.fresh := rfl
@[simp] theorem memPut_groups (pa v : Nat) (s : State) : (memPut s pa v).groups = s.groups := rfl
@[simp] theorem memPut_blocks (pa v : Nat) (s : State) : (memPut s pa v).blocks = s.blocks := rfl
@[simp] theorem memPut_grids (pa v : Nat) (s : State) : (memPut s pa v).grids = s.grids := rfl
@[simp] theorem memPut_runs (pa v : Nat) (s : State) : (memPut s pa v).runs = s.runs := rfl
@[simp] theorem memPut_cores (pa v : Nat) (s : State) : (memPut s pa v).cores = s.cores := rfl
@[simp] theorem memPut_parts (pa v : Nat) (s : State) : (memPut s pa v).parts = s.parts := rfl
@[simp] theorem memPut_vfs (pa v : Nat) (s : State) : (memPut s pa v).vfs = s.vfs := rfl
@[simp] theorem memPut_vfIstat (pa v : Nat) (s : State) : (memPut s pa v).vfIstat = s.vfIstat := rfl
@[simp] theorem memPut_ops (pa v : Nat) (s : State) : (memPut s pa v).ops = s.ops := rfl
@[simp] theorem memPut_nextOp (pa v : Nat) (s : State) : (memPut s pa v).nextOp = s.nextOp := rfl
@[simp] theorem memPut_mem (pa v : Nat) (s : State) : (memPut s pa v).mem = cset 0 (memKey s pa) (BitVec.ofNat 8 v) s.mem := rfl
@[simp] theorem memPut_tags (pa v : Nat) (s : State) : (memPut s pa v).tags = s.tags := rfl
@[simp] theorem memPut_lineErr (pa v : Nat) (s : State) : (memPut s pa v).lineErr = s.lineErr := rfl
@[simp] theorem memPut_l2Err (pa v : Nat) (s : State) : (memPut s pa v).l2Err = s.l2Err := rfl
@[simp] theorem memPut_l1 (pa v : Nat) (s : State) : (memPut s pa v).l1 = s.l1 := rfl
@[simp] theorem memPut_il (pa v : Nat) (s : State) : (memPut s pa v).il = s.il := rfl
@[simp] theorem memPut_dir (pa v : Nat) (s : State) : (memPut s pa v).dir = s.dir := rfl
@[simp] theorem memPut_updates (pa v : Nat) (s : State) : (memPut s pa v).updates = s.updates := rfl
@[simp] theorem memPut_hostHalf (pa v : Nat) (s : State) : (memPut s pa v).hostHalf = s.hostHalf := rfl
@[simp] theorem memPut_tlb (pa v : Nat) (s : State) : (memPut s pa v).tlb = s.tlb := rfl
@[simp] theorem memPut_dray (pa v : Nat) (s : State) : (memPut s pa v).dray = s.dray := rfl
@[simp] theorem memPut_ways (pa v : Nat) (s : State) : (memPut s pa v).ways = s.ways := rfl
@[simp] theorem memPut_pkg (pa v : Nat) (s : State) : (memPut s pa v).pkg = s.pkg := rfl
@[simp] theorem memPut_hostWinBase (pa v : Nat) (s : State) : (memPut s pa v).hostWinBase = s.hostWinBase := rfl
@[simp] theorem memPut_hostWinSize (pa v : Nat) (s : State) : (memPut s pa v).hostWinSize = s.hostWinSize := rfl
@[simp] theorem memPut_boot (pa v : Nat) (s : State) : (memPut s pa v).boot = s.boot := rfl
@[simp] theorem memPut_fab (pa v : Nat) (s : State) : (memPut s pa v).fab = s.fab := rfl
@[simp] theorem memPut_pool (pa v : Nat) (s : State) : (memPut s pa v).pool = s.pool := rfl
@[simp] theorem memPut_ptp (pa v : Nat) (s : State) : (memPut s pa v).ptp = s.ptp := rfl
@[simp] theorem memPut_cycle (pa v : Nat) (s : State) : (memPut s pa v).cycle = s.cycle := rfl
@[simp] theorem memPut_past (pa v : Nat) (s : State) : (memPut s pa v).past = s.past := rfl
@[simp] theorem memPut_stamp (pa v : Nat) (s : State) : (memPut s pa v).stamp = s.stamp := rfl
@[simp] theorem memPut_relAt (pa v : Nat) (s : State) : (memPut s pa v).relAt = s.relAt := rfl
@[simp] theorem memPut_bufHit (pa v : Nat) (s : State) : (memPut s pa v).bufHit = s.bufHit := rfl
@[simp] theorem memPut_hostLinks (pa v : Nat) (s : State) : (memPut s pa v).hostLinks = s.hostLinks := rfl
@[simp] theorem memPut_idle (pa v : Nat) (s : State) : (memPut s pa v).idle = s.idle := rfl
@[simp] theorem memPut_slotClk (pa v : Nat) (s : State) : (memPut s pa v).slotClk = s.slotClk := rfl
@[simp] theorem memPut_compTurn (pa v : Nat) (s : State) : (memPut s pa v).compTurn = s.compTurn := rfl
@[simp] theorem memPut_irqs (pa v : Nat) (s : State) : (memPut s pa v).irqs = s.irqs := rfl

@[simp] theorem putReg_gid (g : Group) (c l w : Nat) : (putReg g c l w).gid = g.gid := rfl
@[simp] theorem putReg_bid (g : Group) (c l w : Nat) : (putReg g c l w).bid = g.bid := rfl
@[simp] theorem putReg_num (g : Group) (c l w : Nat) : (putReg g c l w).num = g.num := rfl
@[simp] theorem putReg_upc (g : Group) (c l w : Nat) : (putReg g c l w).upc = g.upc := rfl
@[simp] theorem putReg_spc (g : Group) (c l w : Nat) : (putReg g c l w).spc = g.spc := rfl
@[simp] theorem putReg_live (g : Group) (c l w : Nat) : (putReg g c l w).live = g.live := rfl
@[simp] theorem putReg_parkWide (g : Group) (c l w : Nat) : (putReg g c l w).parkWide = g.parkWide := rfl
@[simp] theorem putReg_parkLoop (g : Group) (c l w : Nat) : (putReg g c l w).parkLoop = g.parkLoop := rfl
@[simp] theorem putReg_regs (g : Group) (c l w : Nat) : (putReg g c l w).regs = cset 0 (regKey c l) (BitVec.ofNat 32 w) g.regs := rfl
@[simp] theorem putReg_poison (g : Group) (c l w : Nat) : (putReg g c l w).poison = g.poison := rfl
@[simp] theorem putReg_pend (g : Group) (c l w : Nat) : (putReg g c l w).pend = g.pend := rfl
@[simp] theorem putReg_xregs (g : Group) (c l w : Nat) : (putReg g c l w).xregs = g.xregs := rfl
@[simp] theorem putReg_loops (g : Group) (c l w : Nat) : (putReg g c l w).loops = g.loops := rfl
@[simp] theorem putReg_lbuf (g : Group) (c l w : Nat) : (putReg g c l w).lbuf = g.lbuf := rfl
@[simp] theorem putReg_srctr (g : Group) (c l w : Nat) : (putReg g c l w).srctr = g.srctr := rfl
@[simp] theorem putReg_cnts (g : Group) (c l w : Nat) : (putReg g c l w).cnts = g.cnts := rfl
@[simp] theorem putReg_win (g : Group) (c l w : Nat) : (putReg g c l w).win = g.win := rfl
@[simp] theorem putReg_hist (g : Group) (c l w : Nat) : (putReg g c l w).hist = g.hist := rfl
@[simp] theorem putReg_replay (g : Group) (c l w : Nat) : (putReg g c l w).replay = g.replay := rfl
@[simp] theorem putReg_service (g : Group) (c l w : Nat) : (putReg g c l w).service = g.service := rfl
@[simp] theorem putReg_role (g : Group) (c l w : Nat) : (putReg g c l w).role = g.role := rfl
@[simp] theorem putReg_k (g : Group) (c l w : Nat) : (putReg g c l w).k = g.k := rfl
@[simp] theorem putReg_wait (g : Group) (c l w : Nat) : (putReg g c l w).wait = g.wait := rfl
@[simp] theorem putReg_hfault (g : Group) (c l w : Nat) : (putReg g c l w).hfault = g.hfault := rfl
@[simp] theorem putReg_trigq (g : Group) (c l w : Nat) : (putReg g c l w).trigq = g.trigq := rfl
@[simp] theorem putReg_xfences (g : Group) (c l w : Nat) : (putReg g c l w).xfences = g.xfences := rfl
@[simp] theorem putReg_tr (g : Group) (c l w : Nat) : (putReg g c l w).tr = g.tr := rfl
@[simp] theorem putReg_scratch (g : Group) (c l w : Nat) : (putReg g c l w).scratch = g.scratch := rfl
@[simp] theorem putReg_noBp (g : Group) (c l w : Nat) : (putReg g c l w).noBp = g.noBp := rfl
@[simp] theorem putReg_seq (g : Group) (c l w : Nat) : (putReg g c l w).seq = g.seq := rfl
@[simp] theorem putReg_slot (g : Group) (c l w : Nat) : (putReg g c l w).slot = g.slot := rfl
@[simp] theorem putReg_gslot (g : Group) (c l w : Nat) : (putReg g c l w).gslot = g.gslot := rfl
@[simp] theorem putReg_active (g : Group) (c l w : Nat) : (putReg g c l w).active = g.active := rfl
@[simp] theorem putReg_lastIssue (g : Group) (c l w : Nat) : (putReg g c l w).lastIssue = g.lastIssue := rfl
@[simp] theorem putReg_poolBad (g : Group) (c l w : Nat) : (putReg g c l w).poolBad = g.poolBad := rfl
@[simp] theorem putReg_fenced (g : Group) (c l w : Nat) : (putReg g c l w).fenced = g.fenced := rfl
@[simp] theorem putReg_relNow (g : Group) (c l w : Nat) : (putReg g c l w).relNow = g.relNow := rfl
@[simp] theorem putReg_relSeen (g : Group) (c l w : Nat) : (putReg g c l w).relSeen = g.relSeen := rfl
@[simp] theorem putReg_retired (g : Group) (c l w : Nat) : (putReg g c l w).retired = g.retired := rfl

@[simp] theorem putPoison_gid (g : Group) (c l : Nat) (p : Bool) : (putPoison g c l p).gid = g.gid := rfl
@[simp] theorem putPoison_bid (g : Group) (c l : Nat) (p : Bool) : (putPoison g c l p).bid = g.bid := rfl
@[simp] theorem putPoison_num (g : Group) (c l : Nat) (p : Bool) : (putPoison g c l p).num = g.num := rfl
@[simp] theorem putPoison_upc (g : Group) (c l : Nat) (p : Bool) : (putPoison g c l p).upc = g.upc := rfl
@[simp] theorem putPoison_spc (g : Group) (c l : Nat) (p : Bool) : (putPoison g c l p).spc = g.spc := rfl
@[simp] theorem putPoison_live (g : Group) (c l : Nat) (p : Bool) : (putPoison g c l p).live = g.live := rfl
@[simp] theorem putPoison_parkWide (g : Group) (c l : Nat) (p : Bool) : (putPoison g c l p).parkWide = g.parkWide := rfl
@[simp] theorem putPoison_parkLoop (g : Group) (c l : Nat) (p : Bool) : (putPoison g c l p).parkLoop = g.parkLoop := rfl
@[simp] theorem putPoison_regs (g : Group) (c l : Nat) (p : Bool) : (putPoison g c l p).regs = g.regs := rfl
@[simp] theorem putPoison_poison (g : Group) (c l : Nat) (p : Bool) : (putPoison g c l p).poison = cset false (regKey c l) p g.poison := rfl
@[simp] theorem putPoison_pend (g : Group) (c l : Nat) (p : Bool) : (putPoison g c l p).pend = g.pend := rfl
@[simp] theorem putPoison_xregs (g : Group) (c l : Nat) (p : Bool) : (putPoison g c l p).xregs = g.xregs := rfl
@[simp] theorem putPoison_loops (g : Group) (c l : Nat) (p : Bool) : (putPoison g c l p).loops = g.loops := rfl
@[simp] theorem putPoison_lbuf (g : Group) (c l : Nat) (p : Bool) : (putPoison g c l p).lbuf = g.lbuf := rfl
@[simp] theorem putPoison_srctr (g : Group) (c l : Nat) (p : Bool) : (putPoison g c l p).srctr = g.srctr := rfl
@[simp] theorem putPoison_cnts (g : Group) (c l : Nat) (p : Bool) : (putPoison g c l p).cnts = g.cnts := rfl
@[simp] theorem putPoison_win (g : Group) (c l : Nat) (p : Bool) : (putPoison g c l p).win = g.win := rfl
@[simp] theorem putPoison_hist (g : Group) (c l : Nat) (p : Bool) : (putPoison g c l p).hist = g.hist := rfl
@[simp] theorem putPoison_replay (g : Group) (c l : Nat) (p : Bool) : (putPoison g c l p).replay = g.replay := rfl
@[simp] theorem putPoison_service (g : Group) (c l : Nat) (p : Bool) : (putPoison g c l p).service = g.service := rfl
@[simp] theorem putPoison_role (g : Group) (c l : Nat) (p : Bool) : (putPoison g c l p).role = g.role := rfl
@[simp] theorem putPoison_k (g : Group) (c l : Nat) (p : Bool) : (putPoison g c l p).k = g.k := rfl
@[simp] theorem putPoison_wait (g : Group) (c l : Nat) (p : Bool) : (putPoison g c l p).wait = g.wait := rfl
@[simp] theorem putPoison_hfault (g : Group) (c l : Nat) (p : Bool) : (putPoison g c l p).hfault = g.hfault := rfl
@[simp] theorem putPoison_trigq (g : Group) (c l : Nat) (p : Bool) : (putPoison g c l p).trigq = g.trigq := rfl
@[simp] theorem putPoison_xfences (g : Group) (c l : Nat) (p : Bool) : (putPoison g c l p).xfences = g.xfences := rfl
@[simp] theorem putPoison_tr (g : Group) (c l : Nat) (p : Bool) : (putPoison g c l p).tr = g.tr := rfl
@[simp] theorem putPoison_scratch (g : Group) (c l : Nat) (p : Bool) : (putPoison g c l p).scratch = g.scratch := rfl
@[simp] theorem putPoison_noBp (g : Group) (c l : Nat) (p : Bool) : (putPoison g c l p).noBp = g.noBp := rfl
@[simp] theorem putPoison_seq (g : Group) (c l : Nat) (p : Bool) : (putPoison g c l p).seq = g.seq := rfl
@[simp] theorem putPoison_slot (g : Group) (c l : Nat) (p : Bool) : (putPoison g c l p).slot = g.slot := rfl
@[simp] theorem putPoison_gslot (g : Group) (c l : Nat) (p : Bool) : (putPoison g c l p).gslot = g.gslot := rfl
@[simp] theorem putPoison_active (g : Group) (c l : Nat) (p : Bool) : (putPoison g c l p).active = g.active := rfl
@[simp] theorem putPoison_lastIssue (g : Group) (c l : Nat) (p : Bool) : (putPoison g c l p).lastIssue = g.lastIssue := rfl
@[simp] theorem putPoison_poolBad (g : Group) (c l : Nat) (p : Bool) : (putPoison g c l p).poolBad = g.poolBad := rfl
@[simp] theorem putPoison_fenced (g : Group) (c l : Nat) (p : Bool) : (putPoison g c l p).fenced = g.fenced := rfl
@[simp] theorem putPoison_relNow (g : Group) (c l : Nat) (p : Bool) : (putPoison g c l p).relNow = g.relNow := rfl
@[simp] theorem putPoison_relSeen (g : Group) (c l : Nat) (p : Bool) : (putPoison g c l p).relSeen = g.relSeen := rfl
@[simp] theorem putPoison_retired (g : Group) (c l : Nat) (p : Bool) : (putPoison g c l p).retired = g.retired := rfl

@[simp] theorem putPend_gid (g : Group) (c l : Nat) (p : Bool) : (putPend g c l p).gid = g.gid := rfl
@[simp] theorem putPend_bid (g : Group) (c l : Nat) (p : Bool) : (putPend g c l p).bid = g.bid := rfl
@[simp] theorem putPend_num (g : Group) (c l : Nat) (p : Bool) : (putPend g c l p).num = g.num := rfl
@[simp] theorem putPend_upc (g : Group) (c l : Nat) (p : Bool) : (putPend g c l p).upc = g.upc := rfl
@[simp] theorem putPend_spc (g : Group) (c l : Nat) (p : Bool) : (putPend g c l p).spc = g.spc := rfl
@[simp] theorem putPend_live (g : Group) (c l : Nat) (p : Bool) : (putPend g c l p).live = g.live := rfl
@[simp] theorem putPend_parkWide (g : Group) (c l : Nat) (p : Bool) : (putPend g c l p).parkWide = g.parkWide := rfl
@[simp] theorem putPend_parkLoop (g : Group) (c l : Nat) (p : Bool) : (putPend g c l p).parkLoop = g.parkLoop := rfl
@[simp] theorem putPend_regs (g : Group) (c l : Nat) (p : Bool) : (putPend g c l p).regs = g.regs := rfl
@[simp] theorem putPend_poison (g : Group) (c l : Nat) (p : Bool) : (putPend g c l p).poison = g.poison := rfl
@[simp] theorem putPend_pend (g : Group) (c l : Nat) (p : Bool) : (putPend g c l p).pend = cset false (regKey c l) p g.pend := rfl
@[simp] theorem putPend_xregs (g : Group) (c l : Nat) (p : Bool) : (putPend g c l p).xregs = g.xregs := rfl
@[simp] theorem putPend_loops (g : Group) (c l : Nat) (p : Bool) : (putPend g c l p).loops = g.loops := rfl
@[simp] theorem putPend_lbuf (g : Group) (c l : Nat) (p : Bool) : (putPend g c l p).lbuf = g.lbuf := rfl
@[simp] theorem putPend_srctr (g : Group) (c l : Nat) (p : Bool) : (putPend g c l p).srctr = g.srctr := rfl
@[simp] theorem putPend_cnts (g : Group) (c l : Nat) (p : Bool) : (putPend g c l p).cnts = g.cnts := rfl
@[simp] theorem putPend_win (g : Group) (c l : Nat) (p : Bool) : (putPend g c l p).win = g.win := rfl
@[simp] theorem putPend_hist (g : Group) (c l : Nat) (p : Bool) : (putPend g c l p).hist = g.hist := rfl
@[simp] theorem putPend_replay (g : Group) (c l : Nat) (p : Bool) : (putPend g c l p).replay = g.replay := rfl
@[simp] theorem putPend_service (g : Group) (c l : Nat) (p : Bool) : (putPend g c l p).service = g.service := rfl
@[simp] theorem putPend_role (g : Group) (c l : Nat) (p : Bool) : (putPend g c l p).role = g.role := rfl
@[simp] theorem putPend_k (g : Group) (c l : Nat) (p : Bool) : (putPend g c l p).k = g.k := rfl
@[simp] theorem putPend_wait (g : Group) (c l : Nat) (p : Bool) : (putPend g c l p).wait = g.wait := rfl
@[simp] theorem putPend_hfault (g : Group) (c l : Nat) (p : Bool) : (putPend g c l p).hfault = g.hfault := rfl
@[simp] theorem putPend_trigq (g : Group) (c l : Nat) (p : Bool) : (putPend g c l p).trigq = g.trigq := rfl
@[simp] theorem putPend_xfences (g : Group) (c l : Nat) (p : Bool) : (putPend g c l p).xfences = g.xfences := rfl
@[simp] theorem putPend_tr (g : Group) (c l : Nat) (p : Bool) : (putPend g c l p).tr = g.tr := rfl
@[simp] theorem putPend_scratch (g : Group) (c l : Nat) (p : Bool) : (putPend g c l p).scratch = g.scratch := rfl
@[simp] theorem putPend_noBp (g : Group) (c l : Nat) (p : Bool) : (putPend g c l p).noBp = g.noBp := rfl
@[simp] theorem putPend_seq (g : Group) (c l : Nat) (p : Bool) : (putPend g c l p).seq = g.seq := rfl
@[simp] theorem putPend_slot (g : Group) (c l : Nat) (p : Bool) : (putPend g c l p).slot = g.slot := rfl
@[simp] theorem putPend_gslot (g : Group) (c l : Nat) (p : Bool) : (putPend g c l p).gslot = g.gslot := rfl
@[simp] theorem putPend_active (g : Group) (c l : Nat) (p : Bool) : (putPend g c l p).active = g.active := rfl
@[simp] theorem putPend_lastIssue (g : Group) (c l : Nat) (p : Bool) : (putPend g c l p).lastIssue = g.lastIssue := rfl
@[simp] theorem putPend_poolBad (g : Group) (c l : Nat) (p : Bool) : (putPend g c l p).poolBad = g.poolBad := rfl
@[simp] theorem putPend_fenced (g : Group) (c l : Nat) (p : Bool) : (putPend g c l p).fenced = g.fenced := rfl
@[simp] theorem putPend_relNow (g : Group) (c l : Nat) (p : Bool) : (putPend g c l p).relNow = g.relNow := rfl
@[simp] theorem putPend_relSeen (g : Group) (c l : Nat) (p : Bool) : (putPend g c l p).relSeen = g.relSeen := rfl
@[simp] theorem putPend_retired (g : Group) (c l : Nat) (p : Bool) : (putPend g c l p).retired = g.retired := rfl

@[simp] theorem putCnt_gid (g : Group) (p : Path) (n : Nat) : (putCnt g p n).gid = g.gid := rfl
@[simp] theorem putCnt_bid (g : Group) (p : Path) (n : Nat) : (putCnt g p n).bid = g.bid := rfl
@[simp] theorem putCnt_num (g : Group) (p : Path) (n : Nat) : (putCnt g p n).num = g.num := rfl
@[simp] theorem putCnt_upc (g : Group) (p : Path) (n : Nat) : (putCnt g p n).upc = g.upc := rfl
@[simp] theorem putCnt_spc (g : Group) (p : Path) (n : Nat) : (putCnt g p n).spc = g.spc := rfl
@[simp] theorem putCnt_live (g : Group) (p : Path) (n : Nat) : (putCnt g p n).live = g.live := rfl
@[simp] theorem putCnt_parkWide (g : Group) (p : Path) (n : Nat) : (putCnt g p n).parkWide = g.parkWide := rfl
@[simp] theorem putCnt_parkLoop (g : Group) (p : Path) (n : Nat) : (putCnt g p n).parkLoop = g.parkLoop := rfl
@[simp] theorem putCnt_regs (g : Group) (p : Path) (n : Nat) : (putCnt g p n).regs = g.regs := rfl
@[simp] theorem putCnt_poison (g : Group) (p : Path) (n : Nat) : (putCnt g p n).poison = g.poison := rfl
@[simp] theorem putCnt_pend (g : Group) (p : Path) (n : Nat) : (putCnt g p n).pend = g.pend := rfl
@[simp] theorem putCnt_xregs (g : Group) (p : Path) (n : Nat) : (putCnt g p n).xregs = g.xregs := rfl
@[simp] theorem putCnt_loops (g : Group) (p : Path) (n : Nat) : (putCnt g p n).loops = g.loops := rfl
@[simp] theorem putCnt_lbuf (g : Group) (p : Path) (n : Nat) : (putCnt g p n).lbuf = g.lbuf := rfl
@[simp] theorem putCnt_srctr (g : Group) (p : Path) (n : Nat) : (putCnt g p n).srctr = g.srctr := rfl
@[simp] theorem putCnt_cnts (g : Group) (p : Path) (n : Nat) : (putCnt g p n).cnts = cset 0 (pathNo p) n g.cnts := rfl
@[simp] theorem putCnt_win (g : Group) (p : Path) (n : Nat) : (putCnt g p n).win = g.win := rfl
@[simp] theorem putCnt_hist (g : Group) (p : Path) (n : Nat) : (putCnt g p n).hist = g.hist := rfl
@[simp] theorem putCnt_replay (g : Group) (p : Path) (n : Nat) : (putCnt g p n).replay = g.replay := rfl
@[simp] theorem putCnt_service (g : Group) (p : Path) (n : Nat) : (putCnt g p n).service = g.service := rfl
@[simp] theorem putCnt_role (g : Group) (p : Path) (n : Nat) : (putCnt g p n).role = g.role := rfl
@[simp] theorem putCnt_k (g : Group) (p : Path) (n : Nat) : (putCnt g p n).k = g.k := rfl
@[simp] theorem putCnt_wait (g : Group) (p : Path) (n : Nat) : (putCnt g p n).wait = g.wait := rfl
@[simp] theorem putCnt_hfault (g : Group) (p : Path) (n : Nat) : (putCnt g p n).hfault = g.hfault := rfl
@[simp] theorem putCnt_trigq (g : Group) (p : Path) (n : Nat) : (putCnt g p n).trigq = g.trigq := rfl
@[simp] theorem putCnt_xfences (g : Group) (p : Path) (n : Nat) : (putCnt g p n).xfences = g.xfences := rfl
@[simp] theorem putCnt_tr (g : Group) (p : Path) (n : Nat) : (putCnt g p n).tr = g.tr := rfl
@[simp] theorem putCnt_scratch (g : Group) (p : Path) (n : Nat) : (putCnt g p n).scratch = g.scratch := rfl
@[simp] theorem putCnt_noBp (g : Group) (p : Path) (n : Nat) : (putCnt g p n).noBp = g.noBp := rfl
@[simp] theorem putCnt_seq (g : Group) (p : Path) (n : Nat) : (putCnt g p n).seq = g.seq := rfl
@[simp] theorem putCnt_slot (g : Group) (p : Path) (n : Nat) : (putCnt g p n).slot = g.slot := rfl
@[simp] theorem putCnt_gslot (g : Group) (p : Path) (n : Nat) : (putCnt g p n).gslot = g.gslot := rfl
@[simp] theorem putCnt_active (g : Group) (p : Path) (n : Nat) : (putCnt g p n).active = g.active := rfl
@[simp] theorem putCnt_lastIssue (g : Group) (p : Path) (n : Nat) : (putCnt g p n).lastIssue = g.lastIssue := rfl
@[simp] theorem putCnt_poolBad (g : Group) (p : Path) (n : Nat) : (putCnt g p n).poolBad = g.poolBad := rfl
@[simp] theorem putCnt_fenced (g : Group) (p : Path) (n : Nat) : (putCnt g p n).fenced = g.fenced := rfl
@[simp] theorem putCnt_relNow (g : Group) (p : Path) (n : Nat) : (putCnt g p n).relNow = g.relNow := rfl
@[simp] theorem putCnt_relSeen (g : Group) (p : Path) (n : Nat) : (putCnt g p n).relSeen = g.relSeen := rfl
@[simp] theorem putCnt_retired (g : Group) (p : Path) (n : Nat) : (putCnt g p n).retired = g.retired := rfl

end Sys2Proof.Machine
end

