-- ==== Sys2Proof/Laws/Mem.lean ====
section
/-! SUPPORT. Memory and pad: every operation keeps memory's canonical form, and a read after a write. -/

namespace Sys2Proof.Machine

theorem reset_mem_wf : Memory.wf State.reset.mem := by decide

theorem memPut_wf (s : State) (pa v : Nat) (h : Memory.wf s.mem) : Memory.wf (memPut s pa v).mem := cellsOk_cset _ _ _ _ h

/-- Writing some bytes in turn keeps the form. -/
theorem foldPut_wf {α : Type} (pa v : α → Nat) (as : List α) : ∀ s : State, Memory.wf s.mem →
    Memory.wf (as.foldl (fun t e => memPut t (pa e) (v e)) s).mem := by
  induction as with
  | nil => exact fun _ h => h
  | cons a as ih => exact fun s h => ih _ (memPut_wf s _ _ h)

theorem memSet_wf (s : State) (pa n v : Nat) (h : Memory.wf s.mem) : Memory.wf (memSet s pa n v).mem :=
  foldPut_wf (fun i => pa + i) (fun i => bits v (8 * i) 8) (List.range n) s h

theorem mem_filter_wf (p : Host.Cell → Bool) (m : List Host.Cell) (h : Memory.wf m) : Memory.wf (m.filter p) := cellsOk_filter 0 p m h

/-- The keys of two parts rise when each does and the first lies below the second. -/
theorem sortedFrom_append {α : Type} (k : Nat) (m n : List (Nat × α)) : ∀ lo, sortedFrom lo m = true → lo ≤ k → (∀ e ∈ m, e.1 < k) →
    sortedFrom k n = true → sortedFrom lo (m ++ n) = true := by
  induction m with
  | nil => exact fun lo _ hk _ hn => sortedFrom_mono hk n hn
  | cons a m ih =>
    obtain ⟨j, v⟩ := a
    intro lo hm hk hb hn
    simp only [sortedFrom, List.cons_append, Bool.and_eq_true, decide_eq_true_eq] at hm ⊢
    have hj : j < k := hb (j, v) (by simp)
    exact ⟨hm.1, ih (j + 1) hm.2 hj (fun e he => hb e (List.mem_cons_of_mem _ he)) hn⟩

theorem sortedFrom_raise {α : Type} (k : Nat) (m : List (Nat × α)) : ∀ lo, sortedFrom lo m = true → (∀ e ∈ m, k ≤ e.1) → sortedFrom k m = true := by
  cases m with
  | nil => exact fun _ _ _ => rfl
  | cons a m =>
    obtain ⟨j, v⟩ := a
    intro lo hm hb
    simp only [sortedFrom, Bool.and_eq_true, decide_eq_true_eq] at hm ⊢
    exact ⟨hb (j, v) (by simp), hm.2⟩

/-- The cells of a list of bytes laid from `base` on. -/
theorem sortedFrom_cells (bs : List Byte) : ∀ (base i : Nat),
    sortedFrom (base + i) (((List.range' i bs.length).zip bs).filterMap (fun e => if e.2 = 0 then none else some (base + e.1, e.2))) = true := by
  induction bs with
  | nil => intro base i; rfl
  | cons b bs ih =>
    intro base i
    have h := ih base (i + 1)
    simp only [List.length_cons, List.range'_succ, List.zip_cons_cons, List.filterMap_cons]
    split
    · exact sortedFrom_mono (by omega) _ h
    · rename_i c hc
      split at hc
      · cases hc
      · cases hc
        simp only [sortedFrom, Bool.and_eq_true, decide_eq_true_eq]
        exact ⟨Nat.le_refl _, h⟩

theorem mem_cells (bs : List Byte) (base : Nat) (c : Host.Cell) (h : c ∈ ((List.range bs.length).zip bs).filterMap (fun e => if e.2 = 0 then none else some (base + e.1, e.2))) :
    base ≤ c.1 ∧ c.1 < base + bs.length ∧ c.2 ≠ 0 := by
  obtain ⟨e, he, hc⟩ := List.mem_filterMap.mp h
  split at hc
  · cases hc
  · rename_i hz
    cases hc
    have := List.mem_range.mp (List.of_mem_zip he).1
    exact ⟨by omega, by omega, hz⟩

theorem memFill_wf (base : Nat) (bs : List Byte) (s : State) (h : Memory.wf s.mem) : Memory.wf (memFill base bs s).mem := by
  simp only [Memory.wf, cellsOk, Bool.and_eq_true] at h ⊢
  obtain ⟨h1, h2⟩ := h
  have hz : ∀ e ∈ s.mem, e.2 ≠ 0 := by simpa using h2
  unfold memFill
  dsimp only
  constructor
  · rw [List.append_assoc]
    refine sortedFrom_append base _ _ 0 (sortedFrom_sublist List.filter_sublist 0 h1) (Nat.zero_le _) (fun e he => by simpa using (List.mem_filter.mp he).2) ?_
    refine sortedFrom_append (base + bs.length) _ _ base ?_ (by omega) (fun e he => (mem_cells bs base e he).2.1) ?_
    · have := sortedFrom_cells bs base 0
      rwa [← List.range_eq_range', Nat.add_zero] at this
    · exact sortedFrom_raise _ _ 0 (sortedFrom_sublist List.filter_sublist 0 h1) (fun e he => by simpa using (List.mem_filter.mp he).2)
  · rw [List.all_eq_true]
    intro e he
    rcases List.mem_append.mp he with h3 | h3
    · rcases List.mem_append.mp h3 with h4 | h4
      · simpa using hz e (List.mem_filter.mp h4).1
      · simpa using (mem_cells bs base e h4).2.2
    · simpa using hz e (List.mem_filter.mp h3).1

theorem shiftFrame_wf (src dst w : Nat) (m : List Host.Cell) (h : Memory.wf m) : Memory.wf (shiftFrame src dst w m) := by
  unfold shiftFrame
  have hz : ∀ e ∈ m.filter (fun e => e.1 / w == src), e.2 ≠ (0 : Byte) := by
    intro e he
    have h2 := (Bool.and_eq_true _ _ ▸ h : sortedFrom 0 m = true ∧ m.all (fun e => decide (e.2 ≠ 0)) = true).2
    simpa using List.all_eq_true.mp h2 e (List.mem_filter.mp he).1
  have h0 : Memory.wf (m.filter (fun e => e.1 / w != dst)) := mem_filter_wf _ m h
  revert h0 hz
  generalize m.filter (fun e => e.1 / w == src) = as
  generalize m.filter (fun e => e.1 / w != dst) = t
  intro hz
  induction as generalizing t with
  | nil => exact fun h => h
  | cons a as ih =>
    intro h0
    exact ih _ (fun e he => hz e (List.mem_cons_of_mem _ he)) (cellsOk_minsert 0 _ _ (hz a (by simp)) t h0)

/-- Outside the pool window a byte stands at its address. -/
theorem memKey_plain (s : State) (pa : Nat) (h : pa < 2 ^ 49 ∨ 2 ^ 50 ≤ pa) : memKey s pa = pa := if_pos h

/-- Where a byte stands depends on nothing but the entries of the pool regions. -/
theorem memKey_congr (s t : State) (h : t.pool.entries = s.pool.entries) (pa : Nat) : memKey t pa = memKey s pa := by
  unfold memKey; rw [h]

@[simp] theorem memKey_memPut (s : State) (pa v b : Nat) : memKey (memPut s pa v) b = memKey s b := rfl

/-- A byte read after a byte is written: they are the same where they stand in one place. -/
theorem memByte_memPut (s : State) (pa v b : Nat) (h : (mfind (b / 64) s.hostHalf).bind (fun h => h.dirty) = none) :
    memByte (memPut s pa v) b = if memKey s b = memKey s pa then v % 256 else memByte s b := by
  have h' : (mfind (b / 64) (memPut s pa v).hostHalf).bind (fun h => h.dirty) = none := h
  unfold memByte
  rw [h, h']
  simp only [memPut_mem, memKey_memPut, cget_cset]
  split <;> simp

@[simp] theorem memKey_memSet (s : State) (pa n v b : Nat) : memKey (memSet s pa n v) b = memKey s b := by
  induction n with
  | zero => rfl
  | succ n ih =>
    have e : memSet s pa (n + 1) v = memPut (memSet s pa n v) (pa + n) (bits v (8 * n) 8) := by
      unfold memSet; rw [List.range_succ, List.foldl_append]; rfl
    rw [e, memKey_memPut, ih]

/-- A byte read after `n` bytes are written: it is its byte of the value, or as before, unless it stands in one place with a byte of
another address. -/
theorem memByte_memSet (s : State) (pa n v b : Nat) (h : (mfind (b / 64) s.hostHalf).bind (fun h => h.dirty) = none)
    (hk : ∀ i < n, memKey s b = memKey s (pa + i) → b = pa + i) :
    memByte (memSet s pa n v) b = if pa ≤ b ∧ b < pa + n then bits v (8 * (b - pa)) 8 else memByte s b := by
  have hh : ∀ n, (memSet s pa n v).hostHalf = s.hostHalf := by
    intro n
    induction n with
    | zero => rfl
    | succ n ih => unfold memSet at *; rw [List.range_succ, List.foldl_append]; exact ih
  induction n with
  | zero => rw [if_neg (by omega)]; rfl
  | succ n ih =>
    have e : memSet s pa (n + 1) v = memPut (memSet s pa n v) (pa + n) (bits v (8 * n) 8) := by
      unfold memSet; rw [List.range_succ, List.foldl_append]; rfl
    rw [e, memByte_memPut _ _ _ _ (by rw [hh]; exact h), ih (fun i hi => hk i (by omega)), memKey_memSet, memKey_memSet]
    have hb : bits v (8 * n) 8 % 256 = bits v (8 * n) 8 := Nat.mod_eq_of_lt (Nat.mod_lt _ (by decide))
    by_cases hc : b = pa + n
    · subst hc
      rw [if_pos rfl, if_pos ⟨by omega, by omega⟩, Nat.add_sub_cancel_left, hb]
    · rw [if_neg (fun k => hc (hk n (by omega) k))]
      by_cases h1 : pa ≤ b ∧ b < pa + n
      · rw [if_pos h1, if_pos ⟨h1.1, by omega⟩]
      · rw [if_neg h1, if_neg (fun k => h1 ⟨k.1, by omega⟩)]

/-- A byte of pad after `n` bytes are written to it. -/
theorem cget_padPut (blk : Block) (off n v b : Nat) :
    (cget 0 b (padPut off n v blk).pad).toNat = if off ≤ b ∧ b < off + n then bits v (8 * (b - off)) 8 else (cget 0 b blk.pad).toNat := by
  induction n with
  | zero => rw [if_neg (by omega)]; rfl
  | succ n ih =>
    have e : (padPut off (n + 1) v blk).pad = cset 0 (off + n) (BitVec.ofNat 8 (bits v (8 * n) 8)) (padPut off n v blk).pad := by
      unfold padPut; rw [List.range_succ, List.foldl_append]; rfl
    rw [e, cget_cset]
    have hb : bits v (8 * n) 8 % 2 ^ 8 = bits v (8 * n) 8 := Nat.mod_eq_of_lt (Nat.mod_lt _ (by decide))
    by_cases hc : b = off + n
    · subst hc
      rw [if_pos rfl, if_pos ⟨by omega, by omega⟩, Nat.add_sub_cancel_left, BitVec.toNat_ofNat, hb]
    · rw [if_neg hc, ih]
      by_cases h1 : off ≤ b ∧ b < off + n
      · rw [if_pos h1, if_pos ⟨h1.1, by omega⟩]
      · rw [if_neg h1, if_neg (fun k => h1 ⟨k.1, by omega⟩)]

end Sys2Proof.Machine
end

