-- ==== Sys2Proof/Laws/Xlate.lean ====
section
/-! SUPPORT. What translating and fetching change: the TLB, the pool's region entries, the copies, halves and directory entries that their
reads of memory recall, the requests that they send to peers, the draws of free answers, the fetched lines, and the report of a data error;
and nothing else. -/

namespace Sys2Proof.Machine

/-- `t` differs from `s` at most in what translations and fetches keep: their reads of memory merge what the host and the owners of lines
hold, report data errors, which interrupts the driver, and may ask a peer. Memory keeps its form. -/
structure FetchOnly (s t : State) : Prop where
  only : t = { s with tlb := t.tlb, pool := t.pool, fresh := t.fresh, il := t.il, mem := t.mem, parts := t.parts, vfIstat := t.vfIstat, irqs := t.irqs,
                      tags := t.tags, hostHalf := t.hostHalf, dir := t.dir, l1 := t.l1, lineErr := t.lineErr, l2Err := t.l2Err, fab := t.fab }
  form : Memory.wf s.mem → Memory.wf t.mem

theorem FetchOnly.rfl' (s : State) : FetchOnly s s := ⟨rfl, id⟩

theorem FetchOnly.trans {s t u : State} (h : FetchOnly s t) (k : FetchOnly t u) : FetchOnly s u :=
  ⟨by rw [k.only, h.only], fun w => k.form (h.form w)⟩

theorem FetchOnly.groups {s t : State} (h : FetchOnly s t) : t.groups = s.groups := by rw [h.only]
theorem FetchOnly.blocks {s t : State} (h : FetchOnly s t) : t.blocks = s.blocks := by rw [h.only]
theorem FetchOnly.grids {s t : State} (h : FetchOnly s t) : t.grids = s.grids := by rw [h.only]
theorem FetchOnly.ops {s t : State} (h : FetchOnly s t) : t.ops = s.ops := by rw [h.only]
theorem FetchOnly.cycle {s t : State} (h : FetchOnly s t) : t.cycle = s.cycle := by rw [h.only]

/-- `t` differs from `s` at most in what the report of an error changes: the ring, which is memory, and the interrupts of the driver. -/
structure ReportOnly (s t : State) : Prop where
  only : t = { s with mem := t.mem, parts := t.parts, vfIstat := t.vfIstat, irqs := t.irqs }
  form : Memory.wf s.mem → Memory.wf t.mem

theorem ReportOnly.trans {s t u : State} (h : ReportOnly s t) (k : ReportOnly t u) : ReportOnly s u :=
  ⟨by rw [k.only, h.only], fun w => k.form (h.form w)⟩

theorem ReportOnly.fetch {s t : State} (h : ReportOnly s t) : FetchOnly s t := ⟨by rw [h.only], h.form⟩

theorem partIrq_report (p k : Nat) (s : State) : ReportOnly s (partIrq p k s) := by
  have h : ∀ (vs : List Nat) (t : State), ReportOnly s t →
      ReportOnly s (vs.foldl (fun t v => raiseIrq v 0 { t with vfIstat := cset 0 v (cget 0 v t.vfIstat ||| (1 <<< k)) t.vfIstat }) t) := by
    intro vs
    induction vs with
    | nil => exact fun _ h => h
    | cons v vs ih => exact fun t h => ih _ (h.trans ⟨rfl, id⟩)
  have k2 := h ((s.vfs.filter (fun e => e.2 == p)).map (fun e => e.1)) (modPart p (fun q => { q with istat := q.istat ||| (1 <<< k) }) s) ⟨rfl, id⟩
  exact k2.trans ⟨rfl, id⟩

theorem memSet_only (s : State) (pa n v : Nat) : memSet s pa n v = { s with mem := (memSet s pa n v).mem } := by
  have h : ∀ (is : List Nat) (t : State), t = { s with mem := t.mem } →
      is.foldl (fun t i => memPut t (pa + i) (bits v (8 * i) 8)) t = { s with mem := (is.foldl (fun t i => memPut t (pa + i) (bits v (8 * i) 8)) t).mem } := by
    intro is
    induction is with
    | nil => exact fun _ h => h
    | cons i is ih => exact fun t h => ih _ (by unfold memPut; rw [h])
  exact h _ s rfl

theorem memSet_report (s : State) (pa n v : Nat) : ReportOnly s (memSet s pa n v) := ⟨by rw [memSet_only], memSet_wf s pa n v⟩

theorem memSet_fetch (s : State) (pa n v : Nat) : FetchOnly s (memSet s pa n v) := (memSet_report s pa n v).fetch

/-- A report writes the ring and, of an uncorrectable error, interrupts the driver. -/
theorem rasLog_report (kind sev : Nat) (part : Option Nat) (unit addr : Nat) (s : State) : ReportOnly s (rasLog kind sev part unit addr s) := by
  unfold rasLog
  extract_lets k at_ s1 s2
  have h1 : ReportOnly s s1 := memSet_report s at_ 32 _
  have h2 : ReportOnly s s2 := h1.trans ((memSet_report s1 (rasBase + 8) 4 524160).trans (memSet_report _ rasBase 8 (k + 1)))
  clear_value s2
  split
  · split
    · exact h2.trans (partIrq_report _ _ _)
    · exact h2
  · exact h2

theorem softError_report (s : State) (kind : Nat) (part : Option Nat) (unit addr : Nat) : ReportOnly s (softError s kind part unit addr) :=
  rasLog_report _ _ _ _ _ _

theorem rasLog_fetch (kind sev : Nat) (part : Option Nat) (unit addr : Nat) (s : State) : FetchOnly s (rasLog kind sev part unit addr s) :=
  (rasLog_report _ _ _ _ _ _).fetch

theorem softError_fetch (s : State) (kind : Nat) (part : Option Nat) (unit addr : Nat) : FetchOnly s (softError s kind part unit addr) :=
  rasLog_fetch _ _ _ _ _ _

theorem lineError_fetch (part : Option Nat) (pa : Nat) (s : State) : FetchOnly s (lineError part pa s) := softError_fetch _ _ _ _ _

theorem FetchOnly.setPool (s : State) (p : Pool) : FetchOnly s { s with pool := p } := ⟨rfl, id⟩

theorem takeRegion_only (r : Nat) (s : State) : FetchOnly s (takeRegion r s) := by
  unfold takeRegion
  extract_lets s1
  have h : FetchOnly s s1 := by
    unfold s1
    split
    · exact lineError_fetch none (regionAt s r) s
    · exact .rfl' s
  clear_value s1
  exact h.trans (.setPool _ _)

theorem poolNote_only (s : State) (pa : Nat) : FetchOnly s (poolNote s pa) := by
  unfold poolNote
  split
  · split
    · exact .rfl' s
    · exact takeRegion_only _ _
  · exact .rfl' s

theorem mcNote_only (s : State) (pa : Nat) : FetchOnly s (mcNote s pa) := by
  unfold mcNote
  split
  · split
    · exact lineError_fetch _ _ _
    · exact .rfl' s
  · exact .rfl' s

theorem paNote_only (s : State) (pa : Nat) : FetchOnly s (paNote s pa) := (poolNote_only s pa).trans (mcNote_only _ pa)

theorem retag_only (s : State) (line : Nat) (cmp : Bool) : FetchOnly s (retag s line cmp) := by
  unfold retag
  split
  · exact ⟨rfl, id⟩
  · exact .rfl' s

theorem claimHalf_only (s : State) (pa n : Nat) : FetchOnly s (claimHalf s pa n) := by
  have h : ∀ (hs : List (Nat × HalfLine)) (t : State), FetchOnly s t → FetchOnly s (hs.foldl (fun t e =>
      let u := { t with hostHalf := merase e.1 t.hostHalf }
      match e.2.dirty with
      | none => u
      | some v =>
        if lineBad u e.2.pa then lineError (partOfLine u e.2.pa) (e.2.pa / 128 * 128) u
        else retag (memSet u e.2.pa 64 v) (lineOf e.2.pa) false) t) := by
    intro hs
    induction hs with
    | nil => exact fun _ h => h
    | cons e hs ih =>
      intro t h
      refine ih _ ?_
      have k : FetchOnly s { t with hostHalf := merase e.1 t.hostHalf } := h.trans ⟨rfl, id⟩
      dsimp only
      split
      · exact k
      · split
        · exact k.trans (lineError_fetch _ _ _)
        · exact (k.trans (memSet_fetch _ _ _ _)).trans (retag_only _ _ _)
  exact h _ _ (.rfl' s)

theorem recallOwner_only (s : State) (line : Nat) (core : Option Nat) : FetchOnly s (recallOwner s line core) := by
  have h : FetchOnly s (l1Lost s line) := by
    unfold l1Lost
    split
    · exact .rfl' s
    · split
      · split
        · rename_i c _ _ e _ _
          have k : FetchOnly s { s with l1 := merase (c * 2 ^ 45 + line) s.l1, lineErr := minsert line true s.lineErr } := ⟨rfl, id⟩
          exact k.trans (softError_fetch _ _ _ _ _)
        · exact .rfl' s
      · exact .rfl' s
  unfold recallOwner
  dsimp only
  split
  · exact h
  · split
    · exact h
    · exact h.trans ⟨rfl, id⟩

theorem homeRead_only (s : State) (pa n : Nat) : FetchOnly s (homeRead s pa n).2 := by
  have h : FetchOnly s (l2Mend (claimHalf s pa n) (lineOf pa)) := by
    refine (claimHalf_only s pa n).trans ?_
    unfold l2Mend
    split
    · exact .rfl' _
    · refine FetchOnly.trans ?_ (rasLog_fetch _ _ _ _ _ _)
      exact ⟨rfl, id⟩
  unfold homeRead
  dsimp only
  split <;> exact h

theorem queuePackets_only (ps : List Packet) : ∀ s : State, FetchOnly s (queuePackets ps s) := by
  have drain : ∀ (cls : Nat) (s : State), FetchOnly s (drainQueues cls s) := by
    intro cls s
    have h : ∀ (es : List (Nat × Nat)) (t : State), FetchOnly s t → FetchOnly s (es.foldl (fun t e =>
        { t with fresh := t.fresh + 1, fab := { t.fab with inQueue := cset 0 e.1 (Config.freeChoice t.fresh % (e.2 + 1)) t.fab.inQueue } }) t) := by
      intro es
      induction es with
      | nil => exact fun _ h => h
      | cons e es ih => exact fun t h => ih _ (h.trans ⟨rfl, id⟩)
    exact h _ _ (.rfl' s)
  induction ps with
  | nil => exact .rfl'
  | cons p ps ih =>
    intro s
    refine FetchOnly.trans (t := queuePackets [p] s) ((drain p.cls s).trans ⟨rfl, id⟩) ?_
    exact ih _

theorem peerRead_only (s : State) (part pa n : Nat) : FetchOnly s (peerRead s part pa n).2 := by
  unfold peerRead
  split
  · split
    · exact .rfl' s
    · dsimp only
      refine FetchOnly.trans (t := queuePackets _ _) ?_ ⟨rfl, id⟩
      refine FetchOnly.trans ?_ (queuePackets_only _ _)
      exact ⟨rfl, id⟩
  · exact .rfl' s

theorem tableWord_only (s : State) (part at_ : Nat) : FetchOnly s (tableWord s part at_).2 := by
  have h := poolNote_only s at_
  unfold tableWord
  dsimp only
  split
  · exact h
  · split
    · exact h.trans (peerRead_only (poolNote s at_) part at_ 8)
    · generalize homePa (poolNote s at_) part at_ = pa
      have k := (h.trans (recallOwner_only _ (lineOf pa) none)).trans (homeRead_only _ pa 8)
      split
      · exact k
      · exact k.trans (lineError_fetch (some part) pa _)

theorem walkFrom_only (part va : Nat) (ls : List (Nat × Nat × Nat)) : ∀ tbl s, FetchOnly s (walkFrom part va ls tbl s).2 := by
  induction ls with
  | nil => exact fun _ s => .rfl' s
  | cons l ls ih =>
    intro tbl s
    obtain ⟨level, lo, nb⟩ := l
    have h := tableWord_only s part (tbl + 8 * bits va lo nb)
    unfold walkFrom
    dsimp only
    split
    · exact h
    · split
      · exact h
      · split
        · exact h
        · generalize (if level = 1 then 8 else 12) = al
          split
          · exact h.trans (ih _ _)
          · exact h

theorem walk_only (s : State) (part va : Nat) : FetchOnly s (walk s part va).2 := by
  unfold walk
  dsimp only
  split
  · exact walkFrom_only _ _ _ _ _
  · exact .rfl' s

theorem tlbLeaf_only (s : State) (core part va : Nat) : FetchOnly s (tlbLeaf s core part va).2 := by
  have h := walk_only s part va
  unfold tlbLeaf
  split
  · exact .rfl' s
  · split
    · exact ⟨rfl, id⟩
    · dsimp only
      split
      · exact h.trans ⟨rfl, id⟩
      · exact h

theorem xlatePiece_only (s : State) (core part : Nat) (service : Bool) (need : Need) (mc : Bool) (va n off : Nat) :
    FetchOnly s (xlatePiece s core part service need mc va n off).2 := by
  have hl := tlbLeaf_only s core part va
  simp only [xlatePiece]
  split
  · exact .rfl' _
  · split
    · exact hl
    · split
      · exact hl
      · split <;> exact hl.trans (paNote_only _ _)

theorem xlateAll_only (f : State → Nat → Nat → Except XFault Piece × State) (hf : ∀ s off k, FetchOnly s (f s off k).2) (cs : List (Nat × Nat)) :
    ∀ s, FetchOnly s (xlateAll f cs s).2 := by
  induction cs with
  | nil => intro s; exact .rfl' _
  | cons c cs ih =>
    intro s
    obtain ⟨off, k⟩ := c
    have h := (hf s off k).trans (ih (f s off k).2)
    simp only [xlateAll]
    split
    · split
      · split <;> exact h
      · exact hf s off k
    · split <;> exact h

theorem xlateVa_only (s : State) (core part : Nat) (service : Bool) (need : Need) (mc : Bool) (va n : Nat) :
    FetchOnly s (xlateVa s core part service need mc va n).2 :=
  xlateAll_only _ (fun _ _ _ => xlatePiece_only _ _ _ _ _ _ _ _ _) _ s

theorem xlateX_only (s : State) (core part : Nat) (service : Bool) (need : Need) (mc : Bool) (xr : XReg) (o : Int) (n : Nat) :
    FetchOnly s (xlateX s core part service need mc xr o n).2 := by
  refine xlateAll_only _ (fun s off k => ?_) _ s
  dsimp only
  split
  · cases need <;> dsimp only <;> (split; · exact .rfl' _) <;> split <;> exact paNote_only _ _
  · exact xlatePiece_only _ _ _ _ _ _ _ _ _

theorem fetchLine_only (s : State) (core part line : Nat) : FetchOnly s (fetchLine s core part line).2 := by
  unfold fetchLine
  split
  · exact .rfl' s
  · split
    · have h := peerRead_only s part (line * 128) 128
      dsimp only
      split
      · exact h.trans ⟨rfl, id⟩
      · exact h
    · have h := (recallOwner_only s line none).trans (homeRead_only _ (line * 128) 128)
      dsimp only
      split
      · exact h.trans ⟨rfl, id⟩
      · exact h

theorem fetchPieces_only (core part : Nat) (ps : List Piece) : ∀ s, FetchOnly s (fetchPieces core part ps s).2 := by
  induction ps with
  | nil => intro s; exact .rfl' s
  | cons p ps ih =>
    intro s
    have h := fetchLine_only s core part (p.pa / 128)
    simp only [fetchPieces]
    split
    · split
      · exact h.trans (lineError_fetch (some part) p.pa (fetchLine s core part (p.pa / 128)).2)
      · exact h
    · exact h.trans (ih _)

theorem fetchMem_only (s : State) (core part : Nat) (service : Bool) (va n : Nat) : FetchOnly s (fetchMem s core part service va n).2 := by
  have h := xlateVa_only s core part service .ex false va n
  simp only [fetchMem]
  split
  · exact h
  · exact h.trans (fetchPieces_only _ _ _ _)

theorem fetchBytes_only (n : Nat) : ∀ (s : State) (g : Group) (va : Nat), FetchOnly s (fetchBytes n s g va).2 := by
  induction n with
  | zero => intro s g va; exact .rfl' s
  | succ n ih =>
    intro s g va
    have hm := fetchMem_only s (placeOf s g).1 (placeOf s g).2 g.service va 4
    have h := ih s g ((va + 4) % 2 ^ 64)
    have k := hm.trans (ih (fetchMem s (placeOf s g).1 (placeOf s g).2 g.service va 4).2 g ((va + 4) % 2 ^ 64))
    simp only [fetchBytes]
    by_cases hc : (List.map (fun i => fromCapture g (va + i)) (List.range 4)).all (fun o => o.isSome) = true
    · simp only [hc, if_true]
      split <;> exact h
    · simp only [hc]
      split
      · exact hm
      · split <;> exact k

theorem fetchAt_only (s : State) (g : Group) (pc : Nat) : FetchOnly s (fetchAt s g pc).2 := by
  have h := fetchBytes_only 1 s g pc
  simp only [fetchAt]
  split
  · exact h
  · rename_i b0 _
    have k := h.trans (fetchBytes_only (lenBytes (b0.getD 0 0) / 4 - 1) (fetchBytes 1 s g pc).2 g ((pc + 4) % 2 ^ 64))
    split
    · exact k
    · split <;> exact k

theorem pickPc_only (s : State) (g : Group) (cs : List (Nat × List Nat)) : ∀ low p, pickPc s g cs low = some p → FetchOnly s p.st := by
  induction cs with
  | nil => intro low p h; cases h
  | cons c cs ih =>
    intro low p h
    obtain ⟨pc, ls⟩ := c
    simp only [pickPc] at h
    split at h
    · cases h; exact fetchAt_only s g pc
    · split at h
      · exact ih _ _ h
      · split at h
        · cases h
        · cases h; exact fetchAt_only s g pc

/-- What a group's next issue has fetched changes nothing but what fetching keeps. -/
theorem nextIssue_only (s : State) (g : Group) (p : Pick) (h : nextIssue s g = some p) : FetchOnly s p.st := by
  simp only [nextIssue] at h
  split at h
  · cases h
  · split at h
    · cases h
    · rename_i q hq
      have hp : q = p := by
        split at h
        · repeat' split at h
          all_goals first | exact Option.some.inj h | cases h
        · exact Option.some.inj h
      subst hp
      exact pickPc_only s g _ _ _ hq

end Sys2Proof.Machine
end

