-- ==== Sys2Proof/Laws/Past.lean ====
section
/-! SUPPORT. Writes that readers may still miss, and what a write to pad changes besides its bytes (spec/13 R231 to R235,
spec/17 R298, R344). -/

namespace Sys2Proof.Machine

/-- Noting a write changes nothing but what readers may miss. -/
theorem notePast_frame (s : State) (o : Op) (lane : Nat) (un : Bool) (ks : List (Nat × Nat)) :
    { notePast s o lane un ks with past := s.past, stamp := s.stamp } = s := rfl

@[simp] theorem notePast_blocks (s : State) (o : Op) (lane : Nat) (un : Bool) (ks : List (Nat × Nat)) : (notePast s o lane un ks).blocks = s.blocks := rfl

@[simp] theorem forgetPast_mem (s : State) (ks : List Nat) : (forgetPast s ks).mem = s.mem := rfl

/-- Writes carry releases by what State.relAt says of their places, and by nothing else. -/
theorem carry_only (s : State) (rmw : Bool) (ts : List Tok) (ks : List Nat) : carry s rmw ts ks = { s with relAt := (carry s rmw ts ks).relAt } := by
  unfold carry
  split <;> rfl

/-- Noting a core's write changes nothing but what readers may miss, what its places carry, and what jobs' BUFs are known to have received. -/
theorem noteWrite_only {s0 s t : State} {o : Op} {lane : Nat} {un rmw : Bool} {pa : Nat} {bs : List Nat} (ht : noteWrite s0 s o lane un rmw pa bs = t) :
    t = { s with past := t.past, stamp := t.stamp, relAt := t.relAt, bufHit := t.bufHit } := by
  unfold noteWrite at ht
  extract_lets ks at ht
  have h := carry_only (if ks.isEmpty then s else notePast s o lane un ks) rmw (carriedBy s o) ((List.range bs.length).map (fun i => pa + i))
  generalize carry (if ks.isEmpty then s else notePast s o lane un ks) rmw (carriedBy s o) ((List.range bs.length).map (fun i => pa + i)) = u at h ht
  have b : t = { u with bufHit := t.bufHit } := by rw [← ht]; unfold bufNote; split <;> rfl
  rw [b, h]
  split <;> rfl

/-- A release and an acquire change nothing but what readers may miss. -/
theorem released_frame (s : State) (gid seq born scope : Nat) : { released s gid seq born scope with past := s.past, stamp := s.stamp } = s := rfl

theorem acquired_frame (s : State) (gid scope : Nat) (ts : List Tok) : { acquired s gid scope ts with past := s.past, stamp := s.stamp } = s := by
  unfold acquired
  dsimp only
  split <;> rfl

/-- An acquire that meets no release makes nothing visible. -/
theorem acquired_nil (s : State) (gid scope : Nat) : acquired s gid scope [] = s := rfl

/-- Noting a write to a collective's staging changes nothing of an operation but that mark. -/
theorem stageTouch_frame (bid off n : Nat) (s : State) :
    { stageTouch bid off n s with ops := s.ops } = s ∧
      (stageTouch bid off n s).ops.map (fun e => { e with poisoned := false }) = s.ops.map (fun e => { e with poisoned := false }) := by
  refine ⟨rfl, ?_⟩
  simp only [stageTouch, List.map_map]
  refine List.map_congr_left (fun e _ => ?_)
  simp only [Function.comp]
  split <;> rfl

/-- The groups of `t` are those of `s` but for what their trigger queues say, and errors may have been reported. -/
structure TrigOnly (s t : State) : Prop where
  only : t = { s with groups := t.groups, mem := t.mem, parts := t.parts, vfIstat := t.vfIstat, irqs := t.irqs }
  queue : ∀ h g, mfind h t.groups = some g → ∃ g0, mfind h s.groups = some g0 ∧ { g with trigq := g0.trigq } = g0
  form : Memory.wf s.mem → Memory.wf t.mem

theorem TrigOnly.refl (s : State) : TrigOnly s s := ⟨rfl, fun _ g h => ⟨g, h, rfl⟩, id⟩

theorem TrigOnly.trans {s t u : State} (a : TrigOnly s t) (b : TrigOnly t u) : TrigOnly s u := by
  refine ⟨by rw [b.only, a.only], fun h g hg => ?_, fun w => b.form (a.form w)⟩
  obtain ⟨g1, h1, e1⟩ := b.queue h g hg
  obtain ⟨g0, h0, e0⟩ := a.queue h g1 h1
  exact ⟨g0, h0, by rw [← e0, ← e1]⟩

theorem ReportOnly.trig {s t : State} (h : ReportOnly s t) : TrigOnly s t :=
  ⟨by rw [h.only], fun k g hg => ⟨g, by rw [h.only] at hg; exact hg, rfl⟩, h.form⟩

theorem trigOnly_modGroup (s : State) (gid : Nat) (q : List Trig) : TrigOnly s (modGroup gid (fun h => { h with trigq := q }) s) := by
  refine ⟨rfl, fun h g hg => ?_, id⟩
  simp only [modGroup, mfind_mmodify] at hg
  split at hg
  · rename_i k
    subst k
    obtain ⟨g0, h0, e⟩ := Option.map_eq_some_iff.mp hg
    exact ⟨g0, h0, by rw [← e]⟩
  · exact ⟨g, hg, rfl⟩

/-- Testing the heads of the trigger queues changes nothing but what they say, and reports uncorrectable words. -/
theorem trigNote_only (bid : Nat) (s : State) : TrigOnly s (trigNote bid s) := by
  unfold trigNote
  split
  · exact .refl s
  · split
    · exact .refl s
    · rename_i b _ _ _
      have fold : ∀ (f : State → Nat → State), (∀ t gid, TrigOnly t (f t gid)) → ∀ (gs : List Nat) (t : State), TrigOnly s t → TrigOnly s (gs.foldl f t) := by
        intro f hf gs
        induction gs with
        | nil => exact fun t h => h
        | cons a as ih => exact fun t h => ih _ (h.trans (hf t a))
      refine fold _ (fun t gid => ?_) _ _ (.refl s)
      split
      · exact .refl t
      · split
        · split
          · exact .refl t
          · split
            · split
              · exact .refl t
              · exact (trigOnly_modGroup t gid _).trans (softError_report _ _ _ _ _).trig
            · split
              · exact trigOnly_modGroup t gid _
              · exact .refl t
        · exact .refl t

/-- `u` is `t` but for what follows a write to pad: trigger queues, marks of operations, what readers may miss, the releases that places
carry, and the report of errors. -/
structure PadOnly (t u : State) : Prop where
  only : u = { t with groups := u.groups, ops := u.ops, past := u.past, stamp := u.stamp, relAt := u.relAt, mem := u.mem, parts := u.parts, vfIstat := u.vfIstat, irqs := u.irqs }
  queue : ∀ h g, mfind h u.groups = some g → ∃ g0, mfind h t.groups = some g0 ∧ { g with trigq := g0.trigq } = g0
  marks : u.ops.map (fun e => { e with poisoned := false }) = t.ops.map (fun e => { e with poisoned := false })
  form : Memory.wf t.mem → Memory.wf u.mem

/-- What follows a write to pad. -/
theorem padDone_only (s t : State) (o : Op) (lane : Nat) (rmw : Bool) (rs : List (Nat × Nat)) : PadOnly t (padDone s t o lane rmw rs) := by
  have touch : ∀ (rs : List (Nat × Nat)) (v : State),
      let w := rs.foldl (fun t r => stageTouch o.bid r.1 r.2 t) v
      w = { v with ops := w.ops } ∧ w.ops.map (fun e => { e with poisoned := false }) = v.ops.map (fun e => { e with poisoned := false }) := by
    intro rs
    induction rs with
    | nil => exact fun v => ⟨rfl, rfl⟩
    | cons r rs ih =>
      intro v
      obtain ⟨h1, h2⟩ := ih (stageTouch o.bid r.1 r.2 v)
      exact ⟨h1.trans rfl, h2.trans (stageTouch_frame o.bid r.1 r.2 v).2⟩
  unfold padDone
  split
  · rename_i b c _ _
    extract_lets at_ ks u
    have hu : u = { t with past := u.past, stamp := u.stamp, relAt := u.relAt } := by
      have h : u = { (if ks.isEmpty then t else notePast t o lane false ks) with relAt := u.relAt } := carry_only _ _ _ _
      clear_value u
      rw [h]
      split <;> rfl
    clear_value u
    obtain ⟨h1, h2⟩ := touch rs u
    generalize rs.foldl (fun t r => stageTouch o.bid r.1 r.2 t) u = w at h1 h2
    have k := trigNote_only o.bid w
    have hw : w.groups = t.groups ∧ w.mem = t.mem := by rw [h1, hu]; exact ⟨rfl, rfl⟩
    refine ⟨by rw [k.only, h1, hu], fun h g hg => ?_, ?_, fun m => k.form (by rw [hw.2]; exact m)⟩
    · rw [← hw.1]; exact k.queue h g hg
    · have e : (trigNote o.bid w).ops = w.ops := by rw [k.only]
      rw [e, h2, hu]
  · exact ⟨rfl, fun _ g h => ⟨g, h, rfl⟩, rfl, id⟩

/-- The end of an ABWAIT or STGW only makes writes visible (R232). -/
theorem tookWord_frame (s : State) (gid bid off n : Nat) : { tookWord s gid bid off n with past := s.past, stamp := s.stamp } = s := acquired_frame _ _ _ _

/-- The group that issues no longer waits. -/
theorem endWait_find (gid : Nat) (s : State) (g : Group) (h : mfind gid s.groups = some g) :
    mfind gid (endWait gid s).groups = some { g with wait := .none } := by
  have key : ∀ s1 : State, s1.groups = s.groups → mfind gid (modGroup gid (fun g => { g with wait := .none }) s1).groups = some { g with wait := .none } := by
    intro s1 h1
    simp [modGroup, mmodify, h1, h, mfind_minsert]
  have took : ∀ b o n, (tookWord s gid b o n).groups = s.groups := fun b o n => (congrArg State.groups (tookWord_frame s gid b o n) :)
  unfold endWait
  dsimp only
  split
  · exact key _ (took _ _ _)
  · exact key _ (took _ _ _)
  · exact key _ rfl

/-- Beside the groups, the end of a wait changes at most what readers may still miss. -/
theorem endWait_frame (gid : Nat) (s : State) : { endWait gid s with groups := s.groups, past := s.past, stamp := s.stamp } = s := by
  have only : ∀ s1 : State, { s1 with past := s.past, stamp := s.stamp } = s →
      { modGroup gid (fun g => { g with wait := .none }) s1 with groups := s.groups, past := s.past, stamp := s.stamp } = s := by
    intro s1 h
    rw [← h]
    rfl
  unfold endWait
  dsimp only
  split
  · exact only _ (tookWord_frame _ _ _ _ _)
  · exact only _ (tookWord_frame _ _ _ _ _)
  · exact only _ rfl

end Sys2Proof.Machine
end

