-- ==== Sys2Proof/Laws/PerInstr.lean ====
section
/-! SUPPORT. What holds of every instruction as syntax, one lemma per constructor. -/

namespace Sys2Proof.Laws

/-- An instruction word is one, three or five words of 32 bits long, and one with a literal has at least three (spec/03 R58). -/
def Shape.Statement (i : Instr) : Prop :=
  ∀ r, Machine.rawInstr i = some r → (r.len = 4 ∨ r.len = 12 ∨ r.len = 20) ∧ (r.lit.isSome = true → 12 ≤ r.len)

theorem Shape.compact (op u b a d : Nat) : let r := Machine.rawCompact op u b a d none
    (r.len = 4 ∨ r.len = 12 ∨ r.len = 20) ∧ (r.lit.isSome = true → 12 ≤ r.len) := ⟨Or.inl rfl, fun h => by cases h⟩

theorem Shape.ctlCompact (op rest : Nat) : let r := Machine.rawCtlCompact op rest none
    (r.len = 4 ∨ r.len = 12 ∨ r.len = 20) ∧ (r.lit.isSome = true → 12 ≤ r.len) := ⟨Or.inl rfl, fun h => by cases h⟩

theorem Shape.form (op : Nat) (f : Form) : let r := Machine.rawOf op f
    (r.len = 4 ∨ r.len = 12 ∨ r.len = 20) ∧ (r.lit.isSome = true → 12 ≤ r.len) := by
  cases f <;> simp only [Machine.rawOf]
  case ext => exact ⟨Or.inr (Or.inl rfl), fun h => by cases h⟩
  case extLit => exact ⟨Or.inr (Or.inr rfl), fun _ => (by decide : 12 ≤ 20)⟩
  case cmp => split <;> exact ⟨Or.inl rfl, fun h => by cases h⟩
  case cmpLit => split <;> exact ⟨Or.inr (Or.inl rfl), fun _ => Nat.le_refl 12⟩

theorem Shape.reserved (w : Nat) : let r := Machine.rawReserved w
    (r.len = 4 ∨ r.len = 12 ∨ r.len = 20) ∧ (r.lit.isSome = true → 12 ≤ r.len) := by
  refine ⟨?_, fun h => by cases h⟩
  simp only [Machine.rawReserved]
  split
  · exact Or.inl rfl
  · exact Or.inr (Or.inr rfl)
  · exact Or.inr (Or.inl rfl)

theorem Shape.iadd (u : BitVec 1) (b a d : BitVec 7) : Shape.Statement (.iadd u b a d) := by
  intro r h; cases h; exact Shape.compact _ _ _ _ _
theorem Shape.iaddExt (f : Form) : Shape.Statement (.iaddExt f) := by
  intro r h; cases h; exact Shape.form _ _
theorem Shape.isub (u : BitVec 1) (b a d : BitVec 7) : Shape.Statement (.isub u b a d) := by
  intro r h; cases h; exact Shape.compact _ _ _ _ _
theorem Shape.isubExt (f : Form) : Shape.Statement (.isubExt f) := by
  intro r h; cases h; exact Shape.form _ _
theorem Shape.imul (u : BitVec 1) (b a d : BitVec 7) : Shape.Statement (.imul u b a d) := by
  intro r h; cases h; exact Shape.compact _ _ _ _ _
theorem Shape.imulExt (f : Form) : Shape.Statement (.imulExt f) := by
  intro r h; cases h; exact Shape.form _ _
theorem Shape.imulh (u : BitVec 1) (b a d : BitVec 7) : Shape.Statement (.imulh u b a d) := by
  intro r h; cases h; exact Shape.compact _ _ _ _ _
theorem Shape.imulhExt (f : Form) : Shape.Statement (.imulhExt f) := by
  intro r h; cases h; exact Shape.form _ _
theorem Shape.imad (f : Form) : Shape.Statement (.imad f) := by
  intro r h; cases h; exact Shape.form _ _
theorem Shape.imadw (f : Form) : Shape.Statement (.imadw f) := by
  intro r h; cases h; exact Shape.form _ _
theorem Shape.iaddc (f : Form) : Shape.Statement (.iaddc f) := by
  intro r h; cases h; exact Shape.form _ _
theorem Shape.ineg (u : BitVec 1) (b a d : BitVec 7) : Shape.Statement (.ineg u b a d) := by
  intro r h; cases h; exact Shape.compact _ _ _ _ _
theorem Shape.inegExt (f : Form) : Shape.Statement (.inegExt f) := by
  intro r h; cases h; exact Shape.form _ _
theorem Shape.iabs (u : BitVec 1) (b a d : BitVec 7) : Shape.Statement (.iabs u b a d) := by
  intro r h; cases h; exact Shape.compact _ _ _ _ _
theorem Shape.iabsExt (f : Form) : Shape.Statement (.iabsExt f) := by
  intro r h; cases h; exact Shape.form _ _
theorem Shape.imin (u : BitVec 1) (b a d : BitVec 7) : Shape.Statement (.imin u b a d) := by
  intro r h; cases h; exact Shape.compact _ _ _ _ _
theorem Shape.iminExt (f : Form) : Shape.Statement (.iminExt f) := by
  intro r h; cases h; exact Shape.form _ _
theorem Shape.imax (u : BitVec 1) (b a d : BitVec 7) : Shape.Statement (.imax u b a d) := by
  intro r h; cases h; exact Shape.compact _ _ _ _ _
theorem Shape.imaxExt (f : Form) : Shape.Statement (.imaxExt f) := by
  intro r h; cases h; exact Shape.form _ _
theorem Shape.iand (u : BitVec 1) (b a d : BitVec 7) : Shape.Statement (.iand u b a d) := by
  intro r h; cases h; exact Shape.compact _ _ _ _ _
theorem Shape.iandExt (f : Form) : Shape.Statement (.iandExt f) := by
  intro r h; cases h; exact Shape.form _ _
theorem Shape.ior (u : BitVec 1) (b a d : BitVec 7) : Shape.Statement (.ior u b a d) := by
  intro r h; cases h; exact Shape.compact _ _ _ _ _
theorem Shape.iorExt (f : Form) : Shape.Statement (.iorExt f) := by
  intro r h; cases h; exact Shape.form _ _
theorem Shape.ixor (u : BitVec 1) (b a d : BitVec 7) : Shape.Statement (.ixor u b a d) := by
  intro r h; cases h; exact Shape.compact _ _ _ _ _
theorem Shape.ixorExt (f : Form) : Shape.Statement (.ixorExt f) := by
  intro r h; cases h; exact Shape.form _ _
theorem Shape.andn (u : BitVec 1) (b a d : BitVec 7) : Shape.Statement (.andn u b a d) := by
  intro r h; cases h; exact Shape.compact _ _ _ _ _
theorem Shape.andnExt (f : Form) : Shape.Statement (.andnExt f) := by
  intro r h; cases h; exact Shape.form _ _
theorem Shape.inot (u : BitVec 1) (b a d : BitVec 7) : Shape.Statement (.inot u b a d) := by
  intro r h; cases h; exact Shape.compact _ _ _ _ _
theorem Shape.inotExt (f : Form) : Shape.Statement (.inotExt f) := by
  intro r h; cases h; exact Shape.form _ _
theorem Shape.shl (u : BitVec 1) (b a d : BitVec 7) : Shape.Statement (.shl u b a d) := by
  intro r h; cases h; exact Shape.compact _ _ _ _ _
theorem Shape.shlExt (f : Form) : Shape.Statement (.shlExt f) := by
  intro r h; cases h; exact Shape.form _ _
theorem Shape.shr (u : BitVec 1) (b a d : BitVec 7) : Shape.Statement (.shr u b a d) := by
  intro r h; cases h; exact Shape.compact _ _ _ _ _
theorem Shape.shrExt (f : Form) : Shape.Statement (.shrExt f) := by
  intro r h; cases h; exact Shape.form _ _
theorem Shape.sar (u : BitVec 1) (b a d : BitVec 7) : Shape.Statement (.sar u b a d) := by
  intro r h; cases h; exact Shape.compact _ _ _ _ _
theorem Shape.sarExt (f : Form) : Shape.Statement (.sarExt f) := by
  intro r h; cases h; exact Shape.form _ _
theorem Shape.rotl (u : BitVec 1) (b a d : BitVec 7) : Shape.Statement (.rotl u b a d) := by
  intro r h; cases h; exact Shape.compact _ _ _ _ _
theorem Shape.rotlExt (f : Form) : Shape.Statement (.rotlExt f) := by
  intro r h; cases h; exact Shape.form _ _
theorem Shape.bfx (f : Form) : Shape.Statement (.bfx f) := by
  intro r h; cases h; exact Shape.form _ _
theorem Shape.bfi (f : Form) : Shape.Statement (.bfi f) := by
  intro r h; cases h; exact Shape.form _ _
theorem Shape.popc (u : BitVec 1) (b a d : BitVec 7) : Shape.Statement (.popc u b a d) := by
  intro r h; cases h; exact Shape.compact _ _ _ _ _
theorem Shape.popcExt (f : Form) : Shape.Statement (.popcExt f) := by
  intro r h; cases h; exact Shape.form _ _
theorem Shape.clz (u : BitVec 1) (b a d : BitVec 7) : Shape.Statement (.clz u b a d) := by
  intro r h; cases h; exact Shape.compact _ _ _ _ _
theorem Shape.clzExt (f : Form) : Shape.Statement (.clzExt f) := by
  intro r h; cases h; exact Shape.form _ _
theorem Shape.ctz (u : BitVec 1) (b a d : BitVec 7) : Shape.Statement (.ctz u b a d) := by
  intro r h; cases h; exact Shape.compact _ _ _ _ _
theorem Shape.ctzExt (f : Form) : Shape.Statement (.ctzExt f) := by
  intro r h; cases h; exact Shape.form _ _
theorem Shape.brev (u : BitVec 1) (b a d : BitVec 7) : Shape.Statement (.brev u b a d) := by
  intro r h; cases h; exact Shape.compact _ _ _ _ _
theorem Shape.brevExt (f : Form) : Shape.Statement (.brevExt f) := by
  intro r h; cases h; exact Shape.form _ _
theorem Shape.icmp (u : BitVec 1) (b a d : BitVec 7) : Shape.Statement (.icmp u b a d) := by
  intro r h; cases h; exact Shape.compact _ _ _ _ _
theorem Shape.icmpExt (f : Form) : Shape.Statement (.icmpExt f) := by
  intro r h; cases h; exact Shape.form _ _
theorem Shape.sel (f : Form) : Shape.Statement (.sel f) := by
  intro r h; cases h; exact Shape.form _ _
theorem Shape.lea (f : Form) : Shape.Statement (.lea f) := by
  intro r h; cases h; exact Shape.form _ _
theorem Shape.mov (u : BitVec 1) (b a d : BitVec 7) : Shape.Statement (.mov u b a d) := by
  intro r h; cases h; exact Shape.compact _ _ _ _ _
theorem Shape.movExt (f : Form) : Shape.Statement (.movExt f) := by
  intro r h; cases h; exact Shape.form _ _
theorem Shape.bysel (f : Form) : Shape.Statement (.bysel f) := by
  intro r h; cases h; exact Shape.form _ _
theorem Shape.fadd (u : BitVec 1) (b a d : BitVec 7) : Shape.Statement (.fadd u b a d) := by
  intro r h; cases h; exact Shape.compact _ _ _ _ _
theorem Shape.faddExt (f : Form) : Shape.Statement (.faddExt f) := by
  intro r h; cases h; exact Shape.form _ _
theorem Shape.fsub (u : BitVec 1) (b a d : BitVec 7) : Shape.Statement (.fsub u b a d) := by
  intro r h; cases h; exact Shape.compact _ _ _ _ _
theorem Shape.fsubExt (f : Form) : Shape.Statement (.fsubExt f) := by
  intro r h; cases h; exact Shape.form _ _
theorem Shape.fmul (u : BitVec 1) (b a d : BitVec 7) : Shape.Statement (.fmul u b a d) := by
  intro r h; cases h; exact Shape.compact _ _ _ _ _
theorem Shape.fmulExt (f : Form) : Shape.Statement (.fmulExt f) := by
  intro r h; cases h; exact Shape.form _ _
theorem Shape.ffma (f : Form) : Shape.Statement (.ffma f) := by
  intro r h; cases h; exact Shape.form _ _
theorem Shape.fmin (u : BitVec 1) (b a d : BitVec 7) : Shape.Statement (.fmin u b a d) := by
  intro r h; cases h; exact Shape.compact _ _ _ _ _
theorem Shape.fminExt (f : Form) : Shape.Statement (.fminExt f) := by
  intro r h; cases h; exact Shape.form _ _
theorem Shape.fmax (u : BitVec 1) (b a d : BitVec 7) : Shape.Statement (.fmax u b a d) := by
  intro r h; cases h; exact Shape.compact _ _ _ _ _
theorem Shape.fmaxExt (f : Form) : Shape.Statement (.fmaxExt f) := by
  intro r h; cases h; exact Shape.form _ _
theorem Shape.fminp (f : Form) : Shape.Statement (.fminp f) := by
  intro r h; cases h; exact Shape.form _ _
theorem Shape.fmaxp (f : Form) : Shape.Statement (.fmaxp f) := by
  intro r h; cases h; exact Shape.form _ _
theorem Shape.fcmp (u : BitVec 1) (b a d : BitVec 7) : Shape.Statement (.fcmp u b a d) := by
  intro r h; cases h; exact Shape.compact _ _ _ _ _
theorem Shape.fcmpExt (f : Form) : Shape.Statement (.fcmpExt f) := by
  intro r h; cases h; exact Shape.form _ _
theorem Shape.frcp (u : BitVec 1) (b a d : BitVec 7) : Shape.Statement (.frcp u b a d) := by
  intro r h; cases h; exact Shape.compact _ _ _ _ _
theorem Shape.frcpExt (f : Form) : Shape.Statement (.frcpExt f) := by
  intro r h; cases h; exact Shape.form _ _
theorem Shape.frsq (u : BitVec 1) (b a d : BitVec 7) : Shape.Statement (.frsq u b a d) := by
  intro r h; cases h; exact Shape.compact _ _ _ _ _
theorem Shape.frsqExt (f : Form) : Shape.Statement (.frsqExt f) := by
  intro r h; cases h; exact Shape.form _ _
theorem Shape.fsqrt (u : BitVec 1) (b a d : BitVec 7) : Shape.Statement (.fsqrt u b a d) := by
  intro r h; cases h; exact Shape.compact _ _ _ _ _
theorem Shape.fsqrtExt (f : Form) : Shape.Statement (.fsqrtExt f) := by
  intro r h; cases h; exact Shape.form _ _
theorem Shape.fdiv (f : Form) : Shape.Statement (.fdiv f) := by
  intro r h; cases h; exact Shape.form _ _
theorem Shape.fexp2 (u : BitVec 1) (b a d : BitVec 7) : Shape.Statement (.fexp2 u b a d) := by
  intro r h; cases h; exact Shape.compact _ _ _ _ _
theorem Shape.fexp2Ext (f : Form) : Shape.Statement (.fexp2Ext f) := by
  intro r h; cases h; exact Shape.form _ _
theorem Shape.flog2 (u : BitVec 1) (b a d : BitVec 7) : Shape.Statement (.flog2 u b a d) := by
  intro r h; cases h; exact Shape.compact _ _ _ _ _
theorem Shape.flog2Ext (f : Form) : Shape.Statement (.flog2Ext f) := by
  intro r h; cases h; exact Shape.form _ _
theorem Shape.fsin (f : Form) : Shape.Statement (.fsin f) := by
  intro r h; cases h; exact Shape.form _ _
theorem Shape.fcos (f : Form) : Shape.Statement (.fcos f) := by
  intro r h; cases h; exact Shape.form _ _
theorem Shape.frnd (f : Form) : Shape.Statement (.frnd f) := by
  intro r h; cases h; exact Shape.form _ _
theorem Shape.fclass (f : Form) : Shape.Statement (.fclass f) := by
  intro r h; cases h; exact Shape.form _ _
theorem Shape.fldexp (f : Form) : Shape.Statement (.fldexp f) := by
  intro r h; cases h; exact Shape.form _ _
theorem Shape.ffrexp (f : Form) : Shape.Statement (.ffrexp f) := by
  intro r h; cases h; exact Shape.form _ _
theorem Shape.padd2 (f : Form) : Shape.Statement (.padd2 f) := by
  intro r h; cases h; exact Shape.form _ _
theorem Shape.pmul2 (f : Form) : Shape.Statement (.pmul2 f) := by
  intro r h; cases h; exact Shape.form _ _
theorem Shape.pfma2 (f : Form) : Shape.Statement (.pfma2 f) := by
  intro r h; cases h; exact Shape.form _ _
theorem Shape.cvt (f : Form) : Shape.Statement (.cvt f) := by
  intro r h; cases h; exact Shape.form _ _
theorem Shape.qblk (f : Form) : Shape.Statement (.qblk f) := by
  intro r h; cases h; exact Shape.form _ _
theorem Shape.dqblk (f : Form) : Shape.Statement (.dqblk f) := by
  intro r h; cases h; exact Shape.form _ _
theorem Shape.shfl (f : Form) : Shape.Statement (.shfl f) := by
  intro r h; cases h; exact Shape.form _ _
theorem Shape.matchOp (f : Form) : Shape.Statement (.matchOp f) := by
  intro r h; cases h; exact Shape.form _ _
theorem Shape.ballot (f : Form) : Shape.Statement (.ballot f) := by
  intro r h; cases h; exact Shape.form _ _
theorem Shape.vote (f : Form) : Shape.Statement (.vote f) := by
  intro r h; cases h; exact Shape.form _ _
theorem Shape.redu (f : Form) : Shape.Statement (.redu f) := by
  intro r h; cases h; exact Shape.form _ _
theorem Shape.scan (f : Form) : Shape.Statement (.scan f) := by
  intro r h; cases h; exact Shape.form _ _
theorem Shape.nop (rest : BitVec 22) : Shape.Statement (.nop rest) := by
  intro r h; cases h; exact Shape.ctlCompact _ _
theorem Shape.nopExt (f : Form) : Shape.Statement (.nopExt f) := by
  intro r h; cases h; exact Shape.form _ _
theorem Shape.bra (rest : BitVec 22) : Shape.Statement (.bra rest) := by
  intro r h; cases h; exact Shape.ctlCompact _ _
theorem Shape.braExt (f : Form) : Shape.Statement (.braExt f) := by
  intro r h; cases h; exact Shape.form _ _
theorem Shape.brx (f : Form) : Shape.Statement (.brx f) := by
  intro r h; cases h; exact Shape.form _ _
theorem Shape.call (rest : BitVec 22) : Shape.Statement (.call rest) := by
  intro r h; cases h; exact Shape.ctlCompact _ _
theorem Shape.callExt (f : Form) : Shape.Statement (.callExt f) := by
  intro r h; cases h; exact Shape.form _ _
theorem Shape.ret (rest : BitVec 22) : Shape.Statement (.ret rest) := by
  intro r h; cases h; exact Shape.ctlCompact _ _
theorem Shape.retExt (f : Form) : Shape.Statement (.retExt f) := by
  intro r h; cases h; exact Shape.form _ _
theorem Shape.loopOp (f : Form) : Shape.Statement (.loopOp f) := by
  intro r h; cases h; exact Shape.form _ _
theorem Shape.lbinv (f : Form) : Shape.Statement (.lbinv f) := by
  intro r h; cases h; exact Shape.form _ _
theorem Shape.exitOp (rest : BitVec 22) : Shape.Statement (.exitOp rest) := by
  intro r h; cases h; exact Shape.ctlCompact _ _
theorem Shape.exitOpExt (f : Form) : Shape.Statement (.exitOpExt f) := by
  intro r h; cases h; exact Shape.form _ _
theorem Shape.yield (rest : BitVec 22) : Shape.Statement (.yield rest) := by
  intro r h; cases h; exact Shape.ctlCompact _ _
theorem Shape.yieldExt (f : Form) : Shape.Statement (.yieldExt f) := by
  intro r h; cases h; exact Shape.form _ _
theorem Shape.trap (f : Form) : Shape.Statement (.trap f) := by
  intro r h; cases h; exact Shape.form _ _
theorem Shape.brk (f : Form) : Shape.Statement (.brk f) := by
  intro r h; cases h; exact Shape.form _ _
theorem Shape.waitc (f : Form) : Shape.Statement (.waitc f) := by
  intro r h; cases h; exact Shape.form _ _
theorem Shape.bar (f : Form) : Shape.Statement (.bar f) := by
  intro r h; cases h; exact Shape.form _ _
theorem Shape.abinit (f : Form) : Shape.Statement (.abinit f) := by
  intro r h; cases h; exact Shape.form _ _
theorem Shape.abarv (f : Form) : Shape.Statement (.abarv f) := by
  intro r h; cases h; exact Shape.form _ _
theorem Shape.abwait (f : Form) : Shape.Statement (.abwait f) := by
  intro r h; cases h; exact Shape.form _ _
theorem Shape.abexp (f : Form) : Shape.Statement (.abexp f) := by
  intro r h; cases h; exact Shape.form _ _
theorem Shape.stgw (f : Form) : Shape.Statement (.stgw f) := by
  intro r h; cases h; exact Shape.form _ _
theorem Shape.stgp (f : Form) : Shape.Statement (.stgp f) := by
  intro r h; cases h; exact Shape.form _ _
theorem Shape.spawn (f : Form) : Shape.Statement (.spawn f) := by
  intro r h; cases h; exact Shape.form _ _
theorem Shape.joinOp (f : Form) : Shape.Statement (.joinOp f) := by
  intro r h; cases h; exact Shape.form _ _
theorem Shape.ralloc (f : Form) : Shape.Statement (.ralloc f) := by
  intro r h; cases h; exact Shape.form _ _
theorem Shape.rfree (f : Form) : Shape.Statement (.rfree f) := by
  intro r h; cases h; exact Shape.form _ _
theorem Shape.twait (f : Form) : Shape.Statement (.twait f) := by
  intro r h; cases h; exact Shape.form _ _
theorem Shape.ld (u : BitVec 1) (b a d : BitVec 7) : Shape.Statement (.ld u b a d) := by
  intro r h; cases h; exact Shape.compact _ _ _ _ _
theorem Shape.ldExt (f : Form) : Shape.Statement (.ldExt f) := by
  intro r h; cases h; exact Shape.form _ _
theorem Shape.st (u : BitVec 1) (b a d : BitVec 7) : Shape.Statement (.st u b a d) := by
  intro r h; cases h; exact Shape.compact _ _ _ _ _
theorem Shape.stExt (f : Form) : Shape.Statement (.stExt f) := by
  intro r h; cases h; exact Shape.form _ _
theorem Shape.ldp (f : Form) : Shape.Statement (.ldp f) := by
  intro r h; cases h; exact Shape.form _ _
theorem Shape.stp (f : Form) : Shape.Statement (.stp f) := by
  intro r h; cases h; exact Shape.form _ _
theorem Shape.atom (f : Form) : Shape.Statement (.atom f) := by
  intro r h; cases h; exact Shape.form _ _
theorem Shape.atomn (f : Form) : Shape.Statement (.atomn f) := by
  intro r h; cases h; exact Shape.form _ _
theorem Shape.atomw (f : Form) : Shape.Statement (.atomw f) := by
  intro r h; cases h; exact Shape.form _ _
theorem Shape.atomp (f : Form) : Shape.Statement (.atomp f) := by
  intro r h; cases h; exact Shape.form _ _
theorem Shape.fence (f : Form) : Shape.Statement (.fence f) := by
  intro r h; cases h; exact Shape.form _ _
theorem Shape.xfence (f : Form) : Shape.Statement (.xfence f) := by
  intro r h; cases h; exact Shape.form _ _
theorem Shape.xlt (f : Form) : Shape.Statement (.xlt f) := by
  intro r h; cases h; exact Shape.form _ _
theorem Shape.pref (f : Form) : Shape.Statement (.pref f) := by
  intro r h; cases h; exact Shape.form _ _
theorem Shape.cflush (f : Form) : Shape.Statement (.cflush f) := by
  intro r h; cases h; exact Shape.form _ _
theorem Shape.cinv (f : Form) : Shape.Statement (.cinv f) := by
  intro r h; cases h; exact Shape.form _ _
theorem Shape.hcopy (f : Form) : Shape.Statement (.hcopy f) := by
  intro r h; cases h; exact Shape.form _ _
theorem Shape.hxpose (f : Form) : Shape.Statement (.hxpose f) := by
  intro r h; cases h; exact Shape.form _ _
theorem Shape.hfill (f : Form) : Shape.Statement (.hfill f) := by
  intro r h; cases h; exact Shape.form _ _
theorem Shape.hrem (f : Form) : Shape.Statement (.hrem f) := by
  intro r h; cases h; exact Shape.form _ _
theorem Shape.hsig (f : Form) : Shape.Statement (.hsig f) := by
  intro r h; cases h; exact Shape.form _ _
theorem Shape.htrig (f : Form) : Shape.Statement (.htrig f) := by
  intro r h; cases h; exact Shape.form _ _
theorem Shape.gath (f : Form) : Shape.Statement (.gath f) := by
  intro r h; cases h; exact Shape.form _ _
theorem Shape.scat (f : Form) : Shape.Statement (.scat f) := by
  intro r h; cases h; exact Shape.form _ _
theorem Shape.mloop (f : Form) : Shape.Statement (.mloop f) := by
  intro r h; cases h; exact Shape.form _ _
theorem Shape.mzero (f : Form) : Shape.Statement (.mzero f) := by
  intro r h; cases h; exact Shape.form _ _
theorem Shape.mtrd (f : Form) : Shape.Statement (.mtrd f) := by
  intro r h; cases h; exact Shape.form _ _
theorem Shape.mtwr (f : Form) : Shape.Statement (.mtwr f) := by
  intro r h; cases h; exact Shape.form _ _
theorem Shape.mldt (f : Form) : Shape.Statement (.mldt f) := by
  intro r h; cases h; exact Shape.form _ _
theorem Shape.mstt (f : Form) : Shape.Statement (.mstt f) := by
  intro r h; cases h; exact Shape.form _ _
theorem Shape.rtrav (f : Form) : Shape.Statement (.rtrav f) := by
  intro r h; cases h; exact Shape.form _ _
theorem Shape.texf (f : Form) : Shape.Statement (.texf f) := by
  intro r h; cases h; exact Shape.form _ _
theorem Shape.wsend (f : Form) : Shape.Statement (.wsend f) := by
  intro r h; cases h; exact Shape.form _ _
theorem Shape.wrecv (f : Form) : Shape.Statement (.wrecv f) := by
  intro r h; cases h; exact Shape.form _ _
theorem Shape.wbay (f : Form) : Shape.Statement (.wbay f) := by
  intro r h; cases h; exact Shape.form _ _
theorem Shape.coll (f : Form) : Shape.Statement (.coll f) := by
  intro r h; cases h; exact Shape.form _ _
theorem Shape.cmpj (f : Form) : Shape.Statement (.cmpj f) := by
  intro r h; cases h; exact Shape.form _ _
theorem Shape.cmpq (f : Form) : Shape.Statement (.cmpq f) := by
  intro r h; cases h; exact Shape.form _ _
theorem Shape.csrr (f : Form) : Shape.Statement (.csrr f) := by
  intro r h; cases h; exact Shape.form _ _
theorem Shape.csrw (f : Form) : Shape.Statement (.csrw f) := by
  intro r h; cases h; exact Shape.form _ _
theorem Shape.eret (f : Form) : Shape.Statement (.eret f) := by
  intro r h; cases h; exact Shape.form _ _
theorem Shape.time (f : Form) : Shape.Statement (.time f) := by
  intro r h; cases h; exact Shape.form _ _
theorem Shape.svc (f : Form) : Shape.Statement (.svc f) := by
  intro r h; cases h; exact Shape.form _ _
theorem Shape.reservedMajorOpcode (w : BitVec 160) : Shape.Statement (.reservedMajorOpcode w) := by
  intro r h; cases h; exact Shape.reserved w.toNat
theorem Shape.loadDataReturn : Shape.Statement .loadDataReturn := fun _ h => by cases h
theorem Shape.groupRetire : Shape.Statement .groupRetire := fun _ h => by cases h
theorem Shape.blockPlace : Shape.Statement .blockPlace := fun _ h => by cases h
theorem Shape.rallocGrant : Shape.Statement .rallocGrant := fun _ h => by cases h
theorem Shape.rfreeReturn : Shape.Statement .rfreeReturn := fun _ h => by cases h
theorem Shape.growthDeadlockSpill : Shape.Statement .growthDeadlockSpill := fun _ h => by cases h
theorem Shape.blockSave : Shape.Statement .blockSave := fun _ h => by cases h
theorem Shape.blockRestore : Shape.Statement .blockRestore := fun _ h => by cases h
theorem Shape.activeSetEntry : Shape.Statement .activeSetEntry := fun _ h => by cases h
theorem Shape.yieldExpire : Shape.Statement .yieldExpire := fun _ h => by cases h
theorem Shape.twaitResume : Shape.Statement .twaitResume := fun _ h => by cases h
theorem Shape.htrigFire : Shape.Statement .htrigFire := fun _ h => by cases h
theorem Shape.haulOpComplete : Shape.Statement .haulOpComplete := fun _ h => by cases h
theorem Shape.haulOpFault : Shape.Statement .haulOpFault := fun _ h => by cases h
theorem Shape.hremSignal : Shape.Statement .hremSignal := fun _ h => by cases h
theorem Shape.ntOpComplete : Shape.Statement .ntOpComplete := fun _ h => by cases h
theorem Shape.gathScatComplete : Shape.Statement .gathScatComplete := fun _ h => by cases h
theorem Shape.mloopKstep : Shape.Statement .mloopKstep := fun _ h => by cases h
theorem Shape.mloopComplete : Shape.Statement .mloopComplete := fun _ h => by cases h
theorem Shape.tileOpComplete : Shape.Statement .tileOpComplete := fun _ h => by cases h
theorem Shape.rtravComplete : Shape.Statement .rtravComplete := fun _ h => by cases h
theorem Shape.texfComplete : Shape.Statement .texfComplete := fun _ h => by cases h
theorem Shape.homeStoreApply : Shape.Statement .homeStoreApply := fun _ h => by cases h
theorem Shape.sharerUpdate : Shape.Statement .sharerUpdate := fun _ h => by cases h
theorem Shape.storeComplete : Shape.Statement .storeComplete := fun _ h => by cases h
theorem Shape.l1Fill : Shape.Statement .l1Fill := fun _ h => by cases h
theorem Shape.ownershipRecall : Shape.Statement .ownershipRecall := fun _ h => by cases h
theorem Shape.farAtomic : Shape.Statement .farAtomic := fun _ h => by cases h
theorem Shape.directoryRebuild : Shape.Statement .directoryRebuild := fun _ h => by cases h
theorem Shape.hostRead : Shape.Statement .hostRead := fun _ h => by cases h
theorem Shape.hostWrite : Shape.Statement .hostWrite := fun _ h => by cases h
theorem Shape.poolBackInvalidate : Shape.Statement .poolBackInvalidate := fun _ h => by cases h
theorem Shape.tlbInv : Shape.Statement .tlbInv := fun _ h => by cases h
theorem Shape.tlbInvComplete : Shape.Statement .tlbInvComplete := fun _ h => by cases h
theorem Shape.lsBankSwitch : Shape.Statement .lsBankSwitch := fun _ h => by cases h
theorem Shape.lsBankGate : Shape.Statement .lsBankGate := fun _ h => by cases h
theorem Shape.lsBankSwitchDone : Shape.Statement .lsBankSwitchDone := fun _ h => by cases h
theorem Shape.lsBankWakeDone : Shape.Statement .lsBankWakeDone := fun _ h => by cases h
theorem Shape.l2WayGate : Shape.Statement .l2WayGate := fun _ h => by cases h
theorem Shape.l2WayGateDone : Shape.Statement .l2WayGateDone := fun _ h => by cases h
theorem Shape.l2WayWake : Shape.Statement .l2WayWake := fun _ h => by cases h
theorem Shape.l2WayWakeDone : Shape.Statement .l2WayWakeDone := fun _ h => by cases h
theorem Shape.hostWinbase : Shape.Statement .hostWinbase := fun _ h => by cases h
theorem Shape.hostWinsize : Shape.Statement .hostWinsize := fun _ h => by cases h
theorem Shape.drayCfg : Shape.Statement .drayCfg := fun _ h => by cases h
theorem Shape.fabMembers : Shape.Statement .fabMembers := fun _ h => by cases h
theorem Shape.peerUnreachable : Shape.Statement .peerUnreachable := fun _ h => by cases h
theorem Shape.fabClass : Shape.Statement .fabClass := fun _ h => by cases h
theorem Shape.read : Shape.Statement .read := fun _ h => by cases h
theorem Shape.readData : Shape.Statement .readData := fun _ h => by cases h
theorem Shape.write : Shape.Statement .write := fun _ h => by cases h
theorem Shape.atomicReq : Shape.Statement .atomicReq := fun _ h => by cases h
theorem Shape.atomicData : Shape.Statement .atomicData := fun _ h => by cases h
theorem Shape.acknowledgement : Shape.Statement .acknowledgement := fun _ h => by cases h
theorem Shape.rateIncrease : Shape.Statement .rateIncrease := fun _ h => by cases h
theorem Shape.signal : Shape.Statement .signal := fun _ h => by cases h
theorem Shape.wagon : Shape.Statement .wagon := fun _ h => by cases h
theorem Shape.credit : Shape.Statement .credit := fun _ h => by cases h
theorem Shape.multicastWrite : Shape.Statement .multicastWrite := fun _ h => by cases h
theorem Shape.multicastCopyDrop : Shape.Statement .multicastCopyDrop := fun _ h => by cases h
theorem Shape.branchNack : Shape.Statement .branchNack := fun _ h => by cases h
theorem Shape.poolLinkLost : Shape.Statement .poolLinkLost := fun _ h => by cases h
theorem Shape.poolLinkDownTimeout : Shape.Statement .poolLinkDownTimeout := fun _ h => by cases h
theorem Shape.poolRequestTimeout : Shape.Statement .poolRequestTimeout := fun _ h => by cases h
theorem Shape.poolRsync : Shape.Statement .poolRsync := fun _ h => by cases h
theorem Shape.landauJobStart : Shape.Statement .landauJobStart := fun _ h => by cases h
theorem Shape.uetMessage : Shape.Statement .uetMessage := fun _ h => by cases h
theorem Shape.landauTimeout : Shape.Statement .landauTimeout := fun _ h => by cases h
theorem Shape.collChildArrive : Shape.Statement .collChildArrive := fun _ h => by cases h
theorem Shape.collComplete : Shape.Statement .collComplete := fun _ h => by cases h
theorem Shape.ptpEventMessage : Shape.Statement .ptpEventMessage := fun _ h => by cases h
theorem Shape.ptpSyncLoss : Shape.Statement .ptpSyncLoss := fun _ h => by cases h
theorem Shape.ptpCfg : Shape.Statement .ptpCfg := fun _ h => by cases h
theorem Shape.queueTail : Shape.Statement .queueTail := fun _ h => by cases h
theorem Shape.queueCfg : Shape.Statement .queueCfg := fun _ h => by cases h
theorem Shape.recordStart : Shape.Statement .recordStart := fun _ h => by cases h
theorem Shape.tokSignal : Shape.Statement .tokSignal := fun _ h => by cases h
theorem Shape.tokenRecordFire : Shape.Statement .tokenRecordFire := fun _ h => by cases h
theorem Shape.graphReplayStart : Shape.Statement .graphReplayStart := fun _ h => by cases h
theorem Shape.graphNodeStart : Shape.Statement .graphNodeStart := fun _ h => by cases h
theorem Shape.goResize : Shape.Statement .goResize := fun _ h => by cases h
theorem Shape.cancel : Shape.Statement .cancel := fun _ h => by cases h
theorem Shape.evdone : Shape.Statement .evdone := fun _ h => by cases h
theorem Shape.planDone : Shape.Statement .planDone := fun _ h => by cases h
theorem Shape.admitEvent : Shape.Statement .admitEvent := fun _ h => by cases h
theorem Shape.shuntMove : Shape.Statement .shuntMove := fun _ h => by cases h
theorem Shape.rehashSweep : Shape.Statement .rehashSweep := fun _ h => by cases h
theorem Shape.rehashDone : Shape.Statement .rehashDone := fun _ h => by cases h
theorem Shape.evacFrameCopy : Shape.Statement .evacFrameCopy := fun _ h => by cases h
theorem Shape.scrubDone : Shape.Statement .scrubDone := fun _ h => by cases h
theorem Shape.partWchan : Shape.Statement .partWchan := fun _ h => by cases h
theorem Shape.landauPid : Shape.Statement .landauPid := fun _ h => by cases h
theorem Shape.mgmtRegisterWrite : Shape.Statement .mgmtRegisterWrite := fun _ h => by cases h
theorem Shape.mgo : Shape.Statement .mgo := fun _ h => by cases h
theorem Shape.resetEvent : Shape.Statement .resetEvent := fun _ h => by cases h
theorem Shape.imgChunk : Shape.Statement .imgChunk := fun _ h => by cases h
theorem Shape.imgRun : Shape.Statement .imgRun := fun _ h => by cases h
theorem Shape.imgFlash : Shape.Statement .imgFlash := fun _ h => by cases h
theorem Shape.cfgWrite : Shape.Statement .cfgWrite := fun _ h => by cases h
theorem Shape.testEnter : Shape.Statement .testEnter := fun _ h => by cases h
theorem Shape.pwrLimit : Shape.Statement .pwrLimit := fun _ h => by cases h
theorem Shape.dumpRelease : Shape.Statement .dumpRelease := fun _ h => by cases h
theorem Shape.identity : Shape.Statement .identity := fun _ h => by cases h
theorem Shape.keySet : Shape.Statement .keySet := fun _ h => by cases h
theorem Shape.keyClear : Shape.Statement .keyClear := fun _ h => by cases h
theorem Shape.loadPolicy : Shape.Statement .loadPolicy := fun _ h => by cases h
theorem Shape.loadContainer : Shape.Statement .loadContainer := fun _ h => by cases h
theorem Shape.quote : Shape.Statement .quote := fun _ h => by cases h
theorem Shape.mbxUnknownCommand : Shape.Statement .mbxUnknownCommand := fun _ h => by cases h
theorem Shape.thermalTrip : Shape.Statement .thermalTrip := fun _ h => by cases h
theorem Shape.feedFault : Shape.Statement .feedFault := fun _ h => by cases h
theorem Shape.packageFatalError : Shape.Statement .packageFatalError := fun _ h => by cases h
theorem Shape.powerLimitControl : Shape.Statement .powerLimitControl := fun _ h => by cases h
theorem Shape.svOperationComplete : Shape.Statement .svOperationComplete := fun _ h => by cases h
theorem Shape.ngaubPortDown : Shape.Statement .ngaubPortDown := fun _ h => by cases h
theorem Shape.ngaubPortUp : Shape.Statement .ngaubPortUp := fun _ h => by cases h
theorem Shape.poolLinkTrained : Shape.Statement .poolLinkTrained := fun _ h => by cases h
theorem Shape.uetLinkError : Shape.Statement .uetLinkError := fun _ h => by cases h

end Sys2Proof.Laws
end

