-- ==== Sys2Proof/Laws/Turn.lean ====
section
/-! SUPPORT. Whose turn it is (spec/01 R26, R27): what stands in the list of ready groups, and that the first of some ready groups
has none before it in R26's order. -/

namespace Sys2Proof.Machine

/-- A ready group is the group of its number; it stands in its active set, and its next issue is the one listed. -/
theorem mem_readyGroups {s : State} {g : Group} {p : Pick} (h : (g, p) ∈ readyGroups s) :
    mfind g.gid s.groups = some g ∧ g.active = true ∧ nextIssue s g = some p := by
  obtain ⟨e, _, he⟩ := List.mem_filterMap.mp h
  split at he
  · rename_i g' hg
    split at he
    · rename_i hc
      obtain ⟨q, hq, e2⟩ := Option.map_eq_some_iff.mp he
      cases e2
      simp only [Bool.and_eq_true, beq_iff_eq] at hc
      exact ⟨by rw [hc.2]; exact hg, hc.1, hq⟩
    · cases he
  · cases he

theorem rankLt_irrefl (a : List Nat) : rankLt a a = false := by
  induction a with
  | nil => rfl
  | cons x a ih => simp [rankLt, ih]

theorem rankLt_trans (a : List Nat) : ∀ b c, rankLt a b = true → rankLt b c = true → rankLt a c = true := by
  induction a with
  | nil => intro b c h; simp [rankLt] at h
  | cons x a ih =>
    intro b c h1 h2
    cases b with
    | nil => simp [rankLt] at h1
    | cons y b =>
      cases c with
      | nil => simp [rankLt] at h2
      | cons z c =>
        simp only [rankLt, Bool.or_eq_true, decide_eq_true_eq, Bool.and_eq_true, beq_iff_eq] at *
        rcases h1 with h1 | ⟨rfl, h1⟩ <;> rcases h2 with h2 | ⟨rfl, h2⟩
        · exact .inl (by omega)
        · exact .inl h1
        · exact .inl h2
        · exact .inr ⟨rfl, ih b c h1 h2⟩

/-- What is not before `b` is not before anything that `b` is before or equal to. -/
theorem rankLt_not {a b c : List Nat} (h1 : rankLt a b = false) (h2 : b = c ∨ rankLt c b = true) : rankLt a c = false := by
  rcases h2 with rfl | h2
  · exact h1
  · cases h : rankLt a c with
    | false => rfl
    | true => rw [rankLt_trans a c b h h2] at h1; cases h1

/-- The first of some ready groups is one of them, and none of them comes before it. -/
theorem firstReady_least {s : State} {l : List (Group × Pick)} {e : Group × Pick} (h : firstReady s l = some e) :
    e ∈ l ∧ ∀ d ∈ l, rankLt (rankOf s d.1 d.2) (rankOf s e.1 e.2) = false := by
  unfold firstReady at h
  let f := fun (m : Option (List Nat × Group × Pick)) (e : Group × Pick) =>
    let r := rankOf s e.1 e.2
    match m with
    | some w => if rankLt r w.1 then some (r, e) else some w
    | none => some (r, e)
  have key : ∀ (l : List (Group × Pick)) (m w : Option (List Nat × Group × Pick)), (∀ v, m = some v → v.1 = rankOf s v.2.1 v.2.2) → l.foldl f m = w →
      (∀ v, w = some v → v.1 = rankOf s v.2.1 v.2.2 ∧ ((∃ u, m = some u ∧ u = v) ∨ v.2 ∈ l) ∧ (∀ d ∈ l, rankLt (rankOf s d.1 d.2) v.1 = false) ∧
        ∀ u, m = some u → v.1 = u.1 ∨ rankLt v.1 u.1 = true) := by
    intro l
    induction l with
    | nil =>
      rintro m w hm rfl v hv
      exact ⟨hm v hv, .inl ⟨v, hv, rfl⟩, by simp, fun u hu => .inl (by rw [List.foldl_nil, hu] at hv; cases hv; rfl)⟩
    | cons d l ih =>
      intro m w hm hw v hv
      rw [List.foldl_cons] at hw
      cases m with
      | none =>
        obtain ⟨k1, k2, k3, k4⟩ := ih (f none d) w (by rintro u hu; cases hu; rfl) hw v hv
        have k5 := k4 _ rfl
        refine ⟨k1, .inr ?_, fun c hc => ?_, by simp⟩
        · rcases k2 with ⟨u, hu, rfl⟩ | k2
          · cases hu; simp
          · simp [k2]
        · rcases List.mem_cons.mp hc with rfl | hc
          · exact rankLt_not (rankLt_irrefl _) (k5.elim (fun h => .inl h.symm) .inr)
          · exact k3 c hc
      | some u0 =>
        by_cases hc : rankLt (rankOf s d.1 d.2) u0.1 = true
        · have e1 : f (some u0) d = some (rankOf s d.1 d.2, d) := if_pos hc
          rw [e1] at hw
          obtain ⟨k1, k2, k3, k4⟩ := ih _ w (by rintro u hu; cases hu; rfl) hw v hv
          have k5 := k4 _ rfl
          refine ⟨k1, .inr ?_, fun c hm2 => ?_, ?_⟩
          · rcases k2 with ⟨u, hu, rfl⟩ | k2
            · cases hu; simp
            · simp [k2]
          · rcases List.mem_cons.mp hm2 with rfl | hm2
            · exact rankLt_not (rankLt_irrefl _) (k5.elim (fun h => .inl h.symm) .inr)
            · exact k3 c hm2
          · rintro u hu; cases hu
            rcases k5 with k5 | k5
            · exact .inr (by rw [k5]; exact hc)
            · exact .inr (rankLt_trans _ _ _ k5 hc)
        · have e1 : f (some u0) d = some u0 := if_neg hc
          rw [e1] at hw
          obtain ⟨k1, k2, k3, k4⟩ := ih _ w hm hw v hv
          have k5 := k4 _ rfl
          refine ⟨k1, ?_, fun c hm2 => ?_, fun u hu => by cases hu; exact k5⟩
          · rcases k2 with k2 | k2
            · exact .inl k2
            · exact .inr (by simp [k2])
          · rcases List.mem_cons.mp hm2 with rfl | hm2
            · exact rankLt_not (by simpa using hc) (k5.elim (fun h => .inl h.symm) .inr)
            · exact k3 c hm2
  obtain ⟨v, hv, rfl⟩ := Option.map_eq_some_iff.mp h
  obtain ⟨k1, k2, k3, _⟩ := key l none _ (by simp) rfl v hv
  refine ⟨?_, fun d hd => by rw [← k1]; exact k3 d hd⟩
  rcases k2 with ⟨u, hu, _⟩ | k2
  · cases hu
  · exact k2

/-- A group's turn is its issue where it stands first among the ready groups of its slot. -/
theorem chosenIssue_spec {s : State} {gid : Nat} {g : Group} {p : Pick} (h : chosenIssue s (readyGroups s) gid = some (g, p)) :
    g.gid = gid ∧ mfind gid s.groups = some g ∧ g.active = true ∧ nextIssue s g = some p ∧
    ∀ hq ∈ readyGroups s, sameSlot s hq.1 g = true → rankLt (rankOf s hq.1 hq.2) (rankOf s g p) = false := by
  obtain ⟨own, ho, hf⟩ := Option.bind_eq_some_iff.mp h
  obtain ⟨k1, k2⟩ := Option.filter_eq_some_iff.mp hf
  obtain ⟨m1, m2⟩ := firstReady_least k1
  have hid : g.gid = gid := by simpa using k2
  obtain ⟨a1, a2, a3⟩ := mem_readyGroups (List.mem_filter.mp m1).1
  rw [hid] at a1
  obtain rfl : own = g := by rw [a1] at ho; cases ho; rfl
  exact ⟨hid, a1, a2, a3, fun hq hm hs => m2 hq (List.mem_filter.mpr ⟨hm, hs⟩)⟩

/-- Groups enter and leave their active sets by nothing but their mark. -/
def ActiveOnly (s t : State) : Prop :=
  t = { s with groups := t.groups } ∧ t.groups.map (fun e => (e.1, { e.2 with active := false })) = s.groups.map (fun e => (e.1, { e.2 with active := false }))

theorem evActiveSetEntry_only {s t : State} (h : evActiveSetEntry s = some t) : ActiveOnly s t := by
  unfold evActiveSetEntry at h
  split at h
  · cases h
  · split at h
    · cases h
    · split at h
      · cases h
      · dsimp only at h
        split at h
        · cases h
          refine ⟨rfl, ?_⟩
          simp only [List.map_map]
          refine List.map_congr_left (fun e _ => ?_)
          simp only [Function.comp]
          split
          · rfl
          · split <;> rfl
        · cases h

/-- The groups that are due enter their active sets, and nothing else changes (R27). -/
theorem enterDue_only (n : Nat) : ∀ s : State, ActiveOnly s (enterDue n s) := by
  induction n with
  | zero => exact fun s => ⟨rfl, rfl⟩
  | succ n ih =>
    intro s
    unfold enterDue
    split
    · rename_i t ht
      obtain ⟨e, _, he⟩ := List.exists_of_findSome?_eq_some ht
      split at he
      · obtain ⟨h1, h2⟩ := evActiveSetEntry_only he
        obtain ⟨k1, k2⟩ := ih { t with ev := s.ev }
        exact ⟨by rw [k1, h1], k2.trans h2⟩
      · cases he
    · exact ⟨rfl, rfl⟩

end Sys2Proof.Machine
end

