-- ==== Sys2Proof/Tests/Slice0.lean ====
section
/-! SUPPORT. The model's own tests: ill-formed instructions that each check refuses, words of the spec's own examples decoded, small
single steps, and for each statement a state and operands that meet its hypotheses. -/

set_option maxRecDepth 100000

namespace Sys2Proof.Tests

open Sys2Proof.Machine

/-! Ill-formed instructions, one for each check of `Instr.wellFormed` (spec/03 R58 to R70). -/

theorem smoke_good : (Instr.iadd 0 7 5 3).wellFormed = true := by decide
theorem smoke_event_is_no_word : Instr.thermalTrip.wellFormed = false := by decide
/-- A compact word of a compact-eligible opcode has its own row. -/
theorem smoke_foreign_row : (Instr.iaddExt (.cmp 0 7 5 3)).wellFormed = false := by decide
/-- 0x00 is IADD's opcode, not a reserved one. -/
theorem smoke_not_reserved_opcode : (Instr.reservedMajorOpcode 0).wellFormed = false := by decide
/-- R70: an FN value that the entry does not define. -/
theorem smoke_fn : (Instr.iaddExt (.ext { fn := 1 })).wellFormed = false := by decide
/-- R70: the compact form of an opcode that is not compact-eligible. -/
theorem smoke_not_eligible : (Instr.imad (.cmp 0 1 2 3)).wellFormed = false := by decide
/-- R70: word 1 [31:30] not zero. -/
theorem smoke_word1_top : (Instr.iaddExt (.ext { z := 1 })).wellFormed = false := by decide
/-- R70: an unused source field not zero (IADD reads no C; INEG reads no A), an unused destination (ST writes none), an unused route. -/
theorem smoke_unused_c : (Instr.iaddExt (.ext { c := 5 })).wellFormed = false := by decide
theorem smoke_unused_a : (Instr.inegExt (.ext { a := 5 })).wellFormed = false := by decide
theorem smoke_unused_d : (Instr.stExt (.ext { dst := 4, ty := 1, a := 768 })).wellFormed = false := by decide
theorem smoke_unused_route : (Instr.iaddExt (.ext { rc := 1 })).wellFormed = false := by decide
/-- R70: PRED or PNEG without PEN; PEN where the entry has none (LOOP). -/
theorem smoke_pred : (Instr.iaddExt (.ext { pred := 3 })).wellFormed = false := by decide
theorem smoke_pneg : (Instr.iaddExt (.ext { pneg := 1 })).wellFormed = false := by decide
theorem smoke_pen : (Instr.loopOp (.ext { dst := 944, b := 768, c := 4, pen := 1 })).wellFormed = false := by decide
/-- R70: SCOPE, ORDER or HINT on an instruction that does not use it. -/
theorem smoke_scope : (Instr.iaddExt (.ext { scope := 1 })).wellFormed = false := by decide
theorem smoke_order : (Instr.iaddExt (.ext { order := 1 })).wellFormed = false := by decide
theorem smoke_hint : (Instr.iaddExt (.ext { hint := 1 })).wellFormed = false := by decide
/-- R70: SRCB7 not zero under LEN 10. -/
theorem smoke_srcb7 : (Instr.iaddExt (.cmpLit 0 1 5 3 9)).wellFormed = false := by decide
/-- R70: a literal that no source names, and one too wide for a 32-bit operand. -/
theorem smoke_lit_unnamed : (Instr.iaddExt (.extLit { a := 1, b := 2 } 9)).wellFormed = false := by decide
theorem smoke_lit_wide : (Instr.iaddExt (.extLit { a := 1, b := 1023 } 0x100000000)).wellFormed = false := by decide
/-- R136: bits [31:10] of a compact NOP are zero. -/
theorem smoke_nop_bits : (Instr.nop 1).wellFormed = false := by decide

/-! Words that the spec writes out, decoded; the instructions are read from the assembly beside them. -/

/-- Words in memory order as one number. -/
def num (ws : List Nat) : Nat := ws.foldr (fun w n => w + 2 ^ 32 * n) 0

/-- spec/07 R119: IADDC v10, v0, v3, %zero. -/
theorem test_word_iaddc : decodeNum (num [0x00028019, 0x3CD00C00, 0]) = .iaddc (.ext { dst := 10, a := 0, b := 3, c := 973 }) := by decide
/-- spec/04: SHL v1, %lane, #2. -/
theorem test_word_shl : decodeNum (num [0x00004043, 0x000FFFB3, 0, 2, 0]) = .shlExt (.extLit { dst := 1, a := 947, b := 1023 } 2) := by decide
/-- spec/04: compact LD v4, [s0 + v1] and ST [s0 + v1], v7, whose base s0 is compact code 96; compact EXIT. -/
theorem test_word_ld : decodeNum 0x01C01200 = .ld 0 1 96 4 := by decide
theorem test_word_st : decodeNum 0x01C01E04 = .st 0 1 96 7 := by decide
theorem test_word_exit : decodeNum 0x0000019C = .exitOp 0 := by decide
/-- spec/04: FFMA v6, v4 with a route on A, s2, v4; FMUL v7, v6, #2.5 under a predicate. -/
theorem test_word_ffma : decodeNum (num [0x0401808D, 0x004C0804, 0x00002000]) = .ffma (.ext { dst := 6, ty := 4, a := 4, b := 770, c := 4, ra := 1 }) := by decide
theorem test_word_fmul : decodeNum (num [0x0401C08B, 0x000FFC06, 0x000007B4, 0x40200000, 0]) =
    .fmulExt (.extLit { dst := 7, ty := 4, a := 6, b := 1023, pred := 948, pen := 1 } 0x40200000) := by decide
/-- spec/09: CVT.F8A.FROMF32.SR.SAT v12, v5; REDU.FADD.F32 s40, v7; SHFL.XOR.B32 v9, v3, #5. -/
theorem test_word_cvt : decodeNum (num [0xD7031101, 0x00001400, 0]) = .cvt (.ext { fn := 4, dst := 12, ty := 7, rnd := 5, sat := 1, b := 5 }) := by decide
theorem test_word_redu : decodeNum (num [0x04CA191D, 0x00001C00, 0]) = .redu (.ext { fn := 6, dst := 808, ty := 4, b := 7 }) := by decide
theorem test_word_shfl : decodeNum (num [0x0D024D0F, 0x000FFC03, 0, 5, 0]) = .shfl (.extLit { fn := 3, dst := 9, ty := 13, a := 3, b := 1023 } 5) := by decide
/-- spec/16: MOV.U s6, #0x1234_0000 and ST.U [s0 + 848], s6, compact with a literal. -/
theorem test_word_movu : decodeNum (num [0x80019876, 0x12340000, 0]) = .movExt (.cmpLit 1 0 0 102 0x12340000) := by decide
theorem test_word_stu : decodeNum (num [0x80C19A06, 0x350, 0]) = .stExt (.cmpLit 1 0 96 102 0x350) := by decide
/-- spec/15: LD.ACQ.DEVICE v4, [x2 + v7]; ATOM.FMAX.F32.REL.POOL v9, [s4 + v1], v6; FENCE.STAT.REL.POOL s30; XFENCE.HL.MX.BLOCK. -/
theorem test_word_ldacq : decodeNum (num [0x01010201, 0x00001FA2, 0x18000000]) = .ldExt (.ext { dst := 4, ty := 1, a := 930, b := 7, scope := 4, order := 1 }) := by decide
theorem test_word_atom : decodeNum (num [0x04027211, 0x00600704, 0x2C000000]) = .atom (.ext { fn := 12, dst := 9, ty := 4, a := 772, b := 1, c := 6, scope := 6, order := 2 }) := by decide
theorem test_word_fence : decodeNum (num [0x00C78621, 0, 0x2C000000]) = .fence (.ext { fn := 1, dst := 798, scope := 6, order := 2 }) := by decide
theorem test_word_xfence : decodeNum (num [0x00000A25, 4, 0x02000000]) = .xfence (.ext { fn := 2, a := 4, scope := 1 }) := by decide
/-- spec/17: HCOPY.FADD.F32 s16; MTRD.N8.BF16 v40, t2, s6. spec/18: MLOOP t0, s40, s42, #1. -/
theorem test_word_hcopy : decodeNum (num [0x04001E81, 0x00000310, 0]) = .hcopy (.ext { fn := 7, ty := 4, a := 784 }) := by decide
theorem test_word_mtrd : decodeNum (num [0x050A0EA9, 0x000C1BAA, 0]) = .mtrd (.ext { fn := 3, dst := 40, ty := 5, a := 938, b := 774 }) := by decide
theorem test_word_mloop : decodeNum (num [0x00EA02A3, 0x3FFCAB28, 0, 1, 0]) = .mloop (.extLit { dst := 936, a := 808, b := 810, c := 1023 } 1) := by decide
/-- spec/19: RTRAV.CLOSEST v16, v8, s20; WSEND.REL.FABRIC v40, v48, v2; WBAY.GRANT s40, s5, #4. -/
theorem test_word_rtrav : decodeNum (num [0x00040301, 0x000C5008, 0]) = .rtrav (.ext { dst := 16, a := 8, b := 788 }) := by decide
theorem test_word_wsend : decodeNum (num [0x000A0309, 0x00000830, 0x2A000000]) = .wsend (.ext { dst := 40, a := 48, b := 2, scope := 5, order := 2 }) := by decide
theorem test_word_wbay : decodeNum (num [0x00CA0713, 0x3FFC1400, 0, 4, 0]) = .wbay (.extLit { fn := 1, dst := 808, b := 773, c := 1023 } 4) := by decide
/-- spec/25: CSRR s40, #0x006; ERET.REPLAY; TIME.PTP s20; SVC #5. -/
theorem test_word_csrr : decodeNum (num [0x00CA0383, 0x000FFC00, 0, 6, 0]) = .csrr (.extLit { dst := 808, b := 1023 } 6) := by decide
theorem test_word_eret : decodeNum (num [0x00000789, 0, 0]) = .eret (.ext { fn := 1 }) := by decide
theorem test_word_time : decodeNum (num [0x00C5038D, 0, 0]) = .time (.ext { dst := 788 }) := by decide
theorem test_word_svc : decodeNum (num [0x00000391, 5, 0]) = .svc (.ext { a := 5 }) := by decide

/-! A small machine in which group 0 issues at address 4096 for lanes 0 and 1. -/

/-- Partition 0 is present, page 0 is translated with every permission and the registers hold zero. -/
def tg : Group := { gid := 0, bid := 0, num := 0, upc := (List.range 96).map (fun l => (l, 4096)), live := BitVec.allOnes 96, role := 7, k := 24 }
def tb : Block := { bid := 0, grid := 0, lin := 0, core := 0, groups := [0], padSize := 131072, ntiles := 8 }
def tgr : Grid :=
  { gid := 0, part := 0, gx := 1, gy := 1, gz := 1, lanes := 96, entry := 4096, params := [], regs := 24, regsMax := 24, uregs := 0, ntiles := 8
    padB := 131072, roles := 7, seed := 0, cls := 0, coop := false, depth := 0 }
def ts : State :=
  { isu := { gid := 0, pc := 4096, mask := 3 }, groups := [(0, tg)], blocks := [(0, tb)], grids := [(0, tgr)]
    parts := [(0, { present := true, quads := 1, slices := 1, chgrps := 1, transRoot := 1, svcEntry := 8192 })]
    tlb := [{ core := 0, part := 0, vpage := 0, log := 16, leaf := 0x7F, pte := 0 }] }

/-- The same machine with another group, another block or another grid in place. -/
def withG (g : Group) : State := { ts with groups := [(0, g)] }
def withB (b : Block) : State := { ts with blocks := [(0, b)] }

/-- The issue in progress in a state that has one. -/
def ctxOf (i : Instr) (s : State) : Ctx :=
  let g := (mfind s.isu.gid s.groups).getD tg
  let b := (mfind g.bid s.blocks).getD tb
  let r := (rawInstr i).getD { op := 0 }
  { s := s, g := g, b := b, gr := (mfind b.grid s.grids).getD tgr, r := r, i := (opInfo r.op).getD (ctl false {}), mask := s.isu.mask, pc := s.isu.pc }

/-- `ctxOf i s` is an issue of `i` in `s`. -/
def there (i : Instr) (s : State) : Bool :=
  (rawInstr i).isSome && (mfind s.isu.gid s.groups).isSome && (ctxOf i s).g.gid == s.isu.gid && (mfind (ctxOf i s).g.bid s.blocks).isSome &&
    (mfind (ctxOf i s).b.grid s.grids).isSome

/-- Nothing stands before the instruction's own effect, and nothing is poisoned. -/
def clear (i : Instr) (s : State) : Bool :=
  let x := ctxOf i s
  (addrBreak x).isNone && (wordTrap x).isNone && !(x.g.service && serviceDouble x.r.op) && (closing x).isNone &&
    x.g.cnts.all (fun e => decide (e.2 ≤ 255))

def good (i : Instr) (s : State) : Bool := there i s && clear i s && (ctxOf i s).g.poison.isEmpty && (ctxOf i s).g.replay.isNone

theorem some_getD {α : Type} {o : Option α} {d : α} (h : o.isSome = true) : o = some (o.getD d) := by cases o <;> simp_all

theorem there_issues (i : Instr) (s : State) (h : there i s = true) : Issues i s (ctxOf i s) := by
  simp only [there, Bool.and_eq_true, beq_iff_eq] at h
  obtain ⟨⟨⟨⟨h1, h2⟩, h3⟩, h4⟩, h5⟩ := h
  exact ⟨some_getD h1, rfl, some_getD h2, h3, some_getD h4, some_getD h5, rfl, rfl, rfl⟩

theorem clear_goes (i : Instr) (s : State) (h : clear i s = true) : Goes (ctxOf i s) := by
  simp only [clear, Bool.and_eq_true, Option.isNone_iff_eq_none, List.all_eq_true, decide_eq_true_eq] at h
  obtain ⟨⟨⟨⟨h1, h2⟩, h3⟩, h4⟩, h5⟩ := h
  refine ⟨h1, h2, fun hs => ?_, h4, h5⟩
  rw [hs] at h3
  simpa using h3

theorem good_all (i : Instr) (s : State) (h : good i s = true) : Issues i s (ctxOf i s) ∧ Goes (ctxOf i s) ∧ Calm (ctxOf i s) := by
  simp only [good, Bool.and_eq_true, Option.isNone_iff_eq_none, List.isEmpty_iff] at h
  exact ⟨there_issues i s h.1.1.1, clear_goes i s h.1.1.2, ⟨h.1.2, h.2⟩⟩

/-- An issue that meets the hypotheses most statements share, and one more. -/
theorem meets (i : Instr) (s : State) (P : Ctx → Prop) (h : good i s = true) (p : P (ctxOf i s)) :
    ∃ x, Issues i s x ∧ Goes x ∧ Calm x ∧ P x :=
  ⟨ctxOf i s, (good_all i s h).1, (good_all i s h).2.1, (good_all i s h).2.2, p⟩

/-- An extended form: FN, DST, TYPE and the three sources. -/
def e (fn : BitVec 4) (d : BitVec 10) (ty : BitVec 4) (a b c : BitVec 10) : Form := .ext { fn := fn, dst := d, ty := ty, a := a, b := b, c := c }

/-- The destination is `n` vector registers. -/
def vDst (n : Nat) (x : Ctx) : Bool := isV x.r.d && isV (x.r.d + n - 1)

theorem vDst_lane {n : Nat} {x : Ctx} (h : vDst n x = true) : LaneDst x n := by
  simp only [vDst, Bool.and_eq_true] at h; exact Or.inl h

/-! The hypotheses of the statements about arithmetic are met, for every instruction that they name. -/

def exactInstrs : List Instr :=
  [.iadd 0 7 5 3, .iaddExt (e 0 3 0 5 7 0), .isub 0 7 5 3, .isubExt (e 0 3 0 5 7 0), .imul 0 7 5 3, .imulExt (e 0 3 0 5 7 0), .imad (e 0 3 0 5 7 9),
   .ineg 0 7 0 3, .inegExt (e 0 3 0 0 7 0), .iabs 0 7 0 3, .iabsExt (e 0 3 0 0 7 0), .imin 0 7 5 3, .iminExt (e 0 3 0 5 7 0), .imax 0 7 5 3, .imaxExt (e 0 3 0 5 7 0)]

theorem wit_ExactInteger : ∀ i ∈ exactInstrs, good i ts = true ∧ (exactFn i).isSome = true ∧ vDst 1 (ctxOf i ts) = true := by decide
/-- A group in which v5 of lane 0 and v9 of lane 1 hold poison. -/
def tpois : State := withG (putPoison (putPoison tg 5 0 true) 9 1 true)
theorem wit_ExactInteger_poison : ∀ i ∈ exactInstrs, there i tpois = true ∧ clear i tpois = true ∧ (exactFn i).isSome = true ∧ (ctxOf i tpois).g.replay = none ∧
    vDst 1 (ctxOf i tpois) = true := by decide
theorem wit_ExactInteger_one : ∃ i F s x, exactFn i = some F ∧ Issues i s x ∧ Goes x ∧ Calm x ∧ LaneDst x x.ty.regs :=
  ⟨.iadd 0 7 5 3, fun a b _ => a + b, ts, (meets _ _ (fun x => LaneDst x x.ty.regs) (by decide) (vDst_lane (by decide))).elim
    (fun x h => ⟨x, rfl, h⟩)⟩

theorem wit_WideResults : (∀ i ∈ [Instr.imulh 0 7 5 3, .imulhExt (e 0 3 0 5 7 0)], good i ts = true ∧ vDst 1 (ctxOf i ts) = true) ∧
    (∀ i ∈ [Instr.imadw (e 0 4 0 5 7 8), .iaddc (e 0 4 0 5 7 9), .iaddc (e 1 4 0 5 7 9)], good i ts = true ∧ vDst 2 (ctxOf i ts) = true) := by decide

def logicInstrs : List Instr :=
  [.iand 0 7 5 3, .iandExt (e 0 3 0 5 7 0), .ior 0 7 5 3, .iorExt (e 0 3 0 5 7 0), .ixor 0 7 5 3, .ixorExt (e 0 3 0 5 7 0), .andn 0 7 5 3, .andnExt (e 0 3 0 5 7 0),
   .inot 0 7 0 3, .inotExt (e 0 3 0 0 7 0)]
def shiftInstrs : List Instr :=
  [.shl 0 7 5 3, .shlExt (e 0 3 0 5 7 0), .shr 0 7 5 3, .shrExt (e 0 3 0 5 7 0), .sar 0 7 5 3, .sarExt (e 0 3 0 5 7 0), .rotl 0 7 5 3, .rotlExt (e 0 3 0 5 7 0)]

theorem wit_LogicAndShifts : (∀ i ∈ logicInstrs, good i ts = true ∧ (logicFn 32 i).isSome = true ∧ vDst 1 (ctxOf i ts) = true) ∧
    (∀ i ∈ shiftInstrs, good i ts = true ∧ (shiftFn 32 i).isSome = true ∧ vDst 1 (ctxOf i ts) = true) := by decide

def countInstrs : List Instr :=
  [.popc 0 7 0 3, .popcExt (e 0 3 2 0 8 0), .clz 0 7 0 3, .clzExt (e 0 3 0 0 7 0), .ctz 0 7 0 3, .ctzExt (e 0 3 0 0 7 0), .brev 0 7 0 3, .brevExt (e 0 4 2 0 8 0)]

theorem wit_BitCounts : ∀ i ∈ countInstrs, good i ts = true ∧ (countFn 32 i).isSome = true ∧ vDst 2 (ctxOf i ts) = true := by decide

theorem wit_FieldsAndBytes : ∀ i ∈ [Instr.bfx (e 1 3 0 5 7 0), .bfi (e 0 3 0 5 7 9), .bysel (e 0 3 13 5 7 9)], good i ts = true ∧ vDst 1 (ctxOf i ts) = true := by decide

/-- Every FN of ICMP, and an ordering of B32, which only the operand check refuses. -/
theorem wit_IntegerCompare : (∀ i ∈ [Instr.icmp 0 7 5 3] ++ (List.range 6).map (fun k => Instr.icmpExt (e (BitVec.ofNat 4 k) 3 0 5 7 0)), good i ts = true ∧ vDst 1 (ctxOf i ts) = true) ∧
    (let i := Instr.icmpExt (e 2 3 13 5 7 0)
     let x := ctxOf i ts
     there i ts = true ∧ addrBreak x = none ∧ isIllegal x.r = false ∧ (opInfo x.r.op).map (isReserved x.r) = some false ∧ x.r.ty = 13 ∧ x.r.fn = 2 ∧
      x.g.role % 2 = 1 ∧ x.g.service = false) := by decide

/-- MOV to a loop counter, with an enabled lane as it is and under UNI, and without one. -/
theorem wit_SelectMoveAddress : (∀ i ∈ [Instr.sel (e 0 3 0 5 7 9), .mov 0 7 0 3, .movExt (e 0 3 0 0 7 0)], good i ts = true ∧ vDst 1 (ctxOf i ts) = true) ∧
    (good (.lea (e 2 4 0 6 7 0)) ts = true ∧ vDst 2 (ctxOf (.lea (e 2 4 0 6 7 0)) ts) = true) ∧
    (let x := ctxOf (.movExt (e 0 944 0 0 7 0)) ts
     good (.movExt (e 0 944 0 0 7 0)) ts = true ∧ isLc x.r.d = true ∧ x.r.uni = false ∧ (enLanes x).head? = some 0) ∧
    (let i := Instr.movExt (.extLit { dst := 944, b := 1023, uni := 1 } 5)
     good i ts = true ∧ isLc (ctxOf i ts).r.d = true ∧ (ctxOf i ts).r.uni = true ∧ enLanes (ctxOf i ts) ≠ []) ∧
    (let i := Instr.movExt (.ext { dst := 944, b := 7, pred := 9, pen := 1 })
     good i ts = true ∧ isLc (ctxOf i ts).r.d = true ∧ enLanes (ctxOf i ts) = []) := by decide

def floatInstrs : List Instr :=
  [.fadd 0 7 5 3, .faddExt (e 0 3 4 5 7 0), .fsub 0 7 5 3, .fsubExt (e 0 3 4 5 7 0), .fmul 0 7 5 3, .fmulExt (e 0 3 4 5 7 0), .ffma (e 0 3 4 5 7 9), .fdiv (e 0 3 4 5 7 0),
   .frcp 0 7 0 3, .frcpExt (e 0 3 4 0 7 0), .fsqrt 0 7 0 3, .fsqrtExt (e 0 3 4 0 7 0)]
def pairInstrs : List Instr := [.padd2 (e 0 3 14 5 7 0), .pmul2 (e 1 3 14 5 7 0), .pfma2 (e 0 3 14 5 7 9)]

theorem wit_RoundedOnce : (∀ i ∈ floatInstrs, good i ts = true ∧ (floatFn .rne i).isSome = true ∧ vDst 1 (ctxOf i ts) = true) ∧
    (∀ i ∈ pairInstrs, good i ts = true ∧ (pairFn .rne i).isSome = true ∧ vDst 1 (ctxOf i ts) = true) := by decide

def floatOthers : List Instr :=
  [.fmin 0 7 5 3, .fminExt (e 0 3 4 5 7 0), .fmax 0 7 5 3, .fmaxExt (e 0 3 4 5 7 0), .fminp (e 0 3 4 5 7 0), .fmaxp (e 0 3 4 5 7 0), .fcmp 0 7 5 3, .fcmpExt (e 7 3 4 5 7 0),
   .frsq 0 7 0 3, .frsqExt (e 0 3 4 0 7 0), .fexp2 0 7 0 3, .fexp2Ext (e 0 3 4 0 7 0), .flog2 0 7 0 3, .flog2Ext (e 0 3 4 0 7 0), .fsin (e 0 3 4 0 7 0), .fcos (e 0 3 4 0 7 0),
   .frnd (e 0 3 4 0 7 0), .fclass (e 0 3 4 0 7 0), .fldexp (e 0 3 4 5 7 0), .ffrexp (e 1 3 4 0 7 0)]

theorem wit_FloatFunctions : ∀ i ∈ floatOthers, good i ts = true ∧ (floatOther (ctxOf i ts) 0 i).isSome = true ∧ vDst 1 (ctxOf i ts) = true := by decide

/-- The descriptor 0 names blocks of 32 in the first format, which QBLK and DQBLK take. -/
theorem wit_Conversions : ∀ i ∈ [Instr.cvt (e 4 3 0 0 7 0), .qblk (e 0 3 4 5 768 0), .dqblk (e 0 3 4 5 768 9)], good i ts = true ∧ vDst 1 (ctxOf i ts) = true ∧
    bits (srcB (ctxOf i ts) (ctxOf i ts).lo).1 0 4 ≠ 8 ∧ bits (srcB (ctxOf i ts) (ctxOf i ts).lo).1 6 26 = 0 ∧ bits (srcB (ctxOf i ts) (ctxOf i ts).lo).1 4 2 ≠ 3 := by decide

theorem wit_AcrossLanes : (∀ k ∈ List.range 4, good (.shfl (e (BitVec.ofNat 4 k) 3 13 5 7 0)) ts = true ∧ vDst 1 (ctxOf (.shfl (e (BitVec.ofNat 4 k) 3 13 5 7 0)) ts) = true) ∧
    (∀ i ∈ [Instr.matchOp (e 0 3 13 0 7 0), .matchOp (e 1 3 13 0 7 0), .ballot (e 0 3 0 0 7 0), .vote (e 0 3 0 0 7 0), .redu (e 0 3 0 0 7 0), .scan (e 0 3 0 0 7 0)],
      good i ts = true ∧ (crossFn (ctxOf i ts) i).isSome = true ∧ vDst 3 (ctxOf i ts) = true) ∧
    (∀ i ∈ [Instr.ballot (e 0 768 0 0 7 0), .vote (e 0 768 0 0 7 0), .redu (e 0 768 0 0 7 0)],
      good i ts = true ∧ (crossFn (ctxOf i ts) i).isSome = true ∧ isS (ctxOf i ts).r.d = true ∧ (workLanes (ctxOf i ts)).head? = some 0) := by decide

/-! The hypotheses of the statements about control, service and the block's objects are met, clause by clause. -/

/-- An extended form with a literal, which a source names by code 1023. -/
def el (fn : BitVec 4) (d : BitVec 10) (ty : BitVec 4) (a b c : BitVec 10) (lit : BitVec 64) : Form := .extLit { fn := fn, dst := d, ty := ty, a := a, b := b, c := c } lit

/-- The same machine at service level. -/
def tsv : State := withG { tg with service := true, spc := tg.upc }

/-- The clause's own hypotheses stand for the issue of `i` in `s`, and no counter passes its bound. -/
def at_ (i : Instr) (s : State) (p : Ctx → Bool) : Bool := good i s && p (ctxOf i s) && !(overCount s s.isu.gid)

theorem wit_IssueAdvances (m : LaneMask) : (let x := ctxOf (.nop 0) ts
    let o : Out := { stay := m }
    mfind x.g.gid ts.groups = some tg ∧ tg.gid = x.g.gid ∧ x.g.replay = none ∧ tg.loops = [] ∧ o.own = none) := ⟨rfl, rfl, rfl, rfl, rfl⟩

/-- A loop from 4092 to 4100 or 4104 with the members given, one of which may be parked at its END, its counter at `n`. -/
def tlp (stop n : Nat) (mem parked : LaneMask) : State :=
  withG (putReg { tg with loops := [{ start := 4092, stop := stop, ctr := 0, members := mem }], parkLoop := parked } 944 0 n)
def loopAt (s : State) (stop : Nat) (p : Ctx → LoopEntry → Bool) : Bool :=
  let x := ctxOf (.nop 0) s
  match (mfind x.g.gid s.groups).map (fun g => g.loops) with
  | some [en] => en.stop == stop && decide (en.ctr < 3 ∧ en.start ≤ x.pc ∧ x.pc < en.stop) && x.lanes.any (hasLane en.members) && !x.g.service && x.g.replay.isNone && p x en
  | _ => false
def whole (x : Ctx) (en : LoopEntry) : Bool := (lanesOf en.members).all (fun l => x.lanes.contains l || hasLane x.g.parkLoop l)
/-- The last members arrive, at a counter of 0, 1 and above; one is missing; all of them, or all but one, branch out. -/
theorem wit_IssueAdvances_loops : (∀ n ∈ [0, 1, 2, 9], loopAt (tlp 4100 n 7 4) 4100 (fun x en => x.fall == en.stop && whole x en) = true) ∧
    loopAt (tlp 4100 9 7 0) 4100 (fun x en => x.fall == en.stop && !whole x en) = true ∧
    (∀ a ∈ [4088, 4108], loopAt (tlp 4104 9 3 0) 4104 (fun x en => x.lanes.all (fun l => decide ((mfind l [(0, a), (1, a)]).getD 0 < en.start ∨ en.stop < (mfind l [(0, a), (1, a)]).getD 0)) && whole x en) = true) ∧
    loopAt (tlp 4104 9 7 0) 4104 (fun x en => !whole x en) = true := by decide

theorem wit_PlainControl : ∀ i ∈ [Instr.nop 0, .nopExt (.ext {}), .lbinv (.ext {}), .yield 0, .yieldExt (.ext {}), .xfence (.ext { fn := 2, a := 4, scope := 1 })],
    at_ i ts (fun x => x.g.hfault.isNone) = true := by decide

/-- A branch by compact and extended words, a computed one, a call with its link in v4 and v5. -/
theorem wit_Branches : ∀ i ∈ [Instr.bra 4, .braExt (.ext { a := 3 }), .brx (.ext { b := 6 }), .call 4, .callExt (.ext { dst := 4, a := 3 }), .ret 0, .retExt (.ext { b := 6 })],
    at_ i ts (fun x => (branchTarget x i).isSome && x.g.loops.isEmpty && (enLanes x).all (fun l => ((branchTarget x i).getD id) l % 4 == 0) &&
      (linkRegs i != 2 || isV (x.r.d + 1))) = true := by decide

theorem wit_Branches_loop : ∀ i ∈ [Instr.bra 4, .braExt (.ext { a := 3 }), .brx (.ext { b := 6 }), .call 4, .callExt (.ext { dst := 4, a := 3 }), .ret 0, .retExt (.ext { b := 6 })],
    at_ i (tlp 4100 9 7 0) (fun x => (branchTarget x i).isSome && !x.g.loops.isEmpty && (enLanes x).all (fun l => ((branchTarget x i).getD id) l % 4 == 0)) = true := by decide

/-- A LOOP over one NOP, twice and not at all. -/
def nopAt (a : Nat) : List Host.Cell := [(a, 0x80), (a + 1, 1)]
def tloop : State := { ts with mem := nopAt 4112 ++ nopAt 4116 ++ nopAt 4120 }
theorem wit_LoopOpens : ∀ n ∈ [(0 : Nat), 2], (let i := Instr.loopOp (el 0 944 0 0 1023 1 (BitVec.ofNat 64 n))
    good i tloop = true ∧ (let x := ctxOf i tloop
      (uB x).1 = n ∧ x.r.c ≠ 0 ∧ x.g.loops.length < 3 ∧ (∀ e ∈ x.g.loops, e.ctr + 944 ≠ x.r.d ∧ ((e.start ≤ x.fall ∧ x.fall + 4 * x.r.c ≤ e.stop) ∨
        x.fall + 4 * x.r.c ≤ e.start ∨ e.stop ≤ x.fall)) ∧
      walkBody 256 tloop x.g x.fall (x.fall + 4 * x.r.c) = .exact ∧ (match (fetchBytes x.r.c tloop x.g x.fall).1 with | .ok _ => true | .error _ => false) = true)) := by decide

theorem wit_ExitLeaves : ∀ i ∈ [Instr.exitOp 0, .exitOpExt (.ext {})], at_ i ts (fun x => x.g.hfault.isNone) = true ∧ at_ i tsv (fun x => x.g.hfault.isNone) = true := by decide

/-- The software traps with enabled lanes at each level, and with none (the predicate v9 is zero). -/
theorem wit_SoftwareTraps : ∀ i ∈ [Instr.trap (.ext { a := 5 }), .brk (.ext { a := 5 })],
    at_ i ts (fun x => !(enLanes x).isEmpty && (codeCause i).isSome && !x.g.service) = true ∧ at_ i tsv (fun x => !(enLanes x).isEmpty && x.g.service) = true := by decide
theorem wit_SoftwareTraps_off : ∀ i ∈ [Instr.trap (.ext { a := 5, pred := 9, pen := 1 }), .brk (.ext { a := 5, pred := 9, pen := 1 })],
    at_ i ts (fun x => (enLanes x).isEmpty && (codeCause i).isSome) = true := by decide

/-- Opcode 0xFF is reserved; an FN that IADD has not, a vector instruction in a group without the role. -/
theorem wit_StaticTraps : (∀ i ∈ [Instr.reservedMajorOpcode 0x3FC, .iaddExt (e 1 3 0 5 7 0)], ∀ s ∈ [ts, tsv],
      there i s = true ∧ addrBreak (ctxOf i s) = none ∧
      wordTrap (ctxOf i s) = some .illegal) ∧
    opInfo ((0x3FC : BitVec 160).toNat / 4 % 256) = none ∧ (ctxOf (.reservedMajorOpcode 0x3FC) ts).g.service = false := by decide

def rawE (i : Instr) : Raw := (rawInstr i).getD { op := 0 }
/-- Every rung of the ladder, the role mask at its edges. -/
theorem wit_CheckOrder : (opInfo 0).isSome = true ∧ (let info := (opInfo 0).getD (ctl false {})
    let ok := rawE (.iadd 0 7 5 3)
    let bad := rawE (.iaddExt (e 0 950 0 5 7 0))
    isIllegal (rawE (.iaddExt (e 1 3 0 5 7 0))) = true ∧
    (isIllegal (rawE (.iaddExt (e 0 3 0 5 7 1))) = false ∧ isReserved (rawE (.iaddExt (e 0 3 0 5 7 1))) info = true) ∧
    (isIllegal ok = false ∧ isReserved ok info = false ∧ roleBit ok info ≠ 0 ∧ 6 &&& roleBit ok info = 0 ∧ 7 &&& roleBit ok info ≠ 0 ∧ 1 &&& roleBit ok info ≠ 0) ∧
    (isIllegal bad = false ∧ isReserved bad info = false ∧ operandOk bad info = false) ∧
    (operandOk ok info = true ∧ boundOk ok info 1 0 = true ∧ boundOk ok info 0 0 = false)) ∧
    roleBit (rawE (.nop 0)) ((opInfo (rawE (.nop 0)).op).getD (ctl false {})) = 0 := by decide
theorem wit_CheckOrder_role : (let i := Instr.iadd 0 7 5 3
    let s := withG { tg with role := 6 }
    there i s = true ∧ addrBreak (ctxOf i s) = none ∧ (ctxOf i s).g.service = false ∧ wordTrap (ctxOf i s) = some .role) := by decide
/-- A descriptor with MBZ bits, alone and with a register past the allocation; a register past it alone. -/
def stat (x : Ctx) : Option Cause := staticTrap x.r x.g.role x.g.service x.g.k x.b.ntiles
def dq (d : BitVec 10) (v : BitVec 64) : Ctx := ctxOf (.dqblk (el 0 d 4 5 1023 9 v)) (withG { tg with k := 4 })
theorem wit_CheckOrder_desc : (stat (dq 3 0) = none ∧ descBad (dq 3 0) = false) ∧ (stat (dq 3 64) = none ∧ descBad (dq 3 64) = true) ∧
    (stat (dq 400 0) = some .registerBound ∧ descBad (dq 400 0) = false) ∧ (stat (dq 400 64) = some .registerBound ∧ descBad (dq 400 64) = true) := by decide

/-- Every closing condition: a marked destination, 64 issues counted, EXIT; and a poisoned operand of WAITC and TWAIT. -/
def twin (gcnt : Nat) (m : BitVec 925) : State := withG { tg with win := { opened := true, gcnt := gcnt, marked := m } }
theorem wit_CheckOrder_close : (∀ c ∈ [(Instr.iadd 0 7 5 3, 0, BitVec.allOnes 925, 1), (.iadd 0 7 5 3, 64, BitVec.allOnes 925, 1), (.iadd 0 7 5 3, 64, 0, 2), (.exitOp 0, 63, 0, 3), (.exitOp 0, 64, 0, 2)],
    (let s := twin c.2.1 c.2.2.1
     let x := ctxOf c.1 s
     there c.1 s = true ∧ addrBreak x = none ∧ wordTrap x = none ∧ closing x = some c.2.2.2 ∧ x.g.hfault = none ∧ ppLanes x = [])) ∧
    (let x := ctxOf (.iadd 0 7 5 3) (twin 0 (BitVec.allOnes 925))
     (dstMarks x &&& x.g.win.marked).toNat ≠ 0 ∧ workLanes x ≠ []) ∧
    (let x := ctxOf (.exitOp 0) (twin 63 0)
     (dstMarks x &&& x.g.win.marked).toNat = 0 ∧ x.g.win.gcnt < 64 ∧ x.g.win.opened = true ∧ x.g.replay = none ∧ x.g.service = false) := by decide
theorem wit_CheckOrder_operand : ∀ i ∈ [Instr.waitc (e 0 0 0 0 768 0), .twait (e 0 0 0 0 768 0)], (let s := withG (putPoison (putPoison tg 768 0 true) 769 0 true)
    let x := ctxOf i s
    there i s = true ∧ clear i s = true ∧ x.g.replay = none ∧ x.g.service = false ∧ x.g.hfault = none ∧ ppLanes x = [] ∧ (uB x).2 = true) := by decide

/-- A count at the threshold and one above it. -/
def tcnt (n : Nat) : State := withG { tg with cnts := [(0, n), (1, n), (2, n), (3, n), (4, n), (5, n), (6, n)] }
theorem wit_Waits_count : (let i := Instr.waitc (el 0 0 0 0 1023 0 3)
    at_ i (tcnt 3) (fun x => x.g.hfault.isNone && decide (getCnt x.g (pathOf x.r.fn) ≤ min ((uB x).1 % 2 ^ 32) 255)) = true ∧
    at_ i (tcnt 4) (fun x => x.g.hfault.isNone && decide (min ((uB x).1 % 2 ^ 32) 255 < getCnt x.g (pathOf x.r.fn))) = true) := by decide
theorem wit_Waits_time : at_ (.twait (el 0 0 0 0 1023 0 0)) ts (fun x => x.g.hfault.isNone && decide ((uB x).1 ≤ ts.ptp.ns % 2 ^ 64)) = true ∧
    at_ (.twait (el 0 0 0 0 1023 0 1)) ts (fun x => x.g.hfault.isNone && decide (ts.ptp.ns % 2 ^ 64 < (uB x).1)) = true := by decide

/-- A barrier object of quota 2 in generation 1 and a ring of two stages stand in the pad at 0 and 16, the next slot full. -/
def tpad : State := withB { tb with pad := [(0, 2), (4, 1), (16, 1), (20, 1)] }
theorem wit_Waits_pad : (∀ c ∈ [(0 : Nat), 1], (let i := Instr.abwait (el 0 0 0 1022 1023 (973 + BitVec.ofNat 10 c) 0)
      at_ i tpad (fun x => (uB x).1 == 0 && padIn x.b 0 16 && !padBad x.b 0 16 && !abBad (abOf (padGet x.b 0 16)) &&
        (abPassed ((uC x).1 % 2 ^ 32) (abOf (padGet x.b 0 16)) == (c == 0))) = true)) ∧
    (∀ fn ∈ [(0 : Nat), 1], ∀ c ∈ [(0 : Nat), 1], (let i := Instr.stgw (el (BitVec.ofNat 4 fn) 0 0 1022 1023 (973 + BitVec.ofNat 10 c) 16)
      at_ i tpad (fun x => (uB x).1 == 16 && padIn x.b 16 8 && !padBad x.b 16 8 && !stgBad (padGet x.b 16 8)) = true)) := by decide
theorem wit_Waits_stage : ∀ full ∈ [true, false], (∃ c ∈ [(0 : Nat), 1, 2, 3], stgPasses full (padGet { tb with pad := [(16, 1), (20, 1)] } 16 8) c = true) ∧
    (∃ c ∈ [(0 : Nat), 1, 2, 3], stgPasses full (padGet { tb with pad := [(16, 1), (20, 1)] } 16 8) c = false) := by decide

theorem wit_PadObjects_barrier :
    at_ (.abinit (el 0 0 0 1022 1023 974 16)) tpad (fun x => !(enLanes x).isEmpty && padIn x.b 16 16 && (abInit ((uC x).1 % 2 ^ 32)).isSome) = true ∧
    (∀ fn ∈ [(0 : Nat), 1], ∀ d ∈ [(0 : Nat), 800], at_ (.abarv (el (BitVec.ofNat 4 fn) (BitVec.ofNat 10 d) 0 1022 1023 0 0)) tpad
      (fun x => !(enLanes x).isEmpty && padIn x.b 0 16 && !padBad x.b 0 16 && !abBad (abOf (padGet x.b 0 16)) && (abArrive x.r.fn (abOf (padGet x.b 0 16))).isSome && x.r.d == d) = true) ∧
    at_ (.abexp (el 0 0 0 1022 1023 974 0)) tpad (fun x => !(enLanes x).isEmpty && padIn x.b 0 16 && (abExpect ((uC x).1 % 2 ^ 32) (abOf (padGet x.b 0 16))).isSome) = true := by decide
theorem wit_PadObjects_stage :
    at_ (.stgp (el 2 0 0 1022 1023 974 24)) tpad (fun x => !(enLanes x).isEmpty && padIn x.b 24 8 && (stgInit ((uC x).1 % 2 ^ 32)).isSome) = true ∧
    (∀ fn ∈ [(0 : Nat), 1], ∃ c ∈ [(973 : Nat), 974], at_ (.stgp (el (BitVec.ofNat 4 fn) 0 0 1022 1023 (BitVec.ofNat 10 c) 16)) tpad (fun x => !(enLanes x).isEmpty &&
      padIn x.b 16 8 && !stgBad (padGet x.b 16 8) && (stgPost (x.r.fn == 0) (padGet x.b 16 8) ((uC x).1 % 2 ^ 32)).isSome) = true) := by decide

/-- A machine whose group has two live lanes, which all stand at the instruction, and one with a third elsewhere. -/
def twide : State := withG { tg with live := 3, k := 4 }
def wideInstrs : List Instr :=
  [.bar (el 0 0 0 0 1023 974 15), .joinOp (.ext {}), .ralloc (el 0 0 0 0 1023 0 1), .ralloc (el 0 0 0 0 1023 0 4), .ralloc (el 0 0 0 0 1023 0 5), .ralloc (el 0 0 0 0 1023 0 24),
   .rfree (el 0 0 0 0 1023 0 1), .rfree (el 0 0 0 0 1023 0 3), .rfree (el 0 0 0 0 1023 0 4), .rfree (el 0 0 0 0 1023 0 24)]
theorem wit_GroupWide : ∀ i ∈ wideInstrs, at_ i twide (fun x => x.g.hfault.isNone && (x.g.live &&& ~~~(x.mask ||| parkedHere x)).toNat == 0 &&
    !x.gr.coop && decide ((mfind (uB x).1 x.b.bars).isNone) && decide (blockRegs twide x.b + ((uB x).1 - x.g.k) ≤ 128)) = true := by decide
theorem wit_GroupWide_parks : ∀ i ∈ wideInstrs ++ [.spawn (e 0 800 0 0 768 0)], at_ i (withG { tg with live := 7, k := 4 })
    (fun x => x.g.hfault.isNone && (x.g.live &&& ~~~(x.mask ||| parkedHere x)).toNat != 0 && !x.gr.coop && decide (x.gr.depth < 10) &&
      decide (blockRegs (withG { tg with live := 7, k := 4 }) x.b + ((uB x).1 - x.g.k) ≤ 128)) = true := by decide

/-- In a cooperative grid, whose blocks hold what their largest allocation takes. -/
theorem wit_GroupWide_coop : at_ (.ralloc (el 0 0 0 0 1023 0 24)) { twide with grids := [(0, { tgr with coop := true })] } (fun x => x.g.hfault.isNone &&
    (x.g.live &&& ~~~(x.mask ||| parkedHere x)).toNat == 0 && x.gr.coop && decide (x.g.k < (uB x).1) && decide ((uB x).1 ≤ x.gr.regsMax)) = true := by decide

theorem wit_Spawns : (let i := Instr.spawn (e 0 800 0 0 768 0)
    at_ i twide (fun x => !x.gr.coop && decide (x.gr.depth < 10) && (x.g.live &&& ~~~(x.mask ||| parkedHere x)).toNat == 0 &&
      (match (readAtIssue x .sv (uB x).1 64).1 with | .ok _ => true | .error _ => false)) = true ∧
    at_ i { twide with grids := [(0, { tgr with depth := 10 })] } (fun x => !x.gr.coop && decide (10 ≤ x.gr.depth)) = true) := by decide

theorem wit_ServiceLevel_svc : at_ (.svc (.ext { a := 5 })) ts (fun x => x.g.loops.isEmpty && !(enLanes x).isEmpty) = true ∧
    at_ (.svc (.ext { a := 5, pred := 9, pen := 1 })) ts (fun x => x.g.loops.isEmpty && (enLanes x).isEmpty) = true := by decide
/-- ERET of every kind at service level, the trapped instruction at address 4096. -/
theorem wit_ServiceLevel_eret : (∀ fn ∈ [(0 : Nat), 1, 2, 3], (let i := Instr.eret (.ext { fn := BitVec.ofNat 4 fn })
      good i tsv = true ∧ (ctxOf i tsv).g.service = true ∧ (ctxOf i tsv).r.fn = fn ∧ (ctxOf i tsv).g.replay = none)) ∧
    good (.eret (.ext {})) ts = true ∧ (ctxOf (.eret (.ext {})) ts).g.service = false ∧
    (match (fetchAt tsv { tg with service := false } 0).1 with | .ok _ => true | .error _ => false) = true := by decide

theorem wit_ServiceLevel_svc_loop : at_ (.svc (.ext { a := 5 })) (tlp 4100 9 7 0) (fun x => !x.g.loops.isEmpty && !(enLanes x).isEmpty) = true := by decide
/-- A closed window, one closed after the issue, and an open one; a replay to begin, in progress and done. -/
theorem wit_ServiceLevel_window : (let n := snapOf tg 4096
    (tg.win.shutSeq ≤ n.seq ∧ tg.win.opened = false ∧ tg.win.fkind = 0) ∧ n.seq < ({ shutSeq := 1 } : Win).shutSeq ∧
    (let w : Win := { opened := true, orig := some n, cnt := [(3, 2)] }
     w.shutSeq ≤ n.seq ∧ w.orig = some n ∧ (∃ l ∈ lanesOf { tg with win := w }.live, cget 0 l w.cnt ≠ 0))) := by decide
theorem wit_ServiceLevel_replay : (let r : Replay := { target := [(0, 1), (1, 1)], prog := [], done := 0, back := snapOf tg 4096 }
    let x := ctxOf (.iadd 0 7 5 3) (withG { tg with replay := some r, win := { opened := true, orig := some (snapOf tg 4096), cnt := [(0, 1), (1, 1)] }, hist := [{ seq := 0, lanes := 3, named := 0, marked := true, bad := 1 }] })
    x.inReplay = true ∧ isV x.r.d = true ∧ x.wasBad x.r.d 0 = true ∧ x.wasBad x.r.d 1 = false ∧
    (∀ l ∈ lanesOf tg.live, hasLane (BitVec.allOnes 96) l = true) ∧ tg.pend = [] ∧ tg.service = false) := by decide

def csrNums : List Nat := [0, 7, 0x10, 0x13, 0x20, 0x30, 0x31, 0x40, 0x47, 0x48, 0x50, 0x60, 0x7F, 0x80]
/-- Every register at both ends of its numbers, at both levels. -/
theorem wit_RegisterAccess_read : ∀ n ∈ csrNums, ∀ s ∈ [ts, tsv], at_ (.csrr (el 0 808 0 0 1023 0 (BitVec.ofNat 64 n))) s
    (fun x => !(enLanes x).isEmpty && (csrOf ((uB x).1 % 2 ^ 32)).isSome && isS x.r.d) = true := by decide
theorem wit_RegisterAccess_time : at_ (.time (.ext { dst := 808 })) ts (fun x => !(enLanes x).isEmpty && isS x.r.d) = true ∧
    at_ (.time (.ext { fn := 1, dst := 808 })) ts (fun x => !(enLanes x).isEmpty && isS x.r.d) = true := by decide
theorem wit_RegisterAccess_write : ∀ n ∈ csrNums, ∀ s ∈ [ts, tsv], at_ (.csrw (el 0 0 0 0 1023 768 (BitVec.ofNat 64 n))) s
    (fun x => !(enLanes x).isEmpty && (csrOf ((uB x).1 % 2 ^ 32)).isSome && (getPart x.s x.part).tlbInv.isEmpty) = true := by decide

/-! The hypotheses of the statements about memory, the engines, the matrix unit, wagons and jobs are met. -/

/-- The same machine with values in lane 0's or uniform registers. -/
def regsIn (g : Group) (rs : List (Nat × Nat)) : Group := rs.foldl (fun g e => putReg g e.1 0 e.2) g
def tregs (rs : List (Nat × Nat)) : State := withG (regsIn tg rs)

def allGo (tr : List (Where × Except XFault (List Piece))) : Bool := tr.all (fun e => match e.2 with | .ok _ => true | .error _ => false)
def offUn (x : Ctx) (need : Need) (n : Nat) : Bool := (laneWheres x).all (fun w => !reachesUn x (xlateLanes x need false n (laneWheres x) x.s).2 w n)

/-- An extended memory form: FN, DST, TYPE, base, offset and data. -/
def mm (fn : BitVec 4) (d : BitVec 10) (ty : BitVec 4) (a b c : BitVec 10) : Form := .ext { fn := fn, dst := d, ty := ty, a := a, b := b, c := c }

def loadInstrs : List Instr := [.ld 0 1 96 4, .ldExt (mm 0 4 1 768 1 0), .ldExt (mm 0 4 3 1022 1 0), .ldp (mm 0 16 0 768 1 0), .ldp (mm 3 16 0 1022 1 0)]
theorem wit_Loads : ∀ i ∈ loadInstrs, at_ i ts (fun x => !isBare x && match loadShape x i with
    | some (_, bytes, _) => (dataBreak x 1 (laneWheres x) bytes).isNone && (padExtent x (laneWheres x) bytes).isNone && allGo (xlateLanes x .rd false bytes (laneWheres x) ts).1
    | none => false) = true := by decide

def storeInstrs : List Instr := [.st 0 1 96 7, .stExt (mm 0 0 1 768 1 7), .stExt (mm 0 0 3 1022 1 8), .stp (mm 0 0 0 768 1 16), .stp (mm 3 0 0 1022 1 16)]
theorem wit_Stores : ∀ i ∈ storeInstrs, at_ i ts (fun x => !isBare x && match storeShape x i with
    | some (n, _) => (dataBreak x 2 (laneWheres x) n).isNone && (padExtent x (laneWheres x) n).isNone && allGo (xlateLanes x .wr true n (laneWheres x) ts).1
    | none => false) = true := by decide

def atomInstrs : List Instr :=
  [.atom (mm 0 9 1 768 1 6), .atom (mm 7 8 3 768 1 4), .atomn (mm 0 0 1 768 1 6), .atomp (mm 0 9 1 1022 1 6), .atomp (mm 6 9 1 1022 1 6), .atomp (mm 8 0 1 1022 1 6),
   .atomw (mm 0 8 0 768 1 16), .atomw (mm 1 8 0 768 1 16), .atomw (mm 2 0 0 768 1 16)]
theorem wit_Atomics : ∀ i ∈ atomInstrs, at_ i ts (fun x => !isBare x && match atomShape x i with
    | some (_, _, n, _, _) => (dataBreak x 2 (laneWheres x) (4 * n)).isNone && (padExtent x (laneWheres x) (4 * n)).isNone &&
        (laneWheres x).all (fun w => (if w.pad then w.off.toNat else w.va) % (4 * n) == 0) &&
        allGo (xlateLanes x .at false (4 * n) (laneWheres x) ts).1 && offUn x .at (4 * n)
    | none => false) = true := by decide

/-- Annotated, with no enabled lane: the predicate v9 is zero. -/
def bareInstrs : List Instr :=
  [.ldExt (.ext { dst := 4, ty := 1, a := 768, b := 1, order := 1, scope := 4, pred := 9, pen := 1 }), .ldp (.ext { dst := 16, a := 768, b := 1, order := 1, scope := 4, pred := 9, pen := 1 }),
   .stExt (.ext { ty := 1, a := 768, b := 1, c := 7, order := 2, scope := 4, pred := 9, pen := 1 }), .stp (.ext { a := 768, b := 1, c := 16, order := 2, scope := 4, pred := 9, pen := 1 }),
   .atom (.ext { dst := 9, ty := 1, a := 768, b := 1, c := 6, order := 3, scope := 4, pred := 9, pen := 1 }), .atomn (.ext { ty := 1, a := 768, b := 1, c := 6, order := 2, scope := 4, pred := 9, pen := 1 }),
   .atomp (.ext { dst := 9, ty := 1, a := 1022, b := 1, c := 6, order := 3, scope := 1, pred := 9, pen := 1 }),
   .atomw (.ext { dst := 8, a := 768, b := 1, c := 16, order := 3, scope := 4, pred := 9, pen := 1 }),
   .hsig (.ext { a := 768, b := 770, order := 2, scope := 4, pred := 9, pen := 1 }), .wsend (.ext { dst := 40, a := 48, b := 2, order := 2, scope := 5, pred := 9, pen := 1 })]
theorem wit_OtherMemory_bare : ∀ i ∈ bareInstrs, at_ i ts (fun x => isBare x) = true := by decide

theorem wit_OtherMemory : ∀ i ∈ [Instr.fence (.ext { order := 2, scope := 4 }), .fence (.ext { fn := 1, dst := 798, order := 2, scope := 6 }), .xlt (mm 0 930 0 0 768 0),
      .pref (mm 2 0 0 768 1 0), .cflush (mm 0 0 0 768 1 800), .cinv (.ext { a := 768, b := 1, c := 800, scope := 4 })],
    at_ i ts (fun x => (padExtent x (laneWheres x) 1).isNone) = true := by decide

/-- A descriptor of one row of four bytes from pad to pad, in s16 to s27. -/
def thaul : State := tregs [(788, 4), (789, 0x30001)]
def descOk (x : Ctx) (use : HaulUse) (w : Nat) (trig : Option Nat) : Bool :=
  let d := descOf (recWords x x.r.a 12).1
  (descTrap x use d w (d.rows * d.rowb) (copyEnds use d) false trig).isNone
def starts (r : Res) : Bool := match r with | .ok _ o => o == {} | _ => false
theorem wit_HaulStarts : ∀ s ∈ [ts, thaul],
    (∀ f ∈ [Form.ext { a := 784 }, .ext { fn := 1, ty := 1, a := 784 }, .ext { fn := 9, ty := 4, a := 784 }], at_ (.hcopy f) s (fun x => !(enLanes x).isEmpty && descOk x .copy (redBytes x.r.fn x.r.ty) none) = true) ∧
    at_ (.hfill (.ext { a := 784, b := 768 })) s (fun x => !(enLanes x).isEmpty && descOk x .fill 1 none) = true ∧
    at_ (.htrig (.ext { fn := 7, ty := 4, a := 784, b := 768, c := 769 })) s (fun x => !(enLanes x).isEmpty && descOk x .copy (redBytes x.r.fn x.r.ty) (some ((uB x).1 % 2 ^ 32))) = true := by decide
theorem wit_HaulStarts_xpose : ∀ s ∈ [ts, tregs [(789, 1)]],
    at_ (.hxpose (el 0 0 0 784 1023 0 (2 ^ 50 + 4))) s (fun x =>
      let d := descOf (recWords x x.r.a 12).1
      let f := fbOf (uB x).1
      !(enLanes x).isEmpty && (fbBad (uB x).1).isNone && (xposeOut x.b d f).isNone &&
      (descTrap x .xpose d 1 (d.rows * f.rows * (16 * f.p + 120 / blkLen f.blk)) (if d.rows = 0 then [] else xposeEnds d f) (isBlockFmt f.fmt) none).isNone) = true := by decide
def oneGoes (x : Ctx) (need : Need) : Bool :=
  let w : Where := { lane := x.lo, va := (srcA x x.lo).1 }
  match (xlateLanes x need false 8 [w] x.s).1 with | [(v, .ok _)] => decide (v = w) | _ => false
theorem wit_HaulStarts_rem : ∀ f ∈ [Form.ext { a := 784 }, .ext { fn := 1, a := 784, b := 768 }, .ext { fn := 2, a := 784, b := 768 }],
    at_ (.hrem f) ts (fun x =>
      let d := descOf (recWords x x.r.a 12).1
      !(enLanes x).isEmpty && (descTrap x .rem d 1 (d.rows * d.rowb) (copyEnds .rem { d with dpad := false }) false none).isNone) = true ∧
    at_ (.hsig (.ext { a := 768, b := 770 })) ts (fun x => !(enLanes x).isEmpty && (srcA x x.lo).1 % 8 == 0 &&
      oneGoes x .wr) = true ∧
    at_ (.hsig (.ext { fn := 1, a := 768, b := 770 })) ts (fun x => !(enLanes x).isEmpty && (srcA x x.lo).1 % 8 == 0 &&
      oneGoes x .at && !reachesUn x (xlateLanes x .at false 8 [{ lane := x.lo, va := (srcA x x.lo).1 }] x.s).2 { lane := x.lo, va := (srcA x x.lo).1 } 8) = true := by decide

def lanesFit (x : Ctx) (need : Need) (w : Nat) : Bool :=
  let ws := (enLanes x).map (whereOf x)
  let tr := (xlateLanes x need false w ws x.s).1
  !(enLanes x).isEmpty && (uC x).1 % w == 0 && ws.all (fun e => padIn x.b (((uC x).1 % 2 ^ 32 + e.lane * w : Nat) : Int) w && (!e.pad || padIn x.b e.off w) &&
    (if e.pad then e.off.toNat else e.va) % w == 0) && allGo tr && ws.all (fun e => !reachesUn x (xlateLanes x need false w ws x.s).2 e w)
theorem wit_GatherScatter : (∀ f ∈ [mm 0 0 1 768 1 800, mm 0 0 3 1022 1 800], at_ (.gath f) ts (fun x => lanesFit x .rd (memBytes x.r.ty)) = true) ∧
    (∀ f ∈ [mm 0 0 0 768 1 800, mm 1 0 1 768 1 800, mm 9 0 4 1022 1 800], at_ (.scat f) ts (fun x =>
      lanesFit x (if x.r.fn = 0 then .wr else .at) (redBytes x.r.fn x.r.ty)) = true) := by decide

/-- A format block of one row in each of the pairs s40, s42, a stride of 384 bytes in s48. -/
def tmat : State := tregs [(809, 2 ^ 18), (808, 4), (811, 2 ^ 18), (810, 4), (816, 384)]
theorem wit_MatrixStarts_mloop :
    at_ (.mloop (.ext { dst := 936, a := 808, b := 810, c := 812 })) tmat (fun x =>
      let a := (srcA x x.lo).1
      let b := (srcB x x.lo).1
      let st := stepOf (srcC x x.lo).1
      !(enLanes x).isEmpty && (fbBad a).isNone && (fbBad b).isNone && !st.mbz && (fbOf a).blk == (fbOf b).blk && (mloopOut x.b (fbOf a) (fbOf b) st).isNone) = true := by
  decide
theorem wit_MatrixStarts_tile : at_ (.mzero (.ext { dst := 936 })) ts (fun x => !(enLanes x).isEmpty) = true ∧
    (∀ c0 ∈ [0, 95], at_ (.mtrd (el 0 40 4 936 1023 0 (BitVec.ofNat 64 c0))) ts (fun x => !(enLanes x).isEmpty && decide ((uB x).1 % 2 ^ 32 + 2 ^ x.r.fn ≤ 96)) = true) ∧
    (∀ c0 ∈ [0, 64], at_ (.mtwr (el 5 936 4 32 1023 0 (BitVec.ofNat 64 c0))) ts (fun x => !(enLanes x).isEmpty && decide ((uB x).1 % 2 ^ 32 + 2 ^ x.r.fn ≤ 96)) = true) := by
  decide
theorem wit_MatrixStarts_pad : ∀ i ∈ [Instr.mldt (.ext { dst := 936, ty := 4, a := 1022, b := 768, c := 816 }), .mstt (.ext { dst := 936, ty := 4, a := 1022, b := 768, c := 816 })],
    at_ i tmat (fun x => !(enLanes x).isEmpty && (uC x).1 % 4 == 0 && decide (96 * 4 ≤ (uC x).1) &&
      (endsOut x.b { pad := true, addr := (uB x).1 % 2 ^ 32, stride := ((uC x).1 : Int), rows := 96, n := 384 }).isNone) = true := by decide

theorem wit_RenderStarts : at_ (.rtrav (.ext { dst := 16, a := 8, b := 788 })) ts (fun x => !(enLanes x).isEmpty) = true ∧
    at_ (.texf (.ext { dst := 16, a := 1, b := 2, c := 792 })) (tregs [(795, 16)]) (fun x =>
      !(enLanes x).isEmpty && (surfBad (wordsNum ((List.range 8).map (fun k => getReg x.g (x.r.c + k) 0)))).isNone) = true := by decide

/-- The partition owns channel 0, which is open with one wagon and 5 credits granted, or full, or closed. -/
def tbay (c : Option Chan) : State := { ts with parts := [(0, { getPart ts 0 with wchan := 1, chans := match c with | some c => [(0, c)] | none => [] })] }
def bayIs (x : Ctx) (n : Nat) : Bool := ((bayOf x x.s n).map (fun c => (c.total, c.wagons.length))) == some (5, 1)
theorem wit_Wagons_move : at_ (.wsend (.ext { dst := 40, a := 48, b := 2 })) ts (fun x => !(enLanes x).isEmpty && (enLanes x).all (fun l => targetOk ((srcB x l).1 % 2 ^ 32))) = true ∧
    (∀ w ∈ [0, 63], at_ (.wrecv (el 0 48 0 0 1023 0 (BitVec.ofNat 64 w))) (tbay (some { core := 0, bank := 0, total := 5, wagons := [(7, 0)] }))
      (fun x => !(enLanes x).isEmpty && decide ((uB x).1 % 2 ^ 32 < 64)) = true) := by decide
theorem wit_Wagons_open : at_ (.wbay (el 0 808 0 0 1023 973 63)) (tbay none) (fun x => !(enLanes x).isEmpty && !bit (getPart x.s x.part).wchan 63) = true ∧
    at_ (.wbay (el 0 808 0 0 973 1023 31)) { tbay none with cores := [(0, { banks := [(31, { mode := 2 })] })] } (fun x => !(enLanes x).isEmpty && bit (getPart x.s x.part).wchan 0 &&
      (bayOf x x.s 0).isNone && (uC x).1 == 31 && (getBank (getCore x.s x.b.core) 31).mode == 2 && (getBank (getCore x.s x.b.core) 31).state == 0 &&
      (getBank (getCore x.s x.b.core) 31).intake.isNone) = true := by decide
theorem wit_Wagons_grant : ∀ k ∈ [1, 1019, 1020, 1024], ∀ c ∈ [none, some ({ core := 0, bank := 0, total := 5, wagons := [(7, 0)] } : Chan)],
    at_ (.wbay (el 1 808 0 0 973 1023 (BitVec.ofNat 64 k))) (tbay c) (fun x => !(enLanes x).isEmpty && targetOk ((uB x).1 % 2 ^ 32) && (bayIs x 0 == c.isSome) && bit (getPart x.s x.part).wchan 0) = true := by decide
theorem wit_Wagons_rest : ∀ fn ∈ [(2 : BitVec 4), 3, 4, 5], ∀ c ∈ [none, some ({ core := 0, bank := 0, total := 5, wagons := [(7, 0)] } : Chan), some { core := 0, bank := 0 }],
    at_ (.wbay (el fn 808 0 0 1023 0 0)) (tbay c) (fun x => !(enLanes x).isEmpty && targetOk ((uB x).1 % 2 ^ 32)) = true := by decide

/-- A COLL record of one participant in s40, and a job record at 256 of two ranks and two lines. -/
def tjob : State :=
  { ts with mem := [(258, 2), (272, 2), (311, 0)].filter (fun e => e.2 != 0), fab := { ts.fab with ethUp := 1 } }
def withPorts (s : State) : State := { s with mem := [(258, 2), (263, 1), (272, 2)] }
def withPid (s : State) : State := { s with parts := [(0, { getPart s 0 with pid := 4096 })] }
theorem wit_Collectives_coll : at_ (.coll (.ext { fn := 7, ty := 4, a := 936, b := 808, c := 816 })) ts (fun x =>
    let c := collRec (recWords x x.r.b 4).1
    !(enLanes x).isEmpty && !c.mbz && decide (c.me < c.n) && (uC x).1 % 16 == 0 && padIn x.b (c.stage : Int) 73728 && padIn x.b (((uC x).1 % 2 ^ 32 : Nat) : Int) 16) = true := by decide
def jobRead (x : Ctx) (p : Nat → State → Bool) : Bool := match readAtIssue x .nt (uB x).1 64 with | (.ok v, u) => p v u | _ => false
def cj : Instr := .cmpj (el 0 800 0 0 1023 0 256)
/-- No ports; ports up without a partition identifier; both; a refused record; 64 open jobs. -/
theorem wit_Collectives_cmpj :
    at_ cj tjob (fun x => jobRead x (fun v u => recRefused (jobRec v) (uB x).1 == none && (jobRec v).ports &&& u.fab.ethUp == 0)) = true ∧
    at_ cj (withPorts tjob) (fun x => jobRead x (fun v u => recRefused (jobRec v) (uB x).1 == none && (jobRec v).ports &&& u.fab.ethUp != 0 && !landauEn u x.part)) = true ∧
    at_ cj (withPid (withPorts tjob)) (fun x => jobRead x (fun v u => recRefused (jobRec v) (uB x).1 == none && (jobRec v).ports &&& u.fab.ethUp != 0 && landauEn u x.part)) = true ∧
    at_ cj ts (fun x => jobRead x (fun v u => (recRefused (jobRec v) (uB x).1).isSome && decide ((openJobs (getPart u x.part)).length < 64))) = true := by decide
theorem wit_Collectives_full : at_ cj { tjob with parts := [(0, { getPart tjob 0 with jobs := (List.range 64).map (fun h => { handle := h, gid := 0, oid := h, pc := 0, record := 0 }) })] }
    (fun x => jobRead x (fun _ u => decide (64 ≤ (openJobs (getPart u x.part)).length))) = true := by decide
/-- A queued job, one that runs, one that is done, and none. -/
def tcmpq (j : List Job) : State := { ts with parts := [(0, { getPart ts 0 with jobs := j })], ops := j.map (fun j => { oid := j.oid, gid := 0, bid := 0, part := 0, seq := 0, path := .nt, pc := 4096, kind := .job 0 j.handle }) }
theorem wit_Collectives_cmpq : ∀ fn ∈ [(0 : BitVec 4), 1], ∀ j ∈ [[], [({ handle := 0, gid := 0, oid := 0, pc := 0, record := 0 } : Job)],
      [{ handle := 0, gid := 0, oid := 0, pc := 0, record := 0, phase := 1 }], [{ handle := 0, gid := 0, oid := 0, pc := 0, record := 0, phase := 4 }]],
    at_ (.cmpq (el fn 800 0 0 1023 0 0)) (tcmpq j) (fun x => !(enLanes x).isEmpty && (getJob x.s x.part 0).isSome == !j.isEmpty && j.all (fun j => (findOp x.s j.oid).isSome && j.running == (j.phase == 1))) = true := by
  decide

/-! The hypotheses of the statements about events are met, clause by clause. -/

/-- An operation of the group, numbered 0, and the machine with it and an event's operands. -/
def op (kind : OpKind) (path : Path) (accs : List Access) : Op := { oid := 0, gid := 0, bid := 0, part := 0, seq := 0, path := path, pc := 4096, kind := kind, accs := accs }
def acc1 (pa n : Nat) : Access := { lane := 0, va := pa, n := n, pieces := [{ pa := pa, n := n, off := 0, kind := .rc }], st := [.todo], data := 5 }
def tev (a b c : Nat) (s : State) : State := { s with ev := { s.ev with a := a, b := b, c := c } }
def top (o : Op) (a b c : Nat) : State := tev a b c { ts with ops := [o] }
def on (s : State) : Bool := s.boot.powerOff == false
def isOkE {α β : Type} (r : Except α β) : Bool := match r with | .ok _ => true | .error _ => false

/-- The operation that the event names. -/
def here (s : State) (p : Op → Bool) : Bool := match findOp s s.ev.a with | some o => on s && p o | none => false
def ldOp (st : AccSt) : Op := op (.load 4 1 1 false) .ld [{ acc1 256 4 with st := [st] }]
/-- A load's lane, present and on an uncorrectable line; and one that has its value already. -/
theorem wit_AccessReturns_load : (∀ bad ∈ [[], [(2, true)]], (let s := evicted { top (ldOp .todo) 0 0 0 with lineErr := bad }
    here s (fun o => match openAcc o s.ev.b with
      | some (k, a) => !a.pad && o.isLoad && a.st.any (fun t => t != .got && t != .done) && matesMay s o (matesOf o k) &&
          (matesOf o k).all (fun m => partsReady s o (opCore s o) m.2) && (isOkE (readTogether s o (matesOf o k)).1 == bad.isEmpty)
      | none => false) = true)) ∧
    (let s := evicted (top (ldOp .got) 0 0 0)
     here s (fun o => match openAcc o s.ev.b with | some (_, a) => !a.pad && o.isLoad && a.st.all (fun t => t == .got || t == .done) | none => false) = true) := by decide
theorem wit_AccessReturns_part : (let s := evicted (top (ldOp .todo) 0 0 1)
    here s (fun o => match openAcc o s.ev.b with
      | some (k, a) => s.ev.c != 0 && a.st.any (fun t => t != .got && t != .done) && (match a.rest.pieces[s.ev.c - 1]? with | some p => (readOnePart s o k p).isSome | none => false)
      | none => false) = true) := by decide
theorem wit_AccessReturns_atomic : (let s := evicted (top (op (.atomic 0 1 (some (4, 1)) false) .ld [acc1 256 4]) 0 0 0)
    here s (fun o => match openAcc o s.ev.b with
      | some (k, a) => mayPerform s o a && !a.pad && (memAtom s o k a true).isSome
      | none => false) = true) := by decide
/-- The TLB entry that the event lists is evicted before. -/
theorem wit_AccessReturns_evicts : (let s := { top (ldOp .todo) 0 0 0 with ev := { a := 0, xs := [0] } }
    s.tlb.length = 1 ∧ (evicted s).tlb = []) := by decide
theorem wit_AccessReturns_far : (let s0 := top (op (.atomic 0 1 (some (4, 1)) false) .ld [acc1 256 4]) 0 0 0
    let s := { s0 with boot := { s0.boot with devstat := 2 }, dir := [(2, { pred := 3 })] }
    match findOp s s.ev.a with
    | some o => (match o.accs[s.ev.b]? with
      | some a => on s && a.isOpen && !a.pad && mayPerform s o a && (memAtom s o s.ev.b a false).isSome
      | none => false)
    | none => false) = true := by decide
/-- A store to a home, to a FAULTED region, and of a whole bad line. -/
theorem wit_AccessReturns_store : ∀ e ∈ [((256 : Nat), false), (2 ^ 49, true)], (let s := top (op .store .st [acc1 e.1 4]) 0 0 0
    here s (fun o => match o.accs[s.ev.b]? with
      | some a => (match a.pieces[s.ev.c]? with
        | some p => a.isOpen && !a.pad && o.kind == .store && !isRemote s p && a.st[s.ev.c]? == some .todo && !lineBad s p.pa &&
            (partsWith s o s.ev.b s.ev.c p).all (fun e => match o.accs[e.1]? with | some b => b.pieces[e.2]?.any (fun q => mayPerform s (o.without (partsWith s o s.ev.b s.ev.c p)) (b.part q)) | none => false) &&
            inFaulted s p.pa == e.2
        | none => false)
      | none => false) = true) := by decide
theorem wit_AccessReturns_update : (let u : Upd := { oid := 3, core := 1, pa := 256, bytes := [1, 2, 3, 4] }
    let s := tev 3 1 256 { ts with updates := [u] }
    on s && s.updates.find? (fun u => u.core == s.ev.b && lineOf u.pa == lineOf s.ev.c) == some u && u.oid == s.ev.a && u.pa == s.ev.c) = true ∧
    (let s := top (op .store .st [{ acc1 256 4 with st := [.done] }]) 0 0 0
     match findOp s s.ev.a with | some o => on s && storeReady s o | none => false) = true := by decide

theorem wit_Lines : (let s := top (op (.load 4 1 1 false) .ld [acc1 256 4]) 0 2 1
    on s && lineWanted s s.ev.a s.ev.b && !updInFlight s s.ev.a s.ev.b && l1Takes s s.ev.b &&
      !inFaulted s (s.ev.b * 128)) = true ∧
    (let s := { top (op (.load 4 1 1 false) .ld [acc1 256 4]) 2 0 0 with dir := [(2, { owner := some 7 })] }
     s.ops.all (fun o => !o.isAtomic) && on s && (dirOf s s.ev.a).owner == some 7 && s.ops.any (fun o => opCore s o != 7 && o.accs.any (fun a => a.isOpen && a.pieces.any (fun p => lineOf p.pa == s.ev.a)))) = true ∧
    (let s := { top (op (.atomic 0 1 (some (4, 1)) false) .ld [acc1 256 4]) 2 0 0 with dir := [(2, { owner := some 7 })] }
     on s && s.ops.any (fun o => o.isAtomic && opCore s o != 7)) = true ∧
    (∀ xs ∈ [[1], [1, 2]], (let s0 := tev 2 0 0 ts
     let s := { s0 with ev := { s0.ev with xs := xs } }
     on s && (partOfLine s (s.ev.a * 128)).isSome) = true) := by decide
theorem wit_Translations : (let s := tev 0 1 0 ts
    on s && (getPart s s.ev.a).present) = true ∧
    (let s := tev 0 0 0 { ts with parts := [(0, { getPart ts 0 with tlbInv := [(1, some 0)] })] }
     on s && (getPart s s.ev.a).tlbInv == [(1, some 0)] && !tlbBusy s s.ev.a (tlbRange 1)) = true ∧
    (∀ k ∈ [OpKind.xlt 930 0, .cache 0 [(256, 128)] false, .cache 1 [(256, 128)] true], (let s := top (op k .sv []) 0 0 0
     match findOp s s.ev.a with | some o => on s && xfenceOk s o && !rangeBusy s o [(256, 128)] && o.kind == k | none => false) = true) := by decide

/-- In the host's cache over a link that carries it, and not: over one that does not, or outside the window. -/
theorem wit_HostSide : (∀ f ∈ [false, true], ∀ links ∈ [[], [(0, 1)]], ∀ b ∈ [0, 1], (let s0 := tev 256 8 5 { ts with hostWinBase := b, hostWinSize := 1, hostLinks := links }
    let s := { s0 with ev := { s0.ev with flag := f } }
    on s && hostSpan s.ev.a s.ev.b && s.ev.flag == f && (hostCaches s s.ev.a == (b == 1 && links.isEmpty)) && (hostHas s (hostAt s s.ev.a)).isNone &&
      !lineBad s (hostAt s s.ev.a) && !inReserved s.ev.a && (decide (linkMode s (s.ev.who.getD 0) < 2) == !links.isEmpty)) = true) ∧
    (∀ bad ∈ [[], [(2, true)]], (let s := { tev 256 8 5 ts with lineErr := bad }
     let t := l2Mend (recallOwner s (lineOf (hostAt s 256)) none) (lineOf (hostAt s 256))
     lineBad t (hostAt s 256) = !bad.isEmpty)) ∧
    (let s := tev 256 8 5 { ts with hostWinBase := 1, hostWinSize := 1, hostHalf := [(4, { pa := 256, dirty := some 0 })] }
     (hostHas s (hostAt s s.ev.a)).isSome = true) ∧
    (let s := tev 1 0 0 ts
     on s && !bit s.hostWinBase 0) = true ∧
    (let s := tev (2 ^ 49) 0 0 ts
     on s && (match paKind s (s.ev.a / 64 * 64) with | .pooled _ => true | _ => false)) = true := by decide

theorem wit_Banks : (∀ v ∈ [0x204, 0x284], (let s := tev 0 v 0 ts
    on s && bit s.ev.b 9 && coreOwned s s.ev.a && (bit s.ev.b 7 == (v == 0x284))) = true) ∧
    (∀ t ∈ [0, 4], ∀ st ∈ [1, 2], (let s := tev 0 9 0 { ts with cores := [(0, { banks := [(9, { mode := 1, state := st, target := t })] })] }
     let bk := getBank (getCore s s.ev.a) s.ev.b
     on s && bk.state == st && bk.target == t) = true) ∧
    (∀ w ∈ [0, 15], (let s := tev 0 w 0 ts
     let v := waysOf s s.ev.a
     on s && sliceOwned s s.ev.a && bit v s.ev.b && bit v (16 + s.ev.b) && !bit v (32 + s.ev.b)) = true) ∧
    (∀ w ∈ [0, 15], (let s := tev 0 w 0 (setWays 0 (0xFFFFFFFF - 2 ^ w - 2 ^ (16 + w)) ts)
     on s && sliceOwned s s.ev.a && !bit (waysOf s s.ev.a) s.ev.b) = true) ∧
    (let s := tev 0 3 0 (setWays 0 (0xFFFFFFFF - 2 ^ 3 - 2 ^ 19 + 2 ^ 35) ts)
     on s && bit (waysOf s s.ev.a) (32 + s.ev.b)) = true ∧
    (let s := tev 0 3 0 (setWays 0 (0xFFFFFFFF - 2 ^ 19) ts)
     on s && bit (waysOf s s.ev.a) s.ev.b && !bit (waysOf s s.ev.a) (16 + s.ev.b) && !bit (waysOf s s.ev.a) (32 + s.ev.b)) = true := by decide

/-- A group that waits, its slot's time at 16 and the PTP time at 9. -/
def twait (w : Wait) : State := { withG { tg with wait := w } with idle := 16, ptp := { ts.ptp with ns := 9 } }
theorem wit_GroupEvents : (on (twait (.yield 0)) && on (twait (.twait 9)) && decide (0 + 16 ≤ slotTime (twait (.yield 0)) tg) && decide (9 ≤ (twait (.twait 9)).ptp.ns % 2 ^ 64)) = true ∧
    (let s := withG { tg with wait := .rfree 3, pend := [] }
     on s && isResident ((getBlock s 0).getD tb) && (getBlock s 0).isSome) = true ∧
    (let s := withG { tg with live := 0 }
     on s && (mfind s.ev.a s.groups).isSome && !((mfind s.ev.a s.groups).getD tg).retired && !hasLive ((mfind s.ev.a s.groups).getD tg) && s.ops.all (fun o => o.gid != 0)) = true ∧
    (let s := withG { tg with active := false }
     on s && (nextIssue s { tg with active := false }).isSome && decide ((activeReady s 0 tg.slot).length < 4)) = true := by decide
/-- A group of core 0 waits for one register more; then for more than are free, since 16,384 cycles. -/
def tralloc (k t : Nat) : State :=
  { withG { tg with k := k, wait := .ralloc t } with cores := [(0, { waiters := [(0, t)] })], cycle := 16384 }
theorem wit_GroupEvents_ralloc : (on (tralloc 1 2) && (match oldestWaiter (tralloc 1 2) 0 with | some (g, t) => decide (t - g.k ≤ freeRegs (tralloc 1 2) 0) && (coopMoves (tralloc 1 2) (partOf (tralloc 1 2) g)).isEmpty | none => false)) = true ∧
    (let s0 := tralloc 1 24
     let s := { s0 with groups := s0.groups ++ (List.range 5).map (fun k => (k + 1, { tg with gid := k + 1, num := k + 1, k := 24 })), blocks := [(0, { tb with groups := List.range 6 })] }
     match oldestWaiter s 0 with
     | some (g, t) => on s && decide (freeRegs s 0 < t - g.k) && decide ((getCore s 0).lastReturn + 16384 ≤ s.cycle) &&
         (residents s 0).all (fun r => r.place != .draining .spill) && (spillBlock s 0).isSome
     | none => false) = true := by decide

def tplace : State := { ts with parts := [(0, { getPart ts 0 with ctxpool := 2 ^ 52, qcfg := [(0, 1)] })], grids := [(0, { tgr with gx := 2, next := 1, lanes := 96, resident := 1 })] }
theorem wit_BlockEvents_place : (on tplace && (match distNext tplace tplace.ev.a with | .place gid _ => (getGrid tplace gid).isSome | _ => false)) = true := by decide
theorem wit_BlockEvents_rest : (let s := withB { tb with place := .draining .join }
    on s && (mfind s.ev.a s.blocks).isSome && s.ops.all (fun o => o.bid != 0)) = true ∧
    (let s0 := withB { tb with place := .saved .join }
     let s := { s0 with parts := [(0, { getPart ts 0 with restores := [0], ctxpool := 1 })] }
     on s && (match nextRestore s 0 with | some (b, _) => b == 0 | none => false) && !(getPart s 0).fatal) = true ∧
    (let s := { ts with parts := [(0, { getPart ts 0 with state := 3, nquads := 0 })] }
     on s && (getPart s 0).state == 3 && coreLeaves (getPart s 0) tb.core && tb.place == .resident && (residents s tb.core).all (fun r => r.place != .draining .shunt)) = true := by
  decide

/-- An outstanding operation of block 0 that is held by nothing. -/
def free (s : State) (p : Op → Block → Bool) : Bool :=
  match findOp s s.ev.a with
  | some o => (match getBlock s o.bid with | some b => on s && !o.finished && !engineHeld s o && p o b | none => false)
  | none => false

/-- Four bytes of one row from pad to pad; nothing; one row from pad to an unmapped page; 16 rows with a stride that leaves the pad. -/
def dWords (v : Nat) : List Nat := (List.range 12).map (fun k => bits v (32 * k) 32)
def dCopy : List Nat := dWords (4 * 2 ^ 128 + 0x30001 * 2 ^ 160)
def dFault : List Nat := dWords (2 ^ (64 + 40) + 4 * 2 ^ 128 + 0x10001 * 2 ^ 160)
theorem wit_EngineEvents_haul : (∀ k ∈ [OpKind.haul 0 dCopy 0 0 0, .haul 2 dCopy 0 0 7, .haul 0 (dWords 0) 0 0 0, .hrem (dWords 0) 0 0], (let s := top (op k .hl []) 0 0 0
      free s (fun o b => isHaul o && dataDone s o b && (haulTrouble s o b).1.isNone && hremFn o == 0) = true)) ∧
    (let s := top (op (.haul 0 dFault 0 0 0) .hl []) 0 0 0
     free s (fun o b => isHaul o && (haulTrouble s o b).1.isSome) = true) ∧
    (let s := top (op (.hrem (dWords 0) 1 5) .nt [{ acc1 256 8 with act := 3, st := [.done] }]) 0 0 0
     free s (fun o b => isHaul o && dataDone s o b && (haulTrouble s o b).1.isNone && o.accs.any (fun a => a.act == 3)) = true) := by decide
/-- Package 1 is a member and its memory is mapped at 0x10000 for the signal of an HREM that moves nothing. -/
def tpeer (o : Op) : State :=
  { top o 0 0 0 with
    fab := { ts.fab with members := [(0, 3)], ports := 1 }, parts := [(0, { getPart ts 0 with fdom := 3 })]
    tlb := [{ core := 0, part := 0, vpage := 0, log := 16, leaf := 0x7F, pte := 0 }, { core := 0, part := 0, vpage := 1, log := 16, leaf := 0x7F + (2 ^ 51 + 2 ^ 42), pte := 0 }] }
theorem wit_EngineEvents_signal : (let s := tpeer (op (.hrem (dWords (0x10000 * 2 ^ 320)) 1 5) .nt [])
    free s (fun o b => isHaul o && dataDone s o b && (haulTrouble s o b).1.isNone && hremFn o != 0 && o.accs.isEmpty && isOkE (signalAt s o).1) = true) := by decide
theorem wit_EngineEvents_gather : (let s := top (op (.gather 1 512) .ga [{ acc1 256 4 with act := 1 }]) 0 0 0
    free s (fun o b => isGather o && !farOpen s o && o.accs.all (fun a => (elemFault s o b a).isNone)) = true) ∧
    (let s := { top (op (.gather 1 512) .ga [{ acc1 256 4 with act := 1 }]) 0 0 0 with lineErr := [(2, true)] }
     free s (fun o b => isGather o && (o.accs.findSome? (elemFault s o b)).isSome) = true) := by decide
theorem wit_EngineEvents_nt : (let s := top (op .wsend .nt []) 0 0 0
    free s (fun o _ => o.kind == .wsend && !o.isOpen && o.accs.all (fun a => a.fkind == 0)) = true) ∧
    (let s := top (op .wsend .nt [{ acc1 0 64 with act := 5, st := [.done], fkind := 4, pieces := [] }]) 0 0 0
     free s (fun o _ => o.kind == .wsend && (wagonTrouble s o).isSome) = true) ∧
    (let s := top (op (.wrecv 48 [(0, 7)] []) .nt []) 0 0 0
     free s (fun o _ => o.kind == .wrecv 48 [(0, 7)] []) = true) ∧
    (∀ e ∈ [((256 : Nat), false), (2 ^ 49, true)], (let s := top (op (.hsig 0 5) .nt [{ acc1 e.1 8 with act := 2 }]) 0 0 0
     free s (fun o _ => (o.accs.head?.bind (fun a => a.pieces.head?)).map (fun p => (isFar s p, inFaulted s p.pa)) == some (false, e.2) &&
       o.accs.all (fun a => a.fkind == 0 && a.pieces.length == 1) && ((sigFault s o).isSome == e.2)) = true)) ∧
    (let s := tpeer (op (.hsig 0 5) .nt [{ acc1 (2 ^ 51 + 2 ^ 42) 8 with act := 2, st := [.done] }])
     free s (fun o _ => (o.accs.head?.bind (fun a => a.pieces.head?)).map (isFar s) == some true && !o.isOpen && o.accs.all (fun a => a.fkind == 0)) = true) := by decide
theorem wit_EngineEvents_trigger : (let e : Trig := { seq := 0, pc := 4096, desc := dCopy, fn := 0, ty := 0, off := 0, thr := 0, service := false, met := true }
    let s := withG { tg with trigq := [e] }
    on s && trigReady tb { e with met := false } && decide (getCnt tg .hl < 255) && !tg.retired && (getBlock s 0).map (fun b => b.place) == some .resident) = true := by decide

theorem wit_MatrixAndRender : (∀ c ∈ [0, 1], (let s := top (op (.mloop 0 (2 ^ 50 + 4) (2 ^ 50 + 4) 1 c false) .mx []) 0 0 0
      free s (fun o b => !tileHeld s o && !isHalted o b) = true)) ∧
    (let s := top (op (.tileOp 0 0 0 0 0 0 0 false []) .mx []) 0 0 0
     free s (fun o _ => !tileHeld s o) = true) ∧
    (∀ k ∈ [OpKind.rtrav 0 16 0 [], .texf 16 [0, 0, 0, 16, 0, 0, 0, 0] []], (let s := top (op k .ry []) 0 0 0
      free s (fun o _ => !o.isOpen && (renderNeeds (renderLanes s o).1).isEmpty) = true)) := by decide

/-- A packet of a peer, for fabric domain 3, which partition 0 has. -/
def tpkt (p : Packet) : State := { ts with fab := { ts.fab with ports := 1 }, ev := { ts.ev with p := p }, parts := [(0, { getPart ts 0 with fdom := 3, wchan := 1, chans := [(0, { core := 0, bank := 0, total := 5 })] })] }
def arrives (s : State) (k : Nat) : Bool := bit s.fab.ports s.ev.p.port && s.ev.p.kind == k && decide (k < 11) && s.ev.p.mbz == 0 && s.ev.p.dst == s.pkg
theorem wit_Requests : (∀ k ∈ [0, 2, 3, 6], ∀ d ∈ [2, 3], (let s := tpkt { kind := k, src := 1, fdom := d, offset := 256, mask := 0xFF }
      (on s && arrives s k && ((targetPart s s.ev.p).isSome == (d == 3))) = true)) ∧
    bit ts.fab.ports ts.ev.p.port = false ∧
    (∀ bad ∈ [[], [(2, true)]], (let s := { tpkt { kind := 0, src := 1, fdom := 3, offset := 256 } with lineErr := bad }
      ((homeRead (recallOwner s (lineOf (homePa s 0 256)) none) (homePa s 0 256) 128).1.isSome == bad.isEmpty) = true)) ∧
    (let s := tpkt { kind := 7, src := 1, fdom := 3 }
     (on s && arrives s 7 && (wagonOwner s s.ev.p.fdom none 0).isSome) = true) ∧
    (∀ r ∈ [0, 2 ^ 32], (let s := tpkt { kind := 8, src := 1, opnd := r }
      (on s && arrives s 8) = true)) := by decide
theorem wit_Answers : ∀ k ∈ [1, 4, 5], ∀ r ∈ [none, some 1, some 3], (let s0 := tpkt { kind := k, src := 1, tag := 9, refused := r.isSome, reason := r.getD 0 }
    let s := { s0 with ops := [op .store .st [acc1 (2 ^ 51 + 2 ^ 42) 4]], fab := { s0.fab with tags := [(9, 0, 0, 7)] } }
    (on s && arrives s k && !s.ev.p.echo && s.ev.p.refused == r.isSome && (mfind s.ev.p.tag s.fab.tags).isSome && (findOp (tookTag s) 0).isSome && (mfind s.ev.p.tag s.fab.mcWait).isNone) = true) := by
  decide

/-- Group 1 of the multicast table at 2^19: two entries, domain 3, 128 bytes at 0x1000, package 1 as the tree's only child. -/
def tmc (p : Packet) : State :=
  let b := 2 ^ 19 + 128
  { tpkt p with mem := [(b, 1), (b + 2, 3), (b + 9, 16), (b + 16, 128), (b + 64, 1), (b + 65, 2)], fab := { ts.fab with ports := 1, mctab := 2 ^ 19 + 1 } }
theorem wit_Multicast : (let s := tpkt { kind := 9, src := 1, group := 1 }
    (on s && arrives s 9 && (mcEntry s 1).isNone) = true) ∧
    (let s := tmc { kind := 9, src := 1, group := 1, fdom := 3 }
     (on s && arrives s 9 && (match mcEntry s 1 with
       | some e => e.fdom == 3 && !(ownsRange (getPart s 1) e.lbase e.lsize) && (s.parts.find? (fun q => q.2.fdom == 3 && decide (e.lsize ≠ 0) && ownsRange q.2 e.lbase e.lsize)).isSome && decide (128 ≤ e.lsize)
       | none => false)) = true) ∧
    (∀ p ∈ [({ kind := 9, src := 1, group := 1, fdom := 4 } : Packet), { kind := 9, src := 1, group := 1, fdom := 3, offset := 128 }, { kind := 9, src := 1, group := 1 }],
      (let s := tmc p
       (on s && arrives s 9 && (match mcEntry s 1 with | some e => (p.fdom != e.fdom) == (p.fdom != 3) && (decide (e.lsize < p.offset / 128 * 128 + 128) == (p.offset == 128)) | none => false)) = true)) ∧
    (let s := { tmc { kind := 9, src := 1, group := 1, fdom := 3 } with parts := [] }
     (on s && arrives s 9 && (mcEntry s 1).isSome && (s.parts.find? (fun q => q.2.fdom == 3)).isNone) = true) ∧
    (let s := tpkt { kind := 10, src := 1 }
     (on s && arrives s 10) = true) ∧
    (∀ src ∈ [0, 1], (let s := { ts with fab := { ts.fab with outbox := [{ kind := 9, src := src }] } }
     (on s && (s.fab.outbox[s.ev.a]?).map (fun c => (c.kind, c.src)) == some (9, src) && s.pkg == 0) = true)) ∧
    (∀ c ∈ [0, 3], (let s := tev 1 c 0 { ts with fab := { ts.fab with rates := [(4 + c, 255)] } }
     (on s && decide (rateOf s 1 c = 255) && (mfind (2 * (4 + c)) s.fab.marks).isNone) = true)) := by decide

/-- The registers at their ends; a port, and a link behind a switch, down and up; a package that no port has reached since reset, 1 ms ago. -/
theorem wit_Fabric : (on (tev 0 3 0 ts) && on (tev 7 3 0 ts)) = true ∧
    (∀ p ∈ [0, 63], ∀ up ∈ [false, true], ∀ f ∈ [false, true], ∀ cut ∈ [[], [(p * 512 + 511, 5)]],
      (let s0 := tev p 511 0 { ts with fab := { ts.fab with ports := if up then 2 ^ p else 0, cut := cut } }
       let s := { s0 with ev := { s0.ev with flag := f } }
       on s && s.ev.flag == f && bit s.fab.ports s.ev.a == up && (mfind (s.ev.a * 512 + s.ev.b) s.fab.cut).isSome == !cut.isEmpty) = true) ∧
    (∀ v ∈ [48, 0x830, 49], (let w := v % 2 ^ 18
     (decide (bits w 0 6 + bits w 6 6 + bits w 12 6 ≤ 48) == (v == 48)) = true)) := by decide
theorem wit_Fabric_lost : ∀ q ∈ [1, 511], (let s := tev q 0 0 { ts with cycle := 2100000 }
    on s && s.ev.a != s.pkg && !bit s.fab.unreach s.ev.a &&
      (List.range 64).all (fun p => match lostSince s p s.ev.a with | some t => decide (t + usCycles s 1000 ≤ s.cycle) | none => false)) = true := by decide
/-- Both sides of a package that is reached again: a port is up, or none. -/
theorem wit_Fabric_again : ∀ ports ∈ [0, 1], (let s := { ts with fab := { ts.fab with ports := ports, unreach := 2 } }
    bit s.fab.unreach 1 = true ∧ (upPorts s 1 = [] ↔ ports = 0)) := by decide
/-- A region that is not ONLINE, that leaves ONLINE by a table of zeros, and that stays so. -/
theorem wit_Pool : (∀ l ∈ [0, 3], (let s := tev l 0 0 ts
      (on s && !bit s.pool.fstat l) = true)) ∧
    (∀ r ∈ [0, 1], ∀ es ∈ [[], [(r, 4)]], (let s := tev r 0 0 { ts with pool := { ts.pool with rtab := 2, entries := es } }
      let s1 := { s with pool := { s.pool with entries := minsert r (tableEntry s r) es } }
      (on s && decide (s.ev.a < bits s.pool.rtab 0 20) && (regionState s r == 1) == !es.isEmpty && regionState s1 r != 1) = true)) ∧
    (let s := tev 0 0 0 { ts with pool := { ts.pool with rtab := 2, fstat := 1, entries := [(0, 4)] }, mem := [(0, 4)] }
     regionState s 0 = 1 ∧ regionState { s with pool := { s.pool with entries := minsert 0 (tableEntry s 0) s.pool.entries } } 0 = 1) ∧
    (let s := tev 2 0 0 { ts with pool := { ts.pool with fstat := 4, rtab := 1, entries := [(0, 6)] }, ops := [op .store .st [acc1 (2 ^ 49) 4]] }
     (on s && (onLinkLoss s).isSome && linkServes s s.ev.a) = true) := by decide

/-- A Landau job of two ranks in slot 0 with its operation. -/
def tland (j : Job) (m : UetMsg) : State := { tcmpq [j] with ev := { ts.ev with m := m } }
def j0 : Job := { handle := 0, gid := 0, oid := 0, pc := 0, record := 2 * 2 ^ 16 }
def m0 : UetMsg := { nranks := 2 }
/-- A queued job with its turn at the compositor, which a message of its kind, or of another, has reached. -/
theorem wit_Network_start : ∀ n ∈ [2, 3], (let s := tland { j0 with got := [{ m0 with nranks := n }] } m0
    on s && jobTurn s == some s.ev.a && (match nextJob s s.ev.a with | some (_, j) => j.got.all (fun m => mismatched (jobRec j.record) m == (n == 3)) | none => false)) = true := by decide
/-- A message for a job that waits, for one that runs, and of another kind for one that runs; a job that waits too long. -/
theorem wit_Network_jobs : (∀ e ∈ [((0 : Nat), (2 : Nat)), (2, 2), (2, 3)], (let s0 := tland { j0 with phase := e.1 } { m0 with nranks := e.2 }
     let s := { s0 with parts := [(0, { getPart s0 0 with pid := 4096 })] }
     on s && servesPid s s.ev.m.pid == some 0 && (match (getPart s 0).jobs.find? (fun j => !j.ended && (jobRec j.record).jtag % 2 ^ 24 == s.ev.m.jobId) with
       | some j => s.ev.m.dst == (jobRec j.record).rank && j.running == (e.1 == 2) && (findOp s j.oid).isSome && mismatched (jobRec j.record) s.ev.m == (e.2 == 3)
       | none => false)) = true) ∧
    (let j := { j0 with phase := 2, begun := true }
     let s := { tland j m0 with cycle := 2 ^ 40, ptp := { ts.ptp with ns := 2 ^ 40 } }
     on s && (match runningJob s 0 with | some (_, j) => j.phase == 2 && j.begun && waited250ms s j.since | none => false)) = true := by decide
/-- A collective whose staging is met: a rank that lacks a child, its half come whole; one of one rank, which waits for nothing. -/
def tcoll (n me : Nat) (got up : List (Nat × List Nat)) : State := top (op (.coll 0 7 0 (dWords ((n - 1) * 2 ^ 64 + me * 2 ^ 73)) (List.replicate n 0) got up) .nt []) 0 0 0
def collOf (o : Op) : Option (CollRec × List Nat) := match o.kind with | .coll _ _ _ ws ranks _ _ => some (collRec ws, ranks) | _ => none
theorem wit_Network_coll : (∃ me ∈ [0, 1, 2], ∃ q ∈ [0, 1, 2, 3], (let s0 := tcoll 3 me [] []
    let s := { s0 with ev := { s0.ev with b := q, xs := List.replicate 4608 0 } }
    free s (fun o _ => !tileHeld s o && lacksChild s.ev.b o && !(collAhead s o (lacksChild s.ev.b)) &&
      (match collOf o with | some (r, ranks) => s.ev.c == r.tag && ranks[r.me]? == some s.pkg | none => false)) = true)) ∧
    (∀ touched ∈ [false, true], (let s0 := tcoll 1 0 [] [(0, []), (1, [])]
     let s := { s0 with ops := s0.ops.map (fun o => { o with poisoned := touched }) }
     free s (fun o _ => !tileHeld s o && o.poisoned == touched && (collParent 1 0 0).isNone && (collParent 1 1 0).isNone && !(collAhead s o (fun _ => true)) &&
       (match collOf o with | some (r, ranks) => r.n == 1 && r.me == 0 && ranks[r.me]? == some s.pkg | none => false)) = true)) := by decide
theorem wit_Network_xs : (List.replicate 4608 0).length = 4608 := List.length_replicate
/-- The messages of both mechanisms, on port 0 and domain 0; offsets at both sides of 20 ns and of 1 µs; PTP_CFG as it is, changed and disabled. -/
def tptp (cfg : Nat) (x : PtpExch) (m : PtpMsg) : State := { ts with ptp := { ts.ptp with cfg := cfg, exch := x }, ev := { ts.ev with t := m } }
theorem wit_Clock : (let s := tptp 0x10 {} { port := 7, kind := 4 }
     on s && s.ev.t.kind == 4 && bit s.ptp.cfg 4) = true ∧
    (∀ k ∈ [0, 3], (let s := tptp 1 { syncAt := some (5, 0), origin := some 3, reqAt := some 4 } { kind := k }
     on s && bit s.ptp.cfg 0 && s.ev.t.port == bits s.ptp.cfg 1 3 && s.ev.t.domain == bits s.ptp.cfg 5 8 && s.ev.t.kind == k && !s.ev.t.two &&
       s.ptp.exch.syncAt == some (5, 0) && s.ptp.exch.origin == some 3 && s.ptp.exch.reqAt == some 4) = true) ∧
    (∀ off ∈ [(0 : Int), 20, -20, 1000, -1000], off.natAbs ≤ 1000) ∧ (1000 < (1001 : Int).natAbs ∧ 1000 < (-1001 : Int).natAbs) ∧
    (∀ v ∈ [1, 3, 0], (on (tev v 0 0 { ts with ptp := { ts.ptp with cfg := 1 } }) && (decide (v / 2 = 0 ∧ bit v 0 = true) == (v == 1))) = true) := by decide

/-- Queue 0 with its head record at address 0 and the first GiB mapped by a page table at 0x10000; a kernel of one register block at 0x20000. -/
def tqueue (rec : List Host.Cell) : State :=
  { ts with
    grids := [], groups := [], blocks := [], mem := rec ++ [(0x10000, 1), (0x10001, 0x10), (0x10002, 1), (0x11000, 1), (0x11001, 0x20), (0x11002, 1), (0x12000, 0x7F), (0x20008, 1), (0x20009, 1)]
    parts := [(0, { getPart ts 0 with ctxpool := 2 ^ 52, qcfg := [(0, 1)], qtail := [(0, 1)], transRoot := 0x10001 })] }
def launchBytes : List Host.Cell := [(2, 2), (16, 1), (20, 1), (24, 1), (28, 1)]
def startsWith (s : State) (g : Bool) : Bool := match distNext s 0 with | .start q h _ => q == 0 && h == g | _ => false
/-- A launch, a record refused for a zero field, a graph record, a token record. -/
theorem wit_Queue_records : (on (tqueue launchBytes) && startsWith (tqueue launchBytes) false) = true ∧ startsWith (tqueue [(61, 1)]) false = true ∧
    startsWith (tqueue [(30, 32)]) true = true ∧
    (match headOf (tqueue []) 0 0 with
     | some (_, some r) => r.token && !r.bad && waitHolds (tqueue []) 0 r && decide (r.params ≤ (tqueue []).ptp.ns) && (queueGrid (tqueue []) 0 0).isNone
     | _ => false) = true := by decide
/-- A replay of one node, which launches that kernel. -/
def trun : GraphRun := { rid := 0, part := 0, queue := 0, order := 0, cls := none, obj := 4096, gen := 0, genAddr := 0, status := 0, sigTok := none, dl := none
                         preds := [0], nodes := [0x20000 + 2 ^ 128 + 2 ^ 160 + 2 ^ 192 + 2 ^ 224] }
theorem wit_Queue_node : (on { tqueue [] with runs := [(0, trun)] } && readyNode trun == some 0 &&
    (let l := launchRec (trun.nodes.getD 0 0)
     !l.bad && !l.coop && (launchGrid { tqueue [] with runs := [(0, trun)] } 0 l).1.isSome)) = true := by decide
theorem wit_Queue_registers : (on (tev 0 0 0 ts) && on (tev 0 63 0 ts) && on (tev 0 255 0 ts) && (getPart ts 0).present) = true := by decide

theorem wit_Resize : (∀ p ∈ [0, 39], (let s := tev p 0 0 ts
      on s = true)) ∧
    (∀ st ∈ [1, 2, 4, 5, 6], (let s := tev 0 0 1 { ts with parts := [(0, { getPart ts 0 with state := st, quads := 3, slices := 3, nslices := 1, oldSlices := 3, chgrps := 2, nquads := 1, evacPending := [(1, 2)] })] }
      (on s && (getPart s 0).state == st && (heldLines s 0).all (fun l => !mustMove (getPart s 0) l) && bit (getPart s 0).quads 1 && !bit (getPart s 0).nquads 1 &&
        bit (getPart s 0).slices 1 && !bit (getPart s 0).nslices 1 &&
        bit (getPart s 0).chgrps 1 && !bit (getPart s 0).nchgrps 1 && !groupBusy s 1) = true)) := by decide
/-- Lines 0 to 15 are held; some of them must move from slice 0 to the slices 0 and 1. -/
def tsweep : State := { ts with dir := (List.range 16).map (fun k => (k, {})), parts := [(0, { getPart ts 0 with state := 4, slices := 3, oldSlices := 1, nslices := 3 })] }
theorem wit_Resize_sweep : (on tsweep && (getPart tsweep 0).state == 4 && (List.range 16).any (fun l => (heldLines tsweep 0).contains l && mustMove (getPart tsweep 0) l)) = true := by decide

def mailbox : List Instr := [.imgChunk, .imgRun, .imgFlash, .cfgWrite, .testEnter, .pwrLimit, .dumpRelease, .identity, .keySet, .keyClear, .loadPolicy, .loadContainer, .quote]
/-- Every command in a mode that permits it and one that does not. -/
def tmbx (devstat code : Nat) : State := { ts with boot := { ts.boot with devstat := devstat, mbxCmd := code, mbxStat := 1 } }
theorem wit_Mailbox : (∀ e ∈ (List.range 13).zip mailbox, ∀ m ∈ [0, 2, 4, 14 * 16, 15 * 16], (let s := tmbx m (e.1 + 1)
      (on s && mbxBusy s && (match mailboxRow s e.2 with | some (c, _, _) => s.boot.mbxCmd == c | none => false)) = true)) ∧
    (∀ c ∈ [0, 14], (on (tmbx 0 c) && mbxBusy (tmbx 0 c) && (c == 0 || decide (13 < c))) = true) := by decide

theorem wit_Package : (on ts && on { ts with ev := { ts.ev with who := some 0 } } && bit 2 1 && coreOwned ts 0) = true ∧
    (let s := tev 5001 0 0 ts
     on s && decide (bits s.boot.pwrStat 16 16 < s.ev.a) && decide (1050 < bits s.boot.pwrStat 32 12)) = true ∧
    (let s := { ts with vfs := [(3, 0)], parts := [(0, { getPart ts 0 with qcfg := [(1, 0x31)] })] }
     mfind 3 s.vfs = some 0 ∧ (getPart s 0).present = true ∧ queueVf (getPart s 0) 0 ≠ 3 ∧ queueVf (getPart s 0) 1 = 3) ∧
    (let s := { tev 5001 0 0 ts with boot := { ts.boot with pwrStat := 5000 * 65536 + 1050 * 2 ^ 32 } }
     on s && decide (bits s.boot.pwrStat 16 16 < s.ev.a) && decide (bits s.boot.pwrStat 32 12 ≤ 1050)) = true := by decide

/-! The decoder, the step and the memory. -/

theorem wit_DecodeOfEncode : ∀ i ∈ [Instr.iadd 0 7 5 3, .reservedMajorOpcode 0x3FC, .imad (e 0 9 0 1 2 3), .svc (.ext { a := 5 })], i.isWord = true ∧ i.canonical = true := by
  decide
theorem wit_EncodeOfDecode : (decode [0x00, 0x0C, 0x0A, 0x07]).toOption = some (.iadd 0 7 5 3, 4) ∧ (decode [1, 2, 3]).toOption = none := by decide

/-- The group's turn at IADD, which is at 4096; at an unmapped page; with no live lane. -/
def tturn (pc : Nat) (live : LaneMask) : State :=
  { withG { tg with upc := (List.range 96).map (fun l => (l, pc)), live := live } with agenda := [.issue 0], mem := [(4097, 0x0C), (4098, 0x0A), (4099, 0x07)] }
/-- Its word at 4096, the fetch fault elsewhere; nothing for it where a lane is missing or another group of its slot comes first. -/
def chosen (s : State) : Option (Group × Pick) := chosenIssue { s with agenda := [] } (readyGroups { s with agenda := [] }) 0
def okPick (p : Pick) : Bool := match p.got with | .ok _ => true | .error _ => false
theorem wit_StepIssuesDecoded : ((chosen (tturn 4096 3)).map (fun e => (e.2.pc, e.2.lanes, okPick e.2))) = some (4096, [0, 1], true) ∧
    ((chosen (tturn 0x1000000 3)).map (fun e => okPick e.2)) = some false ∧ (chosen (tturn 4096 0)).isNone = true ∧
    (chosen { tturn 4096 3 with groups := [(0, { tg with upc := (List.range 96).map (fun l => (l, 4096)), live := 3, lastIssue := 9 }),
      (1, { tg with gid := 1, upc := (List.range 96).map (fun l => (l, 4096)), live := 3 })], idle := 40 }).isNone = true := by decide
theorem wit_StepTakesEvents : Instr.thermalTrip.isWord = false ∧ (Instr.nop 0).isWord = true ∧ (nextEvent (tturn 4096 0)).isSome = true ∧
    (nextEvent State.reset).isNone = true ∧ (nextGroup State.reset).isNone = true ∧ (nextEvent { tturn 4096 3 with agenda := [] }).isNone = true ∧
    (firstReady { tturn 4096 3 with agenda := [] } (readyGroups { tturn 4096 3 with agenda := [] })).map (fun e => (e.1.gid, e.1.active)) = some (0, true) ∧
    nextGroup { tturn 4096 3 with agenda := [] } = some 0 := by decide
theorem wit_MemoryStaysCanonical : Memory.wf (tturn 4096 3).mem ∧ (match step (tturn 4096 3) with | .next _ => true | _ => false) = true := by decide
/-- A byte inside, before and after; no two bytes of memory outside the pool stand in one place. -/
theorem wit_BytesWritten : (acc1 256 4).away = [] ∧ ts.hostHalf = [] ∧ lineBad ts 256 = false ∧ ts.l1 = [] ∧ ts.dray = [] ∧ mfind 0 ts.blocks = some tb ∧
    (∀ b ∈ [255, 256, 259, 260], ∀ i ∈ List.range 4, memKey ts b = memKey ts (256 + i) → b = 256 + i) := by decide

/-! Single steps whose results the spec writes out. -/

def laneRegs (g : Group) (rs : List (Nat × List Nat)) : Group := rs.foldl (fun g e => ((List.range e.2.length).zip e.2).foldl (fun g v => putReg g e.1 v.1 v.2) g) g
def after (i : Instr) (s : State) : Option Group := match exec i s with | .next t => mfind 0 t.groups | _ => none
def seen (i : Instr) (s : State) (code : Nat) (lanes : List Nat) : Option (List Nat) := (after i s).map (fun g => lanes.map (fun l => getReg g code l))

/-- spec/10, the table of MATCH before a scatter: the masks of v20 and the leaders of v25 in six lanes. -/
def tscatter : State := { withG (laneRegs tg [(4, [7, 3, 7, 7, 3, 9])]) with isu := { gid := 0, pc := 4096, mask := 63 } }
theorem test_match_mask : seen (.matchOp (e 0 20 13 0 4 0)) tscatter 20 [0, 1, 2, 3, 4, 5] = some [13, 18, 13, 13, 18, 32] := by decide
theorem test_match_first : seen (.matchOp (e 1 25 13 0 4 0)) tscatter 25 [0, 1, 2, 3, 4, 5] = some [0, 1, 0, 0, 1, 5] := by decide

/-- spec/10, four ways to take a minimum of 3.0, a NaN, −0 and +0. -/
def tmin : State := { withG (laneRegs tg [(4, [0x40400000, 0x7FC00000, 0x80000000, 0])]) with isu := { gid := 0, pc := 4096, mask := 15 } }
theorem test_redu_fmin : seen (.redu (e 7 768 4 0 4 0)) tmin 768 [0] = some [0x80000000] ∧ seen (.redu (e 8 768 4 0 4 0)) tmin 768 [0] = some [0x40400000] := by decide
theorem test_redu_min : seen (.redu (e 1 768 0 0 4 0)) tmin 768 [0] = some [0x80000000] ∧ seen (.redu (e 2 768 0 0 4 0)) tmin 768 [0] = some [0x7FC00000] := by decide
theorem test_fcmp_zeros : seen (.fcmpExt (e 0 6 4 4 5 0)) (withG (laneRegs tg [(4, [0x80000000, 0]), (5, [0, 0x80000000])])) 6 [0, 1] = some [1, 1] := by decide
/-- spec/06: BF16 values aligned to 12 planes share the scale −8. -/
theorem test_align : alignBlock ([0x40D0, 0xC030, 0x3BC0, 0x3C20].map (fval .bf16)) 12 = ([1664, -704, 2, 2], 0xF8) := by decide
/-- R119: a wide sum by its carry. -/
theorem test_iaddc : (seen (.iaddc (e 0 10 0 4 5 6)) (withG (laneRegs tg [(4, [0xFFFFFFFF]), (5, [1]), (6, [1])])) 10 [0], seen (.iaddc (e 0 10 0 4 5 6)) (withG (laneRegs tg [(4, [0xFFFFFFFF]), (5, [1]), (6, [1])])) 11 [0]) =
    (some [1], some [1]) := by decide
/-- R410, R413: SVC #5 enters the service routine at SVC_ENTRY with cause 21 and the code. -/
theorem test_svc : (after (.svc (.ext { a := 5 })) ts).map (fun g => (g.service, cget 0 0 g.spc, bits g.tr.cause 0 8, bits g.tr.cause 16 20, g.tr.pc, g.tr.lane0)) = some (true, 8192, 21, 5, 4096, 3) := by
  decide

end Sys2Proof.Tests
end

section
namespace Sys2Proof.Machine

/-- An instruction whose effect is reached only when its whole group stands at it parks its lanes until then. -/
theorem exec_park {i : Instr} {s : State} {x : Ctx} (hx : Issues i s x) (hg : Goes x) (hb : bodyOf i x = .park) :
    exec i s = .next (finishIssue x (setGroup { x.g with parkWide := x.g.parkWide ||| x.mask } s) { stay := x.mask }) := by
  rw [exec_body _ hx hg hx.exec, hb]

/-- The outcome that `EndsWith` names, for an instruction by its own effect. -/
theorem Issues.endsWith {i : Instr} {s : State} {x : Ctx} (hx : Issues i s x) (hg : Goes x) {s1 : State} {o : Out} (hb : bodyOf i x = .ok s1 o) :
    EndsWith i s x s1 o := endsWith_of _ hx hg hx.exec hb

/-- A group-wide instruction goes on to its effect where the whole group stands at it. -/
theorem groupWide_whole {x : Ctx} (hc : Calm x) (hw : WholeGroup x) (k : LaneMask → Res) : groupWide x k = k (parkedHere x) := by
  exact (groupWide_calm hc k).trans (if_pos hw)

/-- Elsewhere it parks. -/
theorem groupWide_park {x : Ctx} (hc : Calm x) (hw : ¬ WholeGroup x) (k : LaneMask → Res) : groupWide x k = .park := by
  exact (groupWide_calm hc k).trans (if_neg hw)

/-- EXIT's effect where nothing stands before it. -/
theorem bodyExit_calm {x : Ctx} (hc : Calm x) (hf : x.g.hfault = none) :
    bodyExit x =
      (let m := if x.g.service && !(enLanes x).isEmpty then x.g.live else maskOf (enLanes x)
       .ok (afterExit (setGroup (leaveAll { x.g with live := x.g.live &&& ~~~m, parkWide := x.g.parkWide &&& ~~~m, parkLoop := x.g.parkLoop &&& ~~~m } m) x.s) x.g.gid) {}) := by
  unfold bodyExit
  rw [haulFault_none hf]
  exact ctlPoison_clean x hc.clean _

/-- The trap of a word that a check of R71 refuses, at user level and at service level. -/
theorem wordTrap_outcome {i : Instr} {s : State} {x : Ctx} (hx : Issues i s x) {c : Cause} (ha : addrBreak x = none) (hc : wordTrap x = some c) :
    (x.g.service = false → ∃ t g', exec i s = .next t ∧ Traps x t c x.mask g') ∧
    (x.g.service = true → exec i s = .next (slotTick x.g (beatsOf x.mask) (partFatal (partOf s x.g) (coreOf s x.g) s))) := by
  have he := exec_wordTrap hx c ha hc
  refine ⟨fun hs => ?_, fun hs => ?_⟩
  · obtain ⟨g', ht, _⟩ := trapNow_spec x { cause := c, lanes := x.mask } hs
    exact ⟨_, g', he, ht⟩
  · rw [he, trapNow_double x _ hs, hx.st]

/-- A word whose major opcode the table reserves is refused as illegal. -/
theorem wordTrap_reservedMajorOpcode {w : BitVec 160} {s : State} {x : Ctx} (hx : Issues (.reservedMajorOpcode w) s x)
    (ho : opInfo (w.toNat / 4 % 256) = none) : wordTrap x = some .illegal := by
  have hr : rawReserved w.toNat = x.r := Option.some.inj hx.raw
  have hop : opInfo x.r.op = none := by rw [← hr]; exact ho
  simp [wordTrap, staticTrap, hop]

/-- BAR with fitting operands: its group arrives once it is whole. -/
theorem bodyBar_calm {x : Ctx} (hc : Calm x) (hf : x.g.hfault = none) (hn : (uB x).1 ≤ 15) (hm : (uC x).1 ≤ 32) :
    bodyBar x = groupWide x (fun also =>
      let bar := (mfind (uB x).1 x.b.bars).getD { count := (uC x).1, arrived := [] }
      if bar.count ≠ (uC x).1 then trapAll x .sync
      else
        let bar1 : Bar := { bar with
          arrived := bar.arrived ++ [x.g.gid]
          acq := if x.r.order = 3 then bar.acq ++ [(x.g.gid, x.r.scope)] else bar.acq
          toks := if x.r.order = 3 then joinToks bar.toks [tokOf x.s x.g.gid x.g.seq x.r.scope] else bar.toks }
        let s0 := if x.r.order = 3 then releaseDone x.s x.g.gid x.g.seq x.s.stamp x.r.scope else x.s
        .ok (barDone (setGroup { x.g with wait := .bar (uB x).1 } (modBlock x.b.bid (fun b => { b with bars := minsert (uB x).1 bar1 b.bars }) s0))
          x.b (uB x).1 bar1) { also := also }) := by
  unfold bodyBar
  rw [haulFault_none hf]
  have hr : ¬ (15 < (uB x).1 ∨ 32 < (uC x).1) := by omega
  simp only [hc.uB, hc.uC, Bool.or_false, ctlPoison_clean x hc.clean, hc.inReplay, Bool.false_eq_true, if_false, if_neg hr]

/-- JOIN outside a cooperative grid. -/
theorem bodyJoin_calm {x : Ctx} (hf : x.g.hfault = none) (hcoop : x.gr.coop = false) :
    bodyJoin x = groupWide x (fun also =>
      .ok (joinAgain (setGroup { x.g with wait := .join } (modBlock x.b.bid (fun b => { b with joined := b.joined ++ [x.g.gid] }) x.s)) x.b.bid)
        { also := also }) := by
  unfold bodyJoin
  rw [hcoop, haulFault_none hf]
  rfl

/-- RALLOC of a count that its group may have. -/
theorem bodyRalloc_calm {x : Ctx} (hc : Calm x) (h1 : 1 ≤ (uB x).1) (h2 : (uB x).1 ≤ 24) (h3 : x.gr.coop = true → (uB x).1 ≤ x.gr.regsMax)
    (h4 : x.g.k < (uB x).1 → x.gr.coop = false → blockRegs x.s x.b + ((uB x).1 - x.g.k) ≤ 128) :
    bodyRalloc x = groupWide x (fun also =>
      if (uB x).1 ≤ x.g.k then .ok x.s { also := also }
      else if x.gr.coop then .ok (setGroup (setAlloc (uB x).1 x.g) x.s) { also := also }
      else .ok (modCore x.b.core (fun c => { c with waiters := c.waiters ++ [(x.g.gid, (uB x).1)] })
        (setGroup { x.g with wait := .ralloc (uB x).1 } x.s)) { also := also }) := by
  have hr : ¬ ((uB x).1 = 0 ∨ 24 < (uB x).1) := by omega
  have hm : (x.gr.coop && decide (x.gr.regsMax < (uB x).1)) = false := by
    cases h : x.gr.coop
    · rfl
    · simpa using h3 h
  have hb : (!x.gr.coop && decide (x.g.k < (uB x).1) && decide (128 < blockRegs x.s x.b + ((uB x).1 - x.g.k))) = false := by
    cases h : x.gr.coop
    · by_cases hk : x.g.k < (uB x).1
      · simpa [hk] using h4 hk h
      · simp [hk]
    · rfl
  simp only [bodyRalloc, hc.uB, ctlPoison_clean x hc.clean, hc.inReplay, hm, hb, Bool.false_eq_true, if_false, if_neg hr]

/-- RFREE of a count within bounds. -/
theorem bodyRfree_calm {x : Ctx} (hc : Calm x) (h1 : 1 ≤ (uB x).1) (h2 : (uB x).1 ≤ 24) :
    bodyRfree x = groupWide x (fun also =>
      if x.g.k ≤ (uB x).1 then .ok x.s { also := also } else .ok (setGroup { x.g with wait := .rfree (uB x).1 } x.s) { also := also }) := by
  have hr : ¬ ((uB x).1 = 0 ∨ 24 < (uB x).1) := by omega
  simp only [bodyRfree, hc.uB, ctlPoison_clean x hc.clean, hc.inReplay, Bool.false_eq_true, if_false, if_neg hr]

theorem spawn_op {f : Form} {s : State} {x : Ctx} (hx : Issues (.spawn f) s x) : x.r.op = 0x73 := by
  have hr : rawOf 0x73 f = x.r := Option.some.inj hx.raw
  rw [← hr]
  cases f <;> rfl

/-- SPAWN outside a cooperative grid, at a depth below 10: it parks until its whole group stands at it. -/
theorem bodySpawn_park {x : Ctx} (hc : Calm x) (hw : ¬ WholeGroup x) (hcoop : x.gr.coop = false) (hd : x.gr.depth < 10) : bodySpawn x = .park := by
  have hn : ¬ 10 ≤ x.gr.depth := by omega
  simp only [bodySpawn, hcoop, hc.uB, ctlPoison_clean x hc.clean, Bool.false_eq_true, if_false, if_neg hn, groupWide_park hc hw]

/-- Then it launches the child grid of the record that it has read. -/
theorem bodySpawn_whole {x : Ctx} (hc : Calm x) (hw : WholeGroup x) (hcoop : x.gr.coop = false) (hd : x.gr.depth < 10) {v : Nat} {u : State}
    (hr : readAtIssue x .sv (uB x).1 64 = (.ok v, u)) :
    bodySpawn x =
      (let r := spawnGrid x (releaseDone u x.g.gid x.g.seq u.stamp 4) v
       .ok (notePre x.part (modGroup x.g.gid (fun g => writeDst x g x.r.d 1 0 r.1 false) (sweepOps (addOp r.2 (opOf x .sv .done)))))
         { also := parkedHere x }) := by
  have hn : ¬ 10 ≤ x.gr.depth := by omega
  simp only [bodySpawn, hcoop, hc.uB, ctlPoison_clean x hc.clean, Bool.false_eq_true, if_false, if_neg hn, groupWide_whole hc hw, hr]

/-- At depth 10 SPAWN takes its trap before it reads its record. -/
theorem bodySpawn_deep {x : Ctx} (hc : Calm x) (hcoop : x.gr.coop = false) (hd : 10 ≤ x.gr.depth) : bodySpawn x = trapAll x .spawnDepth := by
  simp only [bodySpawn, hcoop, hc.uB, ctlPoison_clean x hc.clean, Bool.false_eq_true, if_false, if_pos hd]

end Sys2Proof.Machine

namespace Sys2Proof.Settled
open Sys2Proof.Machine

/-- Settles O16: EXIT's own effect, which nothing stands before in a calm group. -/
theorem exitLeaves : Obligations.ExitLeaves := by
  intro i s x hi hx hg hc hf
  have hb : bodyOf i x = bodyExit x := by rcases hi with ⟨_, rfl⟩ | ⟨_, rfl⟩ <;> rfl
  obtain rfl := hx.st
  exact hx.endsWith hg (hb.trans (bodyExit_calm hc hf))

/-- Settles O18: the check's trap is all that the issue does. -/
theorem staticTraps : Obligations.StaticTraps := by
  refine ⟨fun i c s x hx ha hc => wordTrap_outcome hx ha hc, fun w s x hx ho ha hs => ?_⟩
  exact (wordTrap_outcome hx ha (wordTrap_reservedMajorOpcode hx ho)).1 hs

/-- Settles O22: each group-wide instruction is its effect under `groupWide`, which the whole group passes and a part of it parks at. -/
theorem groupWide : Obligations.GroupWide := by
  refine ⟨fun i s x hx hg hc hf hw => ?_, fun i s x hx hg hc hf hw => ?_⟩
  · obtain rfl := hx.st
    cases i
    case bar f =>
      intro n also hn hm bar bar1 s0 hcount
      refine hx.endsWith hg ((bodyBar_calm hc hf hn hm).trans ?_)
      rw [groupWide_whole hc hw]
      exact if_neg (fun hne => hne hcount)
    case joinOp f =>
      intro n also hcoop
      exact hx.endsWith hg ((bodyJoin_calm hf hcoop).trans (groupWide_whole hc hw _))
    case ralloc f =>
      intro n also h1 h2 h3
      have whole := fun h4 => (bodyRalloc_calm hc h1 h2 h3 h4).trans (groupWide_whole hc hw _)
      refine ⟨fun hk => ?_, fun hk hcoop => ?_, fun hk hcoop hr => ?_⟩
      · exact hx.endsWith hg ((whole (fun h => absurd hk (by omega))).trans (if_pos hk))
      · refine hx.endsWith hg ((whole (fun _ h => by simp [hcoop] at h)).trans ?_)
        rw [if_neg (by omega), if_pos hcoop]
      · refine hx.endsWith hg ((whole (fun _ _ => hr)).trans ?_)
        rw [if_neg (by omega), if_neg (by simp [hcoop])]
    case rfree f =>
      intro n also h1 h2
      have whole := (bodyRfree_calm hc h1 h2).trans (groupWide_whole hc hw _)
      exact ⟨fun hk => hx.endsWith hg (whole.trans (if_pos hk)), fun hk => hx.endsWith hg (whole.trans (if_neg (by omega)))⟩
    all_goals trivial
  · obtain rfl := hx.st
    cases i
    case bar f => exact fun h => exec_park hx hg ((bodyBar_calm hc hf h.1 h.2).trans (groupWide_park hc hw _))
    case joinOp f => exact fun h => exec_park hx hg ((bodyJoin_calm hf h).trans (groupWide_park hc hw _))
    case ralloc f => exact fun ⟨h1, h2, h3, h4⟩ => exec_park hx hg ((bodyRalloc_calm hc h1 h2 h3 h4).trans (groupWide_park hc hw _))
    case rfree f => exact fun h => exec_park hx hg ((bodyRfree_calm hc h.1 h.2).trans (groupWide_park hc hw _))
    case spawn f => exact fun h => exec_park hx hg (bodySpawn_park hc hw h.1 h.2)
    all_goals exact False.elim

/-- Settles O23: SPAWN's effect once its record is read, and its trap at depth 10. -/
theorem spawns : Obligations.Spawns := by
  intro f s x hx hg hc hcoop
  obtain rfl := hx.st
  refine ⟨fun hd hw v u hr => ?_, fun hd => ?_⟩
  · exact hx.endsWith hg (bodySpawn_whole hc hw hcoop hd hr)
  · have hs : x.g.service = false := by
      cases h : x.g.service
      · rfl
      · exact absurd (hg.level h) (by rw [spawn_op hx]; decide)
    obtain ⟨g', ht, _⟩ := trapNow_spec x { cause := .spawnDepth, lanes := x.mask } hs
    exact ⟨_, g', exec_trap hx hg _ (bodySpawn_deep hc hcoop hd), ht⟩


end Sys2Proof.Settled
end

section
namespace Sys2Proof.Machine

/-! Which lanes a group's next issue takes, and at which address (spec/01 R12). -/

/-- Each program counter that `pcGroups` lists stands with lanes, all of them live and at that address. -/
def LanesAt (g : Group) (c : Nat × List Nat) : Prop := c.2 ≠ [] ∧ ∀ l ∈ c.2, getPc g l = c.1 ∧ hasLane g.live l = true

theorem bit_eq_testBit (w i : Nat) : bit w i = w.testBit i := by
  rw [Nat.testBit_eq_decide_div_mod_eq, bit, Nat.shiftRight_eq_div_pow]
  rfl

theorem hasLane_eq_getLsbD (m : LaneMask) (l : Nat) : hasLane m l = m.getLsbD l := bit_eq_testBit _ _

theorem hasLane_and (m n : LaneMask) (l : Nat) : hasLane (m &&& n) l = (hasLane m l && hasLane n l) := by
  simp [hasLane_eq_getLsbD]

theorem candidates_live {g : Group} {l : Nat} (h : hasLane (candidates g) l = true) : hasLane g.live l = true := by
  unfold candidates at h
  split at h
  · exact h
  · simp only [hasLane_and, Bool.and_eq_true] at h
    exact h.1.1.1

/-- A value found in a table is listed there under its key. -/
theorem mem_of_mfind {α : Type} {k : Nat} {v : α} {m : List (Nat × α)} (h : mfind k m = some v) : (k, v) ∈ m := by
  induction m with
  | nil => cases h
  | cons e m ih =>
    obtain ⟨i, w⟩ := e
    simp only [mfind] at h
    split at h
    · rename_i hi; cases h; subst hi; simp
    · exact List.mem_cons_of_mem _ (ih h)

theorem pcGroups_lanesAt (g : Group) : ∀ c ∈ pcGroups g, LanesAt g c := by
  have key : ∀ (ls : List Nat) (m : List (Nat × List Nat)), (∀ l ∈ ls, hasLane g.live l = true) → (∀ c ∈ m, LanesAt g c) →
      ∀ c ∈ ls.foldl (fun m l => minsert (getPc g l) (((mfind (getPc g l) m).getD []) ++ [l]) m) m, LanesAt g c := by
    intro ls
    induction ls with
    | nil => exact fun m _ hm => hm
    | cons l ls ih =>
      intro m hls hm
      refine ih _ (fun k hk => hls k (List.mem_cons_of_mem _ hk)) (fun c hc => ?_)
      rcases mem_minsert _ _ _ _ hc with rfl | hc
      · refine ⟨by simp, fun k hk => ?_⟩
        rcases List.mem_append.mp hk with hk | hk
        · cases hf : mfind (getPc g l) m with
          | none => simp [hf] at hk
          | some v => exact (hm _ (mem_of_mfind hf)).2 k (by simpa [hf] using hk)
        · obtain rfl := List.mem_singleton.mp hk
          exact ⟨rfl, hls k (by simp)⟩
      · exact hm c hc
  exact key _ [] (fun l hl => candidates_live (mem_lanesOf.mp hl).2) (by simp)

/-- A pick takes lanes that stand at its address, and what the fetch there gave. -/
theorem pickPc_spec (s : State) (g : Group) (cs : List (Nat × List Nat)) : ∀ low p, pickPc s g cs low = some p → (∀ c ∈ cs, LanesAt g c) →
    LanesAt g (p.pc, p.lanes) ∧ p.got = (fetchAt s g p.pc).1 ∧ p.st = (fetchAt s g p.pc).2 := by
  induction cs with
  | nil => intro low p h; cases h
  | cons c cs ih =>
    intro low p h hcs
    obtain ⟨pc, ls⟩ := c
    have hc : LanesAt g (pc, ls) := hcs _ (by simp)
    simp only [pickPc] at h
    split at h
    · rename_i he
      cases h
      exact ⟨hc, he.symm, rfl⟩
    · rename_i w hw
      split at h
      · exact ih _ _ h (fun c hm => hcs c (List.mem_cons_of_mem _ hm))
      · split at h
        · cases h
        · rename_i hne _
          cases h
          exact ⟨⟨by simpa using hne, fun l hl => hc.2 l (List.mem_filter.mp hl).1⟩, hw.symm, rfl⟩

/-- A group that has a next issue may issue, and the issue is the pick of its program counters. -/
theorem nextIssue_pick {s : State} {g : Group} {p : Pick} (h : nextIssue s g = some p) :
    mayIssue s g = true ∧ pickPc s g (pcGroups g) false = some p := by
  unfold nextIssue at h
  split at h
  · cases h
  · rename_i hm
    refine ⟨by simpa using hm, ?_⟩
    split at h
    · cases h
    · rename_i q hq
      rw [hq]
      split at h
      · split at h
        · cases h
        · exact h
      · exact h

/-- What a group's next issue is: lanes of its own at their address, with what the fetch there gave. -/
theorem nextIssue_spec {s : State} {g : Group} {p : Pick} (h : nextIssue s g = some p) :
    LanesAt g (p.pc, p.lanes) ∧ p.got = (fetchAt s g p.pc).1 ∧ p.st = (fetchAt s g p.pc).2 :=
  pickPc_spec s g _ _ _ (nextIssue_pick h).2 (pcGroups_lanesAt g)

/-! The length of what a fetch gives: `fetchBytes` gives four bytes for each word it is asked for. -/

/-- The bytes that some pieces cover. -/
def piecesLen (ps : List Piece) : Nat := (ps.map (fun p => p.n)).sum

theorem xlatePiece_len {s : State} {core part : Nat} {service : Bool} {need : Need} {mc : Bool} {va n off : Nat} {p : Piece}
    (h : (xlatePiece s core part service need mc va n off).1 = .ok p) : p.n = n := by
  simp only [xlatePiece] at h
  repeat' split at h
  all_goals cases h
  rfl

theorem xlateAll_len {f : State → Nat → Nat → Except XFault Piece × State} (hf : ∀ s off k p, (f s off k).1 = .ok p → p.n = k) (cs : List (Nat × Nat)) :
    ∀ s ps, (xlateAll f cs s).1 = .ok ps → piecesLen ps = (cs.map (fun c => c.2)).sum := by
  induction cs with
  | nil => intro s ps h; cases h; rfl
  | cons c cs ih =>
    intro s ps h
    obtain ⟨off, k⟩ := c
    simp only [xlateAll] at h
    split at h
    · repeat' split at h
      all_goals cases h
    · rename_i p hp
      split at h
      · cases h
      · rename_i qs hqs
        cases h
        have := ih _ _ hqs
        have := hf _ _ _ _ hp
        simp only [piecesLen, List.map_cons, List.sum_cons] at *
        omega

theorem splitHalf_len (s : State) (p : Piece) : piecesLen (splitHalf s p) = p.n := by
  unfold splitHalf
  dsimp only
  split
  · rename_i h
    simp only [Bool.and_eq_true, decide_eq_true_eq] at h
    simp only [piecesLen, List.map_cons, List.map_nil, List.sum_cons, List.sum_nil]
    omega
  · simp [piecesLen]

theorem flatMap_splitHalf_len (s : State) (ps : List Piece) : piecesLen (ps.flatMap (splitHalf s)) = piecesLen ps := by
  induction ps with
  | nil => rfl
  | cons p ps ih =>
    have := splitHalf_len s p
    simp only [piecesLen, List.flatMap_cons, List.map_append, List.sum_append, List.map_cons, List.sum_cons] at *
    omega

/-- A word of four bytes lies in at most two lines. -/
theorem chunks_word_len (va : Nat) : ((chunks (4 / 128 + 2) va 4 0).map (fun c => c.2)).sum = 4 := by
  by_cases h : va % 128 ≤ 124
  · have hk : min 4 (128 - va % 128) = 4 := by omega
    simp [chunks, hk]
  · have hk : min 4 (128 - va % 128) = 128 - va % 128 := by omega
    have hn : 4 - (128 - va % 128) ≠ 0 := by omega
    simp only [chunks, Nat.reduceDiv, hk, if_neg hn, Nat.reduceEqDiff, if_false, List.map_cons, List.map_nil, List.sum_cons, List.sum_nil]
    omega

theorem fetchPieces_len (core part : Nat) (ps : List Piece) : ∀ s bs, (fetchPieces core part ps s).1 = .ok bs → bs.length = piecesLen ps := by
  induction ps with
  | nil => intro s bs h; cases h; rfl
  | cons p ps ih =>
    intro s bs h
    simp only [fetchPieces] at h
    split at h
    · cases h
    · split at h
      · rename_i cs hcs
        cases h
        have := ih _ _ hcs
        simp only [piecesLen, List.length_append, List.length_map, List.length_range, List.map_cons, List.sum_cons] at *
        omega
      · cases h

theorem fetchMem_word_len {s : State} {core part : Nat} {service : Bool} {va : Nat} {bs : List Nat}
    (h : (fetchMem s core part service va 4).1 = .ok bs) : bs.length = 4 := by
  simp only [fetchMem] at h
  split at h
  · cases h
  · rename_i ps hps
    split at h
    · rename_i cs hcs
      cases h
      rw [fetchPieces_len _ _ _ _ _ hcs]
      simp only [xlateVa] at hps
      split at hps
      · rename_i qs hqs
        cases hps
        rw [flatMap_splitHalf_len, xlateAll_len (fun _ _ _ _ h => xlatePiece_len h) _ _ _ hqs, chunks_word_len]
      · cases hps
    · cases h

theorem fetchBytes_len (n : Nat) : ∀ (s : State) (g : Group) (va : Nat) (bs : List Nat), (fetchBytes n s g va).1 = .ok bs → bs.length = 4 * n := by
  induction n with
  | zero => intro s g va bs h; cases h; rfl
  | succ n ih =>
    intro s g va bs h
    simp only [fetchBytes] at h
    split at h
    · cases h
    · rename_i ws hws
      split at h
      · cases h
      · rename_i cs hcs
        cases h
        have h1 : ws.length = 4 := by
          split at hws
          · cases hws; simp
          · exact fetchMem_word_len hws
        have h2 := ih _ _ _ _ hcs
        rw [List.length_append]
        omega

/-! Decoding the bytes that a fetch gave (spec/03 R58). -/

/-- Numbers below 256, as bytes. -/
abbrev asBytes (vs : List Nat) : List Byte := vs.map (fun v => BitVec.ofNat 8 v)

/-- `takeBytes` gives the number of the first bytes, and none where there are not so many. -/
theorem takeBytes_asBytes (n : Nat) : ∀ vs : List Nat, n ≤ vs.length → takeBytes n (asBytes vs) = some (ofBytes (vs.take n)) := by
  induction n with
  | zero => intro vs _; simp [takeBytes, ofBytes]
  | succ n ih =>
    intro vs h
    cases vs with
    | nil => simp at h
    | cons v vs =>
      have := ih vs (by simpa using h)
      simp only [asBytes, List.map_cons, takeBytes, List.take_succ_cons, ofBytes] at *
      rw [this]
      simp

theorem lenBytes_mod (w : Nat) : lenBytes (w % 4) = lenBytes w := by simp [lenBytes]

theorem lenBytes_cases (w : Nat) : lenBytes w = 4 ∨ lenBytes w = 12 ∨ lenBytes w = 20 := by
  unfold lenBytes; split <;> simp

/-- LEN stands in the first byte. -/
theorem lenBytes_ofBytes {b : Nat} {bs : List Nat} : lenBytes (ofBytes (b :: bs)) = lenBytes b := by
  rw [← lenBytes_mod, ← lenBytes_mod b]
  congr 1
  simp only [ofBytes]
  omega

/-- Fetched bytes of the length that their first byte asks for decode to the instruction of their number. -/
theorem decode_fetched {b0 bs : List Nat} (h0 : b0.length = 4) (h1 : bs.length = 4 * (lenBytes (b0.getD 0 0) / 4 - 1)) :
    decode (asBytes (b0 ++ bs)) = .ok (decodeNum (ofBytes (b0 ++ bs)), lenBytes (b0.getD 0 0)) := by
  obtain ⟨b, b1, b2, b3, rfl⟩ : ∃ b b1 b2 b3, b0 = [b, b1, b2, b3] := by
    match b0, h0 with
    | [b, b1, b2, b3], _ => exact ⟨b, b1, b2, b3, rfl⟩
  have hl : (([b, b1, b2, b3] : List Nat) ++ bs).length = lenBytes b := by
    simp only [List.getD_cons_zero, List.length_append] at h1 ⊢
    rcases lenBytes_cases b with h | h | h <;> simp [h] at h1 ⊢ <;> omega
  have h4 : 4 ≤ (([b, b1, b2, b3] : List Nat) ++ bs).length := by simp
  have hw : lenBytes (ofBytes ((([b, b1, b2, b3] : List Nat) ++ bs).take 4)) = lenBytes b := lenBytes_ofBytes
  unfold decode
  rw [takeBytes_asBytes 4 _ h4]
  dsimp only
  rw [hw, takeBytes_asBytes _ _ (Nat.le_of_eq hl.symm), ← hl, List.take_length, hl]
  rfl

/-- A fetch of whole words gives the instruction that their bytes decode to. -/
theorem fetchAt_ok {s u1 u2 : State} {g : Group} {pc : Nat} {b0 bs : List Nat} (h1 : fetchBytes 1 s g pc = (.ok b0, u1))
    (h2 : fetchBytes (lenBytes (b0.getD 0 0) / 4 - 1) u1 g ((pc + 4) % 2 ^ 64) = (.ok bs, u2)) {i : Instr} {n : Nat}
    (hd : decode (asBytes (b0 ++ bs)) = .ok (i, n)) : ∃ f, fetchAt s g pc = (.ok f, u2) ∧ f.instr = i := by
  have hi := decode_fetched (fetchBytes_len 1 s g pc b0 (by rw [h1])) (fetchBytes_len _ u1 g _ bs (by rw [h2]))
  have he : decodeNum (ofBytes (b0 ++ bs)) = i := by rw [hi] at hd; cases hd; rfl
  simp only [fetchAt, h1, h2]
  rw [he]
  split <;> exact ⟨_, rfl, rfl⟩

end Sys2Proof.Machine

namespace Sys2Proof.Settled
open Sys2Proof.Machine

/-- Settles O55: a group's turn is what `chosenIssue` picks; its bytes decode to what the fetch gave. -/
theorem stepIssuesDecoded : Obligations.StepIssuesDecoded := by
  refine ⟨fun s gid rest ha => ⟨fun g p hc => ?_, fun hc => ?_⟩, fun s ready g p hp => ?_⟩
  · obtain ⟨hid, hg, hact, hnext, hleast⟩ := chosenIssue_spec hc
    refine ⟨?_, hg, hid, hact, hnext, fun h q hm hs => hleast (h, q) hm hs⟩
    simp only [step, ha, issueTurn]
    rw [hc]
  · simp only [step, ha, issueTurn]
    rw [hc]
  · obtain ⟨⟨hne, hl⟩, hgot, hst⟩ := nextIssue_spec hp
    refine ⟨hne, hl, fun b0 u1 bs u2 i n h1 h2 _ hd => ?_, fun e he => by rw [issueOf, he]⟩
    obtain ⟨f, hf, rfl⟩ := fetchAt_ok h1 h2 hd
    rw [hf] at hgot hst
    rw [issueOf, hgot, hst]

/-- Settles O56: the agenda's turn, else the first event, else the first ready group, else a cycle. -/
theorem stepTakesEvents : Obligations.StepTakesEvents := by
  intro s
  refine ⟨fun i a rest ha => ⟨fun hw => ?_, fun hw => ?_⟩, fun ha => ⟨fun i a he hw => ?_, fun he => ⟨fun g p hf => ?_, fun hn => ?_⟩⟩⟩
  · simp [step, ha, eventTurn, hw]
  · simp [step, ha, eventTurn, hw]
  · simp [step, ha, defaultTurn, he, eventTurn, hw]
  · obtain ⟨_, hact, hnext⟩ := mem_readyGroups (firstReady_least hf).1
    exact ⟨hact, hnext, by simp only [step, ha, defaultTurn, he, hf]⟩
  · have hf : firstReady s (readyGroups s) = none := Option.map_eq_none_iff.mp hn
    simp only [step, ha, defaultTurn, he, hf]

end Sys2Proof.Settled
end

section
namespace Sys2Proof.Machine

/-! No step ends in a fault or a refusal: an event has a next state from every state, and an issue has one where its group, block and
grid exist, which a group that may issue has. -/

/-- A resident group's block and grid exist (spec/01 R26). -/
theorem mayIssue_place {s : State} {g : Group} (h : mayIssue s g = true) :
    ∃ b gr, mfind g.bid s.blocks = some b ∧ mfind b.grid s.grids = some gr := by
  simp only [mayIssue, Bool.and_eq_true] at h
  obtain ⟨⟨_, hb⟩, _⟩ := h
  split at hb
  · rename_i b hbk
    rw [Bool.and_eq_true] at hb
    have hgr := hb.2
    split at hgr
    · rename_i gr hg
      exact ⟨b, gr, hbk, hg⟩
    · cases hgr
  · cases hb

/-- Performing any instruction has a next state where the issuing group, its block and its grid exist. -/
theorem exec_next (i : Instr) (s : State) {g : Group} {b : Block} {gr : Grid} (hg : mfind s.isu.gid s.groups = some g)
    (hb : mfind g.bid s.blocks = some b) (hr : mfind b.grid s.grids = some gr) : ∃ t, exec i s = .next t := by
  cases hw : rawInstr i with
  | none => exact exec_event_next i s (by rw [Instr.isWord, hw]; rfl)
  | some r =>
    rw [exec_bodyOf i r hw]
    exact runWord_next r _ s g b gr hg hb hr

/-- The end of a wait leaves blocks and grids. -/
theorem endWait_blocks (gid : Nat) (s : State) : (endWait gid s).blocks = s.blocks := (congrArg State.blocks (endWait_frame gid s) :)
theorem endWait_grids (gid : Nat) (s : State) : (endWait gid s).grids = s.grids := (congrArg State.grids (endWait_frame gid s) :)

/-- A ready group's issue has a next state. -/
theorem issueOf_next {s : State} (ready : List (Group × Pick)) {g : Group} {p : Pick} (hg : mfind g.gid s.groups = some g)
    (hp : nextIssue s g = some p) : ∃ t, issueOf s ready g p = .next t := by
  unfold issueOf
  dsimp only
  split
  · exact ⟨_, rfl⟩
  · rename_i f _
    have only := nextIssue_only s g p hp
    obtain ⟨b, gr, hb, hgr⟩ := mayIssue_place (nextIssue_pick hp).1
    have hu : ∀ u : State, u.groups = s.groups → u.blocks = s.blocks → u.grids = s.grids →
        ∃ t, exec f.instr { endWait g.gid u with isu := { gid := g.gid, pc := p.pc, mask := maskOf p.lanes } } = .next t := by
      intro u h1 h2 h3
      refine exec_next f.instr _ (endWait_find g.gid u g (h1 ▸ hg)) (b := b) (gr := gr) ?_ ?_
      · exact (congrArg (mfind g.bid) ((endWait_blocks g.gid u).trans h2)).trans hb
      · exact (congrArg (mfind b.grid) ((endWait_grids g.gid u).trans h3)).trans hgr
    exact hu (restSlots s ready _ p.st) only.groups only.blocks only.grids

theorem eventTurn_next (i : Instr) (a : EvArgs) (s : State) : ∃ t, eventTurn i a s = .next t := by
  unfold eventTurn
  split
  · exact ⟨s, rfl⟩
  · rename_i h
    exact exec_event_next i _ (by simpa using h)

theorem issueTurn_next (gid : Nat) (s : State) : ∃ t, issueTurn gid s = .next t := by
  unfold issueTurn
  dsimp only
  split
  · exact ⟨_, rfl⟩
  · rename_i g p hc
    obtain ⟨rfl, hg, _, hp, _⟩ := chosenIssue_spec hc
    exact issueOf_next _ hg hp

theorem defaultTurn_next (s : State) : ∃ t, defaultTurn s = .next t := by
  unfold defaultTurn
  split
  · exact eventTurn_next _ _ s
  · dsimp only
    split
    · rename_i g p hf
      obtain ⟨hg, _, hp⟩ := mem_readyGroups (firstReady_least hf).1
      exact issueOf_next _ hg hp
    · exact ⟨_, rfl⟩

theorem step_next (s : State) : ∃ t, step s = .next t := by
  unfold step
  split
  · exact defaultTurn_next s
  · exact issueTurn_next _ _
  · exact eventTurn_next _ _ _

end Sys2Proof.Machine

namespace Sys2Proof.Settled
open Sys2Proof.Machine

/-- Settles O57: every turn has a next state. -/
theorem neverStops : Obligations.NeverStops := ⟨step_next, fun _ t _ => step_next t⟩

end Sys2Proof.Settled
end

section
namespace Sys2Proof.Machine

/-! A member that branches out of a body while every other member is parked at its END: the loop then closes for those (spec/07
R131), so that its counter falls with the branch. -/

/-- The body from 4092 to 4104, with lanes 0 and 1 as members. -/
def lastOutLoop : LoopEntry := { start := 4092, stop := 4104, ctr := 0, members := 3 }

/-- Lane 0 stands in the body, lane 1 is parked at its END, and the counter is at 9. -/
def lastOutGroup : Group :=
  putReg { gid := 0, bid := 0, num := 0, upc := [(0, 4096), (1, 4104)], live := 3, parkLoop := 2, loops := [lastOutLoop] } 944 0 9

def lastOutState : State := { groups := [(0, lastOutGroup)] }

/-- Lane 0's issue in the body. -/
def lastOutIssue : Ctx :=
  { s := lastOutState, g := lastOutGroup, r := { op := 0x61 }, i := ctl false {}, mask := 1, pc := 4096
    b := { bid := 0, grid := 0, lin := 0, core := 0, groups := [0], ntiles := 8, padSize := 65536 }
    gr := { gid := 0, part := 0, gx := 1, gy := 1, gz := 1, lanes := 2, entry := 4096, params := [], regs := 24, regsMax := 24, uregs := 0
            ntiles := 8, padB := 65536, roles := 7, seed := 0, cls := 0, coop := false, depth := 0 } }

/-- Its branch to the address before the body. -/
def lastOutBranch : Out := { next := some [(0, 4088)], branch := true, ctl := true }

/-- After the branch the loop has begun a new iteration for lane 1: the counter stands at 8. -/
theorem lastOut_counter :
    (mfind 0 (finishIssue lastOutIssue lastOutState lastOutBranch).groups).map (fun g => getReg g 944 0) = some 8 := by decide

theorem lastOut_leaves : ∀ l ∈ lastOutIssue.lanes, ∃ a, mfind l [(0, 4088)] = some a ∧ (a < lastOutLoop.start ∨ lastOutLoop.stop < a) := by
  intro l hl
  obtain rfl : l = 0 := by
    have h : lastOutIssue.lanes = [0] := by decide
    simpa [h] using hl
  exact ⟨4088, rfl, by decide⟩

end Sys2Proof.Machine

namespace Sys2Proof.Settled
open Sys2Proof.Machine

/-- Refutes O12: where a member branches out of a body and every other member is parked at its END, the loop closes for those and its counter
falls, here from 9 to 8; the statement keeps the counter whatever the other members do. -/
theorem not_issueAdvances : ¬ Obligations.IssueAdvances := by
  intro h
  obtain ⟨_, branchOut⟩ := h.2 lastOutIssue lastOutState lastOutGroup lastOutLoop rfl rfl rfl rfl rfl rfl (by decide) (by decide) (by decide)
    ⟨0, by decide, by decide⟩
  obtain ⟨g', hg, hctr, _⟩ := branchOut [(0, 4088)] lastOutBranch rfl lastOut_leaves
  have kept : getReg g' 944 0 = 9 := hctr
  have fell := lastOut_counter
  rw [show mfind 0 (finishIssue lastOutIssue lastOutState lastOutBranch).groups = some g' from hg] at fell
  exact absurd (kept.symm.trans (Option.some.inj fell)) (by decide)

end Sys2Proof.Settled
end

section
namespace Sys2Proof.Machine

/-! The events of groups and blocks: what each answers where it can happen (spec/01 R22 to R43). -/

/-- With power, an event that can happen ends in its state, after which what may leave for a peer is sent. -/
theorem Powered.happens {i : Instr} {s t : State} {r : Option State} (hp : Powered s) (he : exec i s = eventOut s r) (hr : r = some t) : Happens i s t := by
  have hoff : s.boot.powerOff = false := hp
  rw [Happens, he, hr]
  simp [eventOut, hoff]

theorem evYieldExpire_of {s : State} {g : Group} {t : Nat} (hg : mfind s.ev.a s.groups = some g) (hw : g.wait = .yield t) (ht : t + 16 ≤ slotTime s g) :
    evYieldExpire s = some (setGroup { g with wait := .none } s) := by
  simp only [evYieldExpire, hg, hw, if_pos ht]

theorem evTwaitResume_of {s : State} {g : Group} {t : Nat} (hg : mfind s.ev.a s.groups = some g) (hw : g.wait = .twait t) (ht : t ≤ s.ptp.ns % 2 ^ 64) :
    evTwaitResume s = some (setGroup { g with wait := .none } s) := by
  simp only [evTwaitResume, hg, hw, if_pos ht]

/-- RFREE returns registers of which none is pending. -/
theorem evRfreeReturn_of {s : State} {g : Group} {b : Block} {t : Nat} (hg : mfind s.ev.a s.groups = some g) (hb : mfind g.bid s.blocks = some b)
    (hw : g.wait = .rfree t) (hres : isResident b = true) (hpend : ∀ e ∈ g.pend, ¬ (32 * t * 96 ≤ e.1 ∧ e.1 < 768 * 96)) :
    evRfreeReturn s = some (notePre (partOf s g)
      (modCore b.core (fun c => if regsKept s g != regsKept s { g with k := t } then { c with lastReturn := s.cycle } else c)
        (setGroup { setAlloc t g with wait := .none } s))) := by
  have hany : g.pend.any (fun e => decide (32 * t * 96 ≤ e.1 ∧ e.1 < 768 * 96)) = false := by
    rw [List.any_eq_false]
    exact fun e he => by simpa using hpend e he
  simp only [evRfreeReturn, hg, hw, hb, hres, hany, Bool.not_true, Bool.or_false, Bool.false_eq_true, if_false]

/-- A group retires once it has no live lane and no operation outstanding. -/
theorem evGroupRetire_of {s : State} {g : Group} {b : Block} (hg : mfind s.ev.a s.groups = some g) (hb : mfind g.bid s.blocks = some b)
    (hret : g.retired = false) (hlive : hasLive g = false) (hops : ∀ o ∈ s.ops, o.gid ≠ g.gid) :
    evGroupRetire s =
      (let s1 := setGroup { g with retired := true, trigq := [], active := false, wait := .none } (retireRelease s g b.grid)
       let s2 := if isResident b then modCore b.core (fun c => { c with lastReturn := s.cycle }) s1 else s1
       some (settleResize 4 (partOf s g) (notePre (partOf s g) (settleBlock g.bid s2)))) := by
  have hany : s.ops.any (fun o => o.gid == g.gid) = false := by
    rw [List.any_eq_false]
    exact fun o ho => by simpa using hops o ho
  simp only [evGroupRetire, hg, hret, hlive, hany, hb, Bool.or_false, Bool.false_eq_true, if_false]

/-- A ready group enters its active set where a place is free; only marks of groups change. -/
theorem evActiveSetEntry_of {s : State} {g : Group} {b : Block} (hg : mfind s.ev.a s.groups = some g) (hb : mfind g.bid s.blocks = some b)
    (hact : g.active = false) (hnext : (nextIssue s g).isSome = true) (hroom : (activeReady s b.core g.slot).length < 4) :
    ∃ t, evActiveSetEntry s = some t ∧ { t with groups := s.groups } = s ∧ t.groups.length = s.groups.length ∧
      ∀ h ∈ t.groups, h.1 = g.gid → h.2.active = true := by
  have hnone : (nextIssue s g).isNone = false := by rw [Option.isNone_eq_false_iff]; exact hnext
  simp only [evActiveSetEntry, hg, hb, hact, hnone, Bool.or_false, Bool.false_eq_true, if_false, if_pos hroom, decide_eq_true hroom, Bool.true_or, if_true]
  refine ⟨_, rfl, rfl, List.length_map .., fun h hm hid => ?_⟩
  obtain ⟨e, _, rfl⟩ := List.mem_map.mp hm
  by_cases he : (e.1 == g.gid) = true
  · rw [if_pos he]
  · rw [if_neg he] at hid
    refine absurd ?_ he
    split at hid <;> exact beq_iff_eq.mpr hid

/-- The oldest growth request is granted where the core has the registers and a shrink's cooperative blocks keep their room. -/
theorem evRallocGrant_of {s : State} {g : Group} {t : Nat} (hw : oldestWaiter s s.ev.a = some (g, t)) (hfree : t - g.k ≤ freeRegs s s.ev.a)
    (hroom : coopMoves s (partOf s g) = [] ∨
      roomFor s (partOf s g) [(s.ev.a, { blocks := 0, regs := t - g.k })] (coopMoves s (partOf s g)) = true) :
    evRallocGrant s = some (settleResize 4 (partOf s g) (notePre (partOf s g)
      (setGroup { setAlloc t g with wait := .none } (modCore s.ev.a (fun c => { c with waiters := c.waiters.drop 1 }) s)))) := by
  have hmay : ((coopMoves s (partOf s g)).isEmpty ||
      roomFor s (partOf s g) [(s.ev.a, { blocks := 0, regs := t - g.k })] (coopMoves s (partOf s g))) = true := by
    rcases hroom with h | h
    · simp [h]
    · rw [h, Bool.or_true]
  have hlt : ¬ freeRegs s s.ev.a < t - g.k := by omega
  simp only [evRallocGrant, hw, hmay, hlt, Bool.not_true, decide_false, Bool.or_false, Bool.false_eq_true, if_false]

/-- A core on which growth has stood still for 16384 cycles spills a block. -/
theorem evGrowthDeadlockSpill_of {s : State} {g : Group} {b : Block} {t : Nat} (hw : oldestWaiter s s.ev.a = some (g, t))
    (hfree : freeRegs s s.ev.a < t - g.k) (hold : (getCore s s.ev.a).lastReturn + 16384 ≤ s.cycle)
    (hnone : ∀ r ∈ residents s s.ev.a, r.place ≠ .draining .spill) (hb : spillBlock s s.ev.a = some b) :
    evGrowthDeadlockSpill s = some (setBlock { b with place := .draining .spill } s) := by
  have hany : (residents s s.ev.a).any (fun b => b.place == .draining .spill) = false := by
    rw [List.any_eq_false]
    exact fun r hr => by simpa using hnone r hr
  have h1 : ¬ t - g.k ≤ freeRegs s s.ev.a := by omega
  have h2 : ¬ s.cycle < (getCore s s.ev.a).lastReturn + 16384 := by omega
  simp only [evGrowthDeadlockSpill, hw, hany, h1, h2, decide_false, Bool.or_false, Bool.false_eq_true, if_false, hb, Option.map_some]

theorem evBlockPlace_of {s : State} {gid core : Nat} {gr : Grid} (hd : distNext s s.ev.a = .place gid core) (hg : getGrid s gid = some gr) :
    evBlockPlace s = some (settleResize 4 s.ev.a (notePre s.ev.a (passTurn s.ev.a gr.queue s (placeBlock s gid core)))) := by
  simp only [evBlockPlace, hd, hg]

/-- The partition of a block's grid, as the events of blocks find it. -/
abbrev gridPart (s : State) (b : Block) : Nat := ((getGrid s b.grid).map (fun g => g.part)).getD 0

/-- A draining block is saved once only operations of the NT path and fences are left of it. -/
theorem evBlockSave_of {s : State} {b : Block} {why : SaveWhy} (hb : mfind s.ev.a s.blocks = some b) (hp : b.place = .draining why)
    (hops : ∀ o ∈ s.ops, o.bid = b.bid → o.path = .nt ∨ o.isFence = true) :
    evBlockSave s =
      (let s1 := modCore b.core (fun c => { c with lastReturn := s.cycle, waiters := c.waiters.filter (fun w => !b.groups.contains w.1) }) s
       let s2 := setBlock { b with place := .saved why, padPages := [] } s1
       let s3 := { s2 with groups := s2.groups.map (fun e => if b.groups.contains e.1 then (e.1, { e.2 with active := false }) else e) }
       let s4 := modPart (gridPart s b) (fun p => { p with restores := if why != .join || b.kids == 0 then p.restores ++ [b.bid] else p.restores }) s3
       some (settleResize 4 (gridPart s b) (notePre (gridPart s b) s4))) := by
  have hany : s.ops.any (fun o => o.bid == b.bid && o.path != .nt && !o.isFence) = false := by
    rw [List.any_eq_false]
    intro o ho h
    simp only [Bool.and_eq_true, beq_iff_eq, bne_iff_ne, Bool.not_eq_true'] at h
    obtain ⟨⟨hbid, hpath⟩, hfence⟩ := h
    rcases hops o ho hbid with h | h
    · exact hpath h
    · rw [hfence] at h; cases h
  simp only [evBlockSave, hb, hp, hany, Bool.false_eq_true, if_false]

theorem evBlockRestore_of {s : State} {b : Block} {core : Nat} (hb : mfind s.ev.a s.blocks = some b) (hn : nextRestore s (gridPart s b) = some (b.bid, core))
    (hf : (getPart s (gridPart s b)).fatal = false) :
    evBlockRestore s = some (settleResize 4 (gridPart s b) (notePre (gridPart s b) (restoreBlock s b core))) := by
  simp only [evBlockRestore, hb, hn, hf, Bool.not_false, decide_true, Bool.and_true, if_true]

/-- The move of a block off a leaving core begins once no other block of the core is on its way. -/
theorem evShuntMove_of {s : State} {b : Block} (hb : mfind s.ev.a s.blocks = some b) (hs : (getPart s (gridPart s b)).state = 3)
    (hl : coreLeaves (getPart s (gridPart s b)) b.core = true) (hp : b.place = .resident) (hm : moving s (gridPart s b) b.core = false) :
    evShuntMove s = some (setBlock { b with place := .draining .shunt } s) := by
  have hbeq : (b.place == Place.resident) = true := by rw [hp]; rfl
  simp only [evShuntMove, hb, hs, hl, hm, hbeq, decide_true, Bool.and_true, Bool.not_false, if_true]

end Sys2Proof.Machine

namespace Sys2Proof.Settled
open Sys2Proof.Machine

/-- Settles O40: each event of a group answers its state where it can happen. -/
theorem groupEvents : Obligations.GroupEvents := by
  refine fun s g b hp => ⟨fun hg => ⟨fun t hw ht => ?_, fun t hw ht => ?_, fun hb => ⟨fun t hw hres hpend => ?_, fun hret hlive hops => ?_,
    fun hact hnext hroom => ?_⟩⟩, fun t hw => ⟨fun hfree hroom => ?_, fun hfree hold hnone hb => ?_⟩⟩
  · exact hp.happens rfl (evYieldExpire_of hg hw ht)
  · exact hp.happens rfl (evTwaitResume_of hg hw ht)
  · exact hp.happens rfl (evRfreeReturn_of hg hb hw hres hpend)
  · exact hp.happens rfl (evGroupRetire_of hg hb hret hlive hops)
  · obtain ⟨t, ht, rest⟩ := evActiveSetEntry_of hg hb hact hnext hroom
    exact ⟨t, hp.happens rfl ht, rest⟩
  · exact hp.happens rfl (evRallocGrant_of hw hfree hroom)
  · exact hp.happens rfl (evGrowthDeadlockSpill_of hw hfree hold hnone hb)

/-- Settles O41: each event of a block answers its state where it can happen. -/
theorem blockEvents : Obligations.BlockEvents := by
  refine fun s b hp => ⟨fun gid core gr hd hg => ?_, fun hb => ⟨fun why hw hops => ?_, fun core hn hf => ?_, fun hs hl hres hm => ?_⟩⟩
  · exact hp.happens rfl (evBlockPlace_of hd hg)
  · exact hp.happens rfl (evBlockSave_of hb hw hops)
  · exact hp.happens rfl (evBlockRestore_of hb hn hf)
  · exact hp.happens rfl (evShuntMove_of hb hs hl hres hm)

end Sys2Proof.Settled
end

section
namespace Sys2Proof.Machine

/-! The events that perform the accesses of loads, stores and atomics (spec/11 R187 to R195, spec/13 R218, R223). -/

theorem isLoad_kind {o : Op} (h : o.isLoad = true) : (∃ d n ty u, o.kind = .load d n ty u) ∨ ∃ fn, o.kind = .pref fn := by
  unfold Op.isLoad at h
  split at h
  · exact .inl ⟨_, _, _, _, ‹_›⟩
  · exact .inr ⟨_, ‹_›⟩
  · cases h

/-- Every part of an access has been read or is over. -/
def Access.present (a : Access) : Prop := ∀ t ∈ a.st, t = .got ∨ t = .done

theorem present_all {a : Access} (h : a.present) : a.st.all (fun t => t == AccSt.got || t == AccSt.done) = true := by
  simpa [Access.present] using h

theorem absent_all {a : Access} (h : ∃ t ∈ a.st, t ≠ .got ∧ t ≠ .done) : a.st.all (fun t => t == AccSt.got || t == AccSt.done) = false := by
  rw [← Bool.not_eq_true, List.all_eq_true]
  obtain ⟨t, ht, h1, h2⟩ := h
  exact fun hall => by simpa [h1, h2] using hall t ht

section
variable {s0 : State} {o : Op} {k : Nat} {a : Access} (ho : findOp (evicted s0) (evicted s0).ev.a = some o)
  (ha : openAcc o (evicted s0).ev.b = some (k, a)) (hpad : a.pad = false)
include ho ha hpad

/-- A load whose bytes are all present lands its value. -/
theorem evLoadDataReturn_present (hl : o.isLoad = true) (hst : a.present) :
    evLoadDataReturn s0 = some (endIfRead o.oid (landLoad (evicted s0) o k a.data 0 0)) := by
  rcases isLoad_kind hl with ⟨d, n, ty, u, hk⟩ | ⟨fn, hk⟩ <;>
    simp only [evLoadDataReturn, ho, ha, hk, hpad, present_all hst, Bool.not_false, Bool.true_and, if_true, Option.map_some]

/-- Else it is read with the lanes that share bytes with it, and lands what they read. -/
theorem evLoadDataReturn_together (hl : o.isLoad = true) (hst : ∃ t ∈ a.st, t ≠ .got ∧ t ≠ .done) (hc : (evicted s0).ev.c = 0)
    (hmay : matesMay (evicted s0) o (matesOf o k) = true)
    (hparts : ∀ m ∈ matesOf o k, partsReady (evicted s0) o (opCore (evicted s0) o) m.2 = true) :
    (∀ v u, readTogether (evicted s0) o (matesOf o k) = (.ok v, u) → evLoadDataReturn s0 = some (endIfRead o.oid (landLoad u o k v 0 0))) ∧
    (∀ e u, readTogether (evicted s0) o (matesOf o k) = (.error e, u) → evLoadDataReturn s0 = some (endIfRead o.oid (landLoad u o k 0 e.1 e.2))) := by
  have hall : (matesOf o k).all (fun m => partsReady (evicted s0) o (opCore (evicted s0) o) m.2) = true := List.all_eq_true.mpr hparts
  constructor <;> intro v u hr <;> rcases isLoad_kind hl with ⟨d, n, ty, w, hk⟩ | ⟨fn, hk⟩ <;>
    simp only [evLoadDataReturn, ho, ha, hk, hpad, absent_all hst, hc, hmay, hall, hr, bne_self_eq_false, Bool.not_false, Bool.not_true, Bool.and_false,
      Bool.and_true, Bool.false_eq_true, if_false, Option.map_some]

/-- Or it reads one of its parts alone (spec/13 R223). -/
theorem evLoadDataReturn_onePart (hl : o.isLoad = true) (hst : ∃ t ∈ a.st, t ≠ .got ∧ t ≠ .done) (hc : (evicted s0).ev.c ≠ 0) {p : Piece} {t : State}
    (hp : a.rest.pieces[(evicted s0).ev.c - 1]? = some p) (hr : readOnePart (evicted s0) o k p = some t) :
    evLoadDataReturn s0 = some (endIfRead o.oid t) := by
  have hc' : ((evicted s0).ev.c != 0) = true := by simpa using hc
  rcases isLoad_kind hl with ⟨d, n, ty, u, hk⟩ | ⟨fn, hk⟩ <;>
    simp only [evLoadDataReturn, ho, ha, hk, hpad, absent_all hst, hc', hp, hr, Bool.not_false, Bool.and_false, Bool.and_true, Bool.false_eq_true,
      if_false, if_true, Option.map_some]

/-- A returning atomic that is performed near its core. -/
theorem evLoadDataReturn_atomic {fn ty : Nat} {r : Nat × Nat} {wide : Bool} {t : State} (hmay : mayPerform (evicted s0) o a = true)
    (hk : o.kind = .atomic fn ty (some r) wide) (ht : memAtom (evicted s0) o k a true = some t) : evLoadDataReturn s0 = some (endIfRead o.oid t) := by
  simp only [evLoadDataReturn, ho, ha, hk, hpad, hmay, ht, Bool.not_true, Bool.false_eq_true, if_false, Option.map_some]

end

theorem evFarAtomic_of {s t : State} {o : Op} {a : Access} (ho : findOp s s.ev.a = some o) (ha : o.accs[s.ev.b]? = some a) (hopen : a.isOpen = true)
    (hpad : a.pad = false) (hmay : mayPerform s o a = true) (ht : memAtom s o s.ev.b a false = some t) :
    evFarAtomic s = some (if o.path == .ld then endIfRead o.oid t else t) := by
  simp only [evFarAtomic, ho, ha, hopen, hpad, hmay, ht, Bool.not_false, Bool.and_self, if_true, Option.map_some]

/-- A part on a line without a data error is applied by itself. -/
theorem partsWith_sound {s : State} {o : Op} {k j : Nat} {p : Piece} (h : lineBad s p.pa = false) : partsWith s o k j p = [(k, j)] := by
  simp only [partsWith, h, Bool.false_and, Bool.false_eq_true, if_false]

section
variable {s : State} {o : Op} {a : Access} {p : Piece} (ho : findOp s s.ev.a = some o) (ha : o.accs[s.ev.b]? = some a) (hopen : a.isOpen = true)
  (hpad : a.pad = false) (hk : o.kind = .store) (hp : a.pieces[s.ev.c]? = some p) (hloc : isRemote s p = false) (hst : a.st[s.ev.c]? = some .todo)
  (hmay : ∀ e ∈ partsWith s o s.ev.b s.ev.c p, ∃ b q, o.accs[e.1]? = some b ∧ b.pieces[e.2]? = some q ∧
    mayPerform s (o.without (partsWith s o s.ev.b s.ev.c p)) (b.part q) = true)
include ho ha hopen hpad hk hp hloc hst hmay

/-- A store's part whose home may perform it: it is applied, or ends in a FAULTED region with its line's accesses faulted. -/
theorem evHomeStoreApply_of :
    evHomeStoreApply s = some (if inFaulted s p.pa
      then modOp o.oid (fun o => { o with accs := o.accs.map (fun b => if b.pieces.any (fun q => lineOf q.pa == lineOf p.pa) then { b with fkind := 2 } else b) })
        (markParts o.oid .done (partsWith s o s.ev.b s.ev.c p) s)
      else markParts o.oid .done (partsWith s o s.ev.b s.ev.c p) (applyParts s o (partsWith s o s.ev.b s.ev.c p))) := by
  have hstore : o.isStore = true := by simp only [Op.isStore, hk]
  have hatom : o.isAtomic = false := by simp only [Op.isAtomic, hk]
  simp only [evHomeStoreApply, ho, ha, hopen, hpad, hstore, hatom, hp, hloc, hst, Bool.not_true, Bool.false_or, Bool.false_eq_true, if_false,
    bne_self_eq_false]
  rw [if_neg, apply_ite some]
  simp only [Bool.not_eq_true', Bool.not_eq_false, List.all_eq_true]
  intro e he
  obtain ⟨b, q, hb, hq, hm⟩ := hmay e he
  simp only [hb, hq, Option.any_some, hm]

end

theorem evSharerUpdate_of {s : State} {u : Upd} (hu : s.updates.find? (fun u => u.core == s.ev.b && lineOf u.pa == lineOf s.ev.c) = some u)
    (hoid : u.oid = s.ev.a) (hpa : u.pa = s.ev.c) : evSharerUpdate s = some (l1Apply { s with updates := s.updates.erase u } u) := by
  simp only [evSharerUpdate, hu, hoid, hpa, BEq.rfl, Bool.and_self, if_true]

theorem evStoreComplete_of {s : State} {o : Op} (ho : findOp s s.ev.a = some o) (hr : storeReady s o = true) : evStoreComplete s = some (endOp o.oid s) := by
  simp only [evStoreComplete, ho, hr, if_true]

end Sys2Proof.Machine

namespace Sys2Proof.Settled
open Sys2Proof.Machine

/-- Settles O36: each event that performs an access answers its state where it can happen. -/
theorem accessReturns : Obligations.AccessReturns := by
  refine ⟨fun s0 o k a hp => ?_, fun s o a hp ho ha hopen hpad => ⟨fun t hmay ht => ?_, fun p hk hpc hloc hst => ?_⟩, fun s hp =>
    ⟨fun u hu hoid hpa => ?_, fun o ho hr => ?_⟩⟩
  · intro s ms land ho ha hpad
    refine ⟨fun hl => ⟨fun hst => ?_, fun hst hc hmay hparts => ?_, fun hst hc p t hpc hr => ?_⟩, fun fn ty r wide t hmay hk ht => ?_⟩
    · exact hp.happens rfl (evLoadDataReturn_present ho ha hpad hl hst)
    · obtain ⟨hok, herr⟩ := evLoadDataReturn_together ho ha hpad hl hst hc hmay hparts
      exact ⟨fun v u hr => hp.happens rfl (hok v u hr), fun e u hr => hp.happens rfl (herr e u hr)⟩
    · exact hp.happens rfl (evLoadDataReturn_onePart ho ha hpad hl hst hc hpc hr)
    · exact hp.happens rfl (evLoadDataReturn_atomic ho ha hpad hmay hk ht)
  · exact hp.happens rfl (evFarAtomic_of ho ha hopen hpad hmay ht)
  · refine ⟨partsWith_sound, fun hmay => ?_⟩
    have apply := evHomeStoreApply_of ho ha hopen hpad hk hpc hloc hst hmay
    exact ⟨fun hf => hp.happens rfl (apply.trans (congrArg some (if_neg (by simp [hf])))), fun hf => hp.happens rfl (apply.trans (congrArg some (if_pos hf)))⟩
  · exact hp.happens rfl (evSharerUpdate_of hu hoid hpa)
  · exact hp.happens rfl (evStoreComplete_of ho hr)

end Sys2Proof.Settled
end

section
namespace Sys2Proof
open Sys2Proof.Machine

/-! The bytes of words in memory order (spec/03 R58). -/

/-- The `k` bytes of a number, lowest first. -/
def numBytes (k n : Nat) : List Byte := (List.range k).map (fun j => BitVec.ofNat 8 (fld n (8 * j) 8))

@[simp] theorem length_numBytes (k n : Nat) : (numBytes k n).length = k := by simp [numBytes]

/-- A field of a field. -/
theorem fld_fld (n lo w j m : Nat) (h : j + m ≤ w) : fld (fld n lo w) j m = fld n (lo + j) m := by
  apply Nat.eq_of_testBit_eq
  intro i
  simp only [fld, Nat.testBit_mod_two_pow, Nat.testBit_div_two_pow]
  by_cases hi : i < m
  · have : j + i < w := by omega
    grind
  · simp [hi]

/-- Counting by rows of `m`. -/
theorem range_mul_flatMap {α : Type} (f : Nat → α) (m : Nat) : ∀ k,
    (List.range k).flatMap (fun i => (List.range m).map (fun j => f (m * i + j))) = (List.range (k * m)).map f := by
  intro k
  induction k with
  | zero => simp
  | succ k ih =>
    rw [List.range_succ, List.flatMap_append, ih, Nat.succ_mul, List.range_add, List.map_append]
    simp [Nat.mul_comm, Function.comp_def]

theorem lenBytes_div_four_mul (n : Nat) : lenBytes n / 4 * 4 = lenBytes n := by
  unfold lenBytes; split <;> rfl

/-- The words of an instruction are the bytes of its number. -/
theorem wordsBytes_encode (i : Instr) : wordsBytes (encode i) = numBytes (lenBytes (encodeNum i)) (encodeNum i) := by
  have hb : ∀ n k : Nat, ((List.range 4).map fun j => BitVec.ofNat 8 (fld (BitVec.ofNat 32 (fld n (32 * k) 32)).toNat (8 * j) 8)) =
      (List.range 4).map fun j => BitVec.ofNat 8 (fld n (8 * (4 * k + j)) 8) := by
    intro n k
    refine List.map_congr_left fun j hj => ?_
    have hj : j < 4 := List.mem_range.mp hj
    have e : (BitVec.ofNat 32 (fld n (32 * k) 32)).toNat = fld n (32 * k) 32 := by simp [fld]
    rw [e, fld_fld _ _ _ _ _ (by omega)]
    congr 2; omega
  simp only [wordsBytes, encode, List.flatMap_map, hb]
  rw [range_mul_flatMap (fun j => BitVec.ofNat 8 (fld (encodeNum i) (8 * j) 8)) 4, lenBytes_div_four_mul]
  rfl

theorem numBytes_succ (k n : Nat) : numBytes (k + 1) n = BitVec.ofNat 8 n :: numBytes k (n / 256) := by
  simp only [numBytes, List.range_succ_eq_map, List.map_cons, List.map_map]
  congr 1
  · apply BitVec.eq_of_toNat_eq
    simp [fld]
  · refine List.map_congr_left fun j _ => ?_
    have : (256 : Nat) = 2 ^ 8 := rfl
    simp only [Function.comp, fld, this, Nat.div_div_eq_div_mul, ← Nat.pow_add]
    congr 5; omega

/-- The first bytes of a number's bytes are the number's low bytes. -/
theorem takeBytes_numBytes {k m : Nat} (h : k ≤ m) (n : Nat) (rest : List Byte) : takeBytes k (numBytes m n ++ rest) = some (n % 2 ^ (8 * k)) := by
  induction k generalizing m n with
  | zero => simp [takeBytes, Nat.mod_one]
  | succ k ih =>
    obtain ⟨m, rfl⟩ : ∃ m', m = m' + 1 := ⟨m - 1, by omega⟩
    rw [numBytes_succ, List.cons_append, takeBytes, ih (by omega)]
    have : 2 ^ (8 * (k + 1)) = 256 * 2 ^ (8 * k) := by rw [Nat.mul_succ, Nat.pow_add]; omega
    simp [this, Nat.mod_mul]

theorem takeBytes_eq_none_iff {k : Nat} {bs : List Byte} : takeBytes k bs = none ↔ bs.length < k := by
  induction k generalizing bs with
  | zero => simp [takeBytes]
  | succ k ih =>
    cases bs with
    | nil => simp [takeBytes]
    | cons b bs =>
      simp only [takeBytes, List.length_cons, Nat.add_lt_add_iff_right, ← ih]
      cases takeBytes k bs <;> simp

/-- What `takeBytes` reads is the number whose bytes the list begins with. -/
theorem numBytes_of_takeBytes {k n : Nat} {bs : List Byte} (h : takeBytes k bs = some n) : n < 2 ^ (8 * k) ∧ numBytes k n = bs.take k := by
  induction k generalizing bs n with
  | zero => cases h; simp [numBytes]
  | succ k ih =>
    cases bs with
    | nil => cases h
    | cons b bs =>
      rw [takeBytes] at h
      cases hr : takeBytes k bs with
      | none => rw [hr] at h; cases h
      | some r =>
        rw [hr] at h; cases h
        obtain ⟨hlt, hb⟩ := ih hr
        have hb8 := b.isLt
        have hpow : 2 ^ (8 * (k + 1)) = 256 * 2 ^ (8 * k) := by rw [Nat.mul_succ, Nat.pow_add]; omega
        refine ⟨by omega, ?_⟩
        have hd : (b.toNat + 256 * r) / 256 = r := by omega
        have hm : BitVec.ofNat 8 (b.toNat + 256 * r) = b := by
          apply BitVec.eq_of_toNat_eq; simp; omega
        rw [numBytes_succ, hd, hm, hb, List.take_succ_cons]

/-! The fields of the words (spec/03 R59, R62): each is read back as it was written, and the fields of a word are all of it. -/

theorem fld_lt (w lo n : Nat) : fld w lo n < 2 ^ n := Nat.mod_lt _ (Nat.two_pow_pos n)

theorem toNat_ofNat_fld (w lo n : Nat) : (BitVec.ofNat n (fld w lo n)).toNat = fld w lo n := by simp [fld]

/-- The first word of a compact form has LEN, the opcode and the operands in its fields. -/
theorem fld_compactWord (op len : Nat) (u : BitVec 1) (b a d : BitVec 7) (hl : len < 4) (ho : op < 256) (hi : Nat) :
    let w := compactWord op len u.toNat b.toNat a.toNat d.toNat + 2 ^ 32 * hi
    w % 4 = len ∧ fld w 2 8 = op ∧ fld w 10 7 = d.toNat ∧ fld w 17 7 = a.toNat ∧ fld w 24 7 = b.toNat ∧ fld w 31 1 = u.toNat ∧
    w / 2 ^ 32 = hi := by
  have := u.isLt; have := b.isLt; have := a.isLt; have := d.isLt
  simp only [compactWord, fld]
  omega

/-- A compact word is its LEN, its opcode and its operands. -/
theorem compactWord_fld (w : Nat) :
    compactWord (fld w 2 8) (w % 4) (fld w 31 1) (fld w 24 7) (fld w 17 7) (fld w 10 7) + 2 ^ 32 * (w / 2 ^ 32) = w := by
  simp only [compactWord, fld]
  omega

/-! The three words of the extended form (spec/03 R62). -/

/-- The first word of an extended form (R62). -/
def extWord0 (op len : Nat) (e : Ext) : Nat :=
  len + 4 * op + 2 ^ 10 * e.fn.toNat + 2 ^ 14 * e.dst.toNat + 2 ^ 24 * e.ty.toNat + 2 ^ 28 * e.rnd.toNat + 2 ^ 31 * e.sat.toNat

/-- Its second word. -/
def extWord1 (e : Ext) : Nat := e.a.toNat + 2 ^ 10 * e.b.toNat + 2 ^ 20 * e.c.toNat + 2 ^ 30 * e.z.toNat

/-- Its third word. -/
def extWord2 (e : Ext) : Nat :=
  e.pred.toNat + 2 ^ 10 * e.pen.toNat + 2 ^ 11 * e.pneg.toNat + 2 ^ 12 * e.uni.toNat + 2 ^ 13 * e.ra.toNat +
    2 ^ 17 * e.rb.toNat + 2 ^ 21 * e.rc.toNat + 2 ^ 25 * e.scope.toNat + 2 ^ 28 * e.order.toNat + 2 ^ 30 * e.hint.toNat

theorem extWords_eq (op len : Nat) (e : Ext) : extWords op len e = extWord0 op len e + 2 ^ 32 * extWord1 e + 2 ^ 64 * extWord2 e := rfl

theorem extWord0_lt {op len : Nat} (e : Ext) (hl : len < 4) (ho : op < 256) : extWord0 op len e < 2 ^ 32 := by
  have := e.fn.isLt; have := e.dst.isLt; have := e.ty.isLt; have := e.rnd.isLt; have := e.sat.isLt
  simp only [extWord0]
  omega

theorem extWord1_lt (e : Ext) : extWord1 e < 2 ^ 32 := by
  have := e.a.isLt; have := e.b.isLt; have := e.c.isLt; have := e.z.isLt
  simp only [extWord1]
  omega

theorem extWord2_lt (e : Ext) : extWord2 e < 2 ^ 32 := by
  have := e.pred.isLt; have := e.pen.isLt; have := e.pneg.isLt; have := e.uni.isLt; have := e.ra.isLt
  have := e.rb.isLt; have := e.rc.isLt; have := e.scope.isLt; have := e.order.isLt; have := e.hint.isLt
  simp only [extWord2]
  omega

theorem fld_extWord0 {op len : Nat} (e : Ext) (hl : len < 4) (ho : op < 256) :
    extWord0 op len e % 4 = len ∧ fld (extWord0 op len e) 2 8 = op ∧ fld (extWord0 op len e) 10 4 = e.fn.toNat ∧
    fld (extWord0 op len e) 14 10 = e.dst.toNat ∧ fld (extWord0 op len e) 24 4 = e.ty.toNat ∧ fld (extWord0 op len e) 28 3 = e.rnd.toNat ∧
    fld (extWord0 op len e) 31 1 = e.sat.toNat := by
  have := e.fn.isLt; have := e.dst.isLt; have := e.ty.isLt; have := e.rnd.isLt; have := e.sat.isLt
  simp only [extWord0, fld]
  omega

theorem fld_extWord1 (e : Ext) :
    fld (extWord1 e) 0 10 = e.a.toNat ∧ fld (extWord1 e) 10 10 = e.b.toNat ∧ fld (extWord1 e) 20 10 = e.c.toNat ∧ fld (extWord1 e) 30 2 = e.z.toNat := by
  have := e.a.isLt; have := e.b.isLt; have := e.c.isLt; have := e.z.isLt
  simp only [extWord1, fld]
  omega

theorem fld_extWord2 (e : Ext) :
    fld (extWord2 e) 0 10 = e.pred.toNat ∧ fld (extWord2 e) 10 1 = e.pen.toNat ∧ fld (extWord2 e) 11 1 = e.pneg.toNat ∧
    fld (extWord2 e) 12 1 = e.uni.toNat ∧ fld (extWord2 e) 13 4 = e.ra.toNat ∧ fld (extWord2 e) 17 4 = e.rb.toNat ∧
    fld (extWord2 e) 21 4 = e.rc.toNat ∧ fld (extWord2 e) 25 3 = e.scope.toNat ∧ fld (extWord2 e) 28 2 = e.order.toNat ∧
    fld (extWord2 e) 30 2 = e.hint.toNat := by
  have := e.pred.isLt; have := e.pen.isLt; have := e.pneg.isLt; have := e.uni.isLt; have := e.ra.isLt
  have := e.rb.isLt; have := e.rc.isLt; have := e.scope.isLt; have := e.order.isLt; have := e.hint.isLt
  simp only [extWord2, fld]
  omega

theorem extOf_extWords {op len : Nat} (e : Ext) (hl : len < 4) (ho : op < 256) : extOf (extWord0 op len e) (extWord1 e) (extWord2 e) = e := by
  obtain ⟨-, -, h1, h2, h3, h4, h5⟩ := fld_extWord0 e hl ho
  obtain ⟨k1, k2, k3, k4⟩ := fld_extWord1 e
  obtain ⟨m1, m2, m3, m4, m5, m6, m7, m8, m9, m10⟩ := fld_extWord2 e
  simp only [extOf, h1, h2, h3, h4, h5, k1, k2, k3, k4, m1, m2, m3, m4, m5, m6, m7, m8, m9, m10, BitVec.ofNat_toNat, BitVec.setWidth_eq]

/-- The fields of three words are all of them. -/
theorem extWord0_extOf (w0 w1 w2 : Nat) (h : w0 < 2 ^ 32) : extWord0 (fld w0 2 8) (w0 % 4) (extOf w0 w1 w2) = w0 := by
  simp only [extWord0, extOf, toNat_ofNat_fld]
  simp only [fld]
  omega

theorem extWord1_extOf (w0 w1 w2 : Nat) (h : w1 < 2 ^ 32) : extWord1 (extOf w0 w1 w2) = w1 := by
  simp only [extWord1, extOf, toNat_ofNat_fld]
  simp only [fld]
  omega

theorem extWord2_extOf (w0 w1 w2 : Nat) (h : w2 < 2 ^ 32) : extWord2 (extOf w0 w1 w2) = w2 := by
  simp only [extWord2, extOf, toNat_ofNat_fld]
  simp only [fld]
  omega

/-! The form of an instruction's words (R58): what `formNum` writes `formOf` reads, and the other way round. -/

/-- LEN stands in the first word. -/
theorem lenBytes_low32 (w : Nat) : lenBytes (w % 2 ^ (8 * 4)) = lenBytes w := by
  rw [← lenBytes_mod, ← lenBytes_mod w]
  congr 1
  omega

theorem four_le_lenBytes (w : Nat) : 4 ≤ lenBytes w := by
  rcases lenBytes_cases w with h | h | h <;> omega

theorem lenBytes_le (w : Nat) : lenBytes w ≤ 20 := by
  rcases lenBytes_cases w with h | h | h <;> omega

/-- The words of an extended form, with what stands after them, are read back. -/
theorem read_extWords {op len : Nat} (e : Ext) (hl : len < 4) (ho : op < 256) (hi : Nat) :
    let w := extWords op len e + 2 ^ 96 * hi
    w % 4 = len ∧ fld w 2 8 = op ∧ extOf (fld w 0 32) (fld w 32 32) (fld w 64 32) = e ∧ w / 2 ^ 96 = hi := by
  have h0 := extWord0_lt e hl ho
  have h1 := extWord1_lt e
  have h2 := extWord2_lt e
  obtain ⟨k1, k2, -⟩ := fld_extWord0 e hl ho
  have e0 : fld (extWords op len e + 2 ^ 96 * hi) 0 32 = extWord0 op len e := by simp only [extWords_eq, fld]; omega
  have e1 : fld (extWords op len e + 2 ^ 96 * hi) 32 32 = extWord1 e := by simp only [extWords_eq, fld]; omega
  have e2 : fld (extWords op len e + 2 ^ 96 * hi) 64 32 = extWord2 e := by simp only [extWords_eq, fld]; omega
  refine ⟨?_, ?_, ?_, ?_⟩
  · simp only [extWords_eq]; omega
  · simp only [extWords_eq, fld] at k2 ⊢; omega
  · rw [e0, e1, e2, extOf_extWords e hl ho]
  · simp only [extWords_eq]; omega

/-- The words of an extended form are its fields. -/
theorem extWords_read (w : Nat) :
    extWords (fld w 2 8) (w % 4) (extOf (fld w 0 32) (fld w 32 32) (fld w 64 32)) + 2 ^ 96 * (w / 2 ^ 96) = w := by
  have h0 := fld_lt w 0 32
  have h1 := fld_lt w 32 32
  have h2 := fld_lt w 64 32
  have e0 := extWord0_extOf (fld w 0 32) (fld w 32 32) (fld w 64 32) h0
  have hop : fld (fld w 0 32) 2 8 = fld w 2 8 := fld_fld w 0 32 2 8 (by omega)
  have hlen : fld w 0 32 % 4 = w % 4 := by simp only [fld]; omega
  rw [hop, hlen] at e0
  rw [extWords_eq, e0, extWord1_extOf _ _ _ h1, extWord2_extOf _ _ _ h2]
  simp only [fld]
  omega

/-- The words that a form stands for have its opcode, are read back as the form, and are as many as LEN says. -/
theorem read_formNum {op : Nat} (f : Form) (ho : op < 256) :
    fld (formNum op f) 2 8 = op ∧ formOf (formNum op f) = f ∧ formNum op f < 2 ^ (8 * lenBytes (formNum op f)) := by
  cases f with
  | cmp u b a d =>
    obtain ⟨h0, h1, h2, h3, h4, h5, h6⟩ := fld_compactWord op 0 u b a d (by omega) ho 0
    rw [Nat.mul_zero, Nat.add_zero] at h0 h1 h2 h3 h4 h5 h6
    refine ⟨h1, ?_, ?_⟩
    · simp only [formOf, formNum, h0, h2, h3, h4, h5, BitVec.ofNat_toNat, BitVec.setWidth_eq]
    · simp only [formNum, lenBytes, h0]; omega
  | cmpLit u b a d l =>
    have hl := l.isLt
    obtain ⟨h0, h1, h2, h3, h4, h5, h6⟩ := fld_compactWord op 2 u b a d (by omega) ho l.toNat
    have h7 : fld (formNum op (.cmpLit u b a d l)) 32 64 = l.toNat := by
      simp only [fld, formNum, h6]; omega
    refine ⟨h1, ?_, ?_⟩
    · rw [formOf, h7]
      simp only [formNum, h0, h2, h3, h4, h5, BitVec.ofNat_toNat, BitVec.setWidth_eq]
    · simp only [formNum, lenBytes, h0]; omega
  | ext e =>
    obtain ⟨h0, h1, h2, h3⟩ := read_extWords e (by omega : 1 < 4) ho 0
    rw [Nat.mul_zero, Nat.add_zero] at h0 h1 h2 h3
    refine ⟨h1, ?_, ?_⟩
    · simp only [formOf, formNum, h0, h2]
    · simp only [formNum, lenBytes, h0]; omega
  | extLit e l =>
    have hl := l.isLt
    obtain ⟨h0, h1, h2, h3⟩ := read_extWords e (by omega : 3 < 4) ho l.toNat
    have h7 : fld (formNum op (.extLit e l)) 96 64 = l.toNat := by
      simp only [fld, formNum, h3]; omega
    refine ⟨h1, ?_, ?_⟩
    · rw [formOf, h7]
      simp only [formNum, h0, h2, BitVec.ofNat_toNat, BitVec.setWidth_eq]
    · simp only [formNum, lenBytes, h0]; omega

/-- Words, as many as LEN says, are what their form writes. -/
theorem formNum_read (w : Nat) (h : w < 2 ^ (8 * lenBytes w)) : formNum (fld w 2 8) (formOf w) = w := by
  have hc := compactWord_fld w
  have he := extWords_read w
  have lit : ∀ lo, (BitVec.ofNat 64 (fld w lo 64)).toNat = w / 2 ^ lo % 2 ^ 64 := fun lo => toNat_ofNat_fld w lo 64
  have h4 : w % 4 = 0 ∨ w % 4 = 1 ∨ w % 4 = 2 ∨ w % 4 = 3 := by omega
  rcases h4 with h4 | h4 | h4 | h4 <;> simp only [lenBytes, h4] at h hc he <;>
    simp only [formOf, h4, formNum, lit, toNat_ofNat_fld] <;> omega

/-! The opcode map (spec/03 R67, R68): which opcodes have instructions, and which of them a compact word of its own. -/

/-- What holds of every byte by its two hexadecimal digits. -/
theorem forall_byte {p : Nat → Prop} (h : ∀ a < 16, ∀ b < 16, p (16 * a + b)) {op : Nat} (ho : op < 256) : p op := by
  have := h (op / 16) (by omega) (op % 16) (by omega)
  rwa [Nat.div_add_mod] at this

theorem ofForm_isSome_congr (op : Nat) (f g : Form) : (ofForm op f).isSome = (ofForm op g).isSome := by
  unfold ofForm
  split <;> rfl

theorem ofCompact_isSome_congr (op w v : Nat) : (ofCompact op w).isSome = (ofCompact op v).isSome := by
  unfold ofCompact
  split <;> rfl

/-- An opcode has instructions where the opcode map lists it. -/
theorem ofForm_isSome {op : Nat} (f : Form) (ho : op < 256) : (ofForm op f).isSome = (opInfo op).isSome := by
  have map : ∀ a < 16, ∀ b < 16, (ofForm (16 * a + b) (.ext {})).isSome = (opInfo (16 * a + b)).isSome := by decide
  rw [ofForm_isSome_congr op f (.ext {})]
  exact forall_byte (p := fun op => (ofForm op (.ext {})).isSome = (opInfo op).isSome) map ho

/-- It has a compact word where it is compact-eligible. -/
theorem ofCompact_isSome {op : Nat} (w : Nat) (ho : op < 256) : (ofCompact op w).isSome = ((opInfo op).map (fun i => i.elig)).getD false := by
  have map : ∀ a < 16, ∀ b < 16, (ofCompact (16 * a + b) 0).isSome = ((opInfo (16 * a + b)).map (fun i => i.elig)).getD false := by decide
  rw [ofCompact_isSome_congr op w 0]
  exact forall_byte (p := fun op => (ofCompact op 0).isSome = ((opInfo op).map (fun i => i.elig)).getD false) map ho

/-- An instruction of an opcode in one of its forms: its words are the form's, and it is the form's own row unless the word is a compact
one with a row of its own. -/
theorem ofForm_spec {op : Nat} {f : Form} {i : Instr} (h : ofForm op f = some i) :
    encodeNum i = formNum op f ∧ i.isWord = true ∧ i.canonical = f.ownRow op := by
  unfold ofForm at h
  split at h <;> cases h <;> exact ⟨rfl, rfl, rfl⟩

/-- A compact word's instruction: its words are the fields it was read from. -/
theorem ofCompact_spec {op w : Nat} {i : Instr} (h : ofCompact op w = some i) :
    (encodeNum i = compactWord op 0 (fld w 31 1) (fld w 24 7) (fld w 17 7) (fld w 10 7) ∨ encodeNum i = 4 * op + 2 ^ 10 * fld w 10 22) ∧
    i.isWord = true ∧ i.canonical = true := by
  unfold ofCompact at h
  split at h <;> cases h
  all_goals exact ⟨by simp only [encodeNum, toNat_ofNat_fld, true_or, or_true], rfl, rfl⟩

/-- `mk` makes the compact words of an opcode with operands (R59). -/
structure OperandRow (op : Nat) (mk : BitVec 1 → BitVec 7 → BitVec 7 → BitVec 7 → Instr) : Prop where
  encodes : ∀ u b a d, encodeNum (mk u b a d) = compactWord op 0 u.toNat b.toNat a.toNat d.toNat
  decodes : ∀ w, ofCompact op w = some (mk (.ofNat 1 (fld w 31 1)) (.ofNat 7 (fld w 24 7)) (.ofNat 7 (fld w 17 7)) (.ofNat 7 (fld w 10 7)))
  major : op < 256

/-- `mk` makes the compact words of a control opcode (R60). -/
structure ControlRow (op : Nat) (mk : BitVec 22 → Instr) : Prop where
  encodes : ∀ rest, encodeNum (mk rest) = 4 * op + 2 ^ 10 * rest.toNat
  decodes : ∀ w, ofCompact op w = some (mk (.ofNat 22 (fld w 10 22)))
  major : op < 256

/-- The kind of row that an instruction word belongs to. -/
inductive WordRow : Instr → Prop where
  | form {op : Nat} {f : Form} {i : Instr} (encodes : encodeNum i = formNum op f) (decodes : ofForm op f = some i) (major : op < 256) : WordRow i
  | operands {op : Nat} {mk : BitVec 1 → BitVec 7 → BitVec 7 → BitVec 7 → Instr} (row : OperandRow op mk) (u b a d) : WordRow (mk u b a d)
  | control {op : Nat} {mk : BitVec 22 → Instr} (row : ControlRow op mk) (rest) : WordRow (mk rest)
  | reserved (w) : WordRow (.reservedMajorOpcode w)

theorem wordRow {i : Instr} (h : i.isWord = true) : WordRow i := by
  cases i
  case reservedMajorOpcode w => exact .reserved w
  all_goals try cases h
  any_goals exact .form rfl rfl (by decide)
  any_goals exact .operands ⟨fun _ _ _ _ => rfl, fun _ => rfl, by decide⟩ _ _ _ _
  all_goals exact .control ⟨fun _ => rfl, fun _ => rfl, by decide⟩ _

/-! One word (R58, R67, R70): a compact word with a row of its own, else the form of its opcode, else reserved. -/

/-- A word's form is not a compact word with a row of its own where the word is none. -/
theorem ownRow_formOf (w : Nat) : (formOf w).ownRow (fld w 2 8) = true ↔ (w % 4 = 0 → ofCompact (fld w 2 8) w = none) := by
  have hc := ofCompact_isSome w (fld_lt w 2 8)
  have h4 : w % 4 = 0 ∨ w % 4 = 1 ∨ w % 4 = 2 ∨ w % 4 = 3 := by omega
  rcases h4 with h4 | h4 | h4 | h4 <;> simp [formOf, h4, Form.ownRow, ← hc]

theorem decodeNum_compact {w : Nat} {i : Instr} (h0 : w % 4 = 0) (h : ofCompact (fld w 2 8) w = some i) : decodeNum w = i := by
  simp only [decodeNum, h0, h, if_true]

theorem decodeNum_ownRow {w : Nat} (h : (formOf w).ownRow (fld w 2 8) = true) :
    decodeNum w = (ofForm (fld w 2 8) (formOf w)).getD (.reservedMajorOpcode (.ofNat 160 w)) := by
  have hn : (if w % 4 = 0 then ofCompact (fld w 2 8) w else none) = none := by
    split
    · exact (ownRow_formOf w).mp h ‹_›
    · rfl
  simp only [decodeNum, hn]
  cases ofForm (fld w 2 8) (formOf w) <;> rfl

theorem decodeNum_reserved {w : Nat} (h : opInfo (w / 4 % 256) = none) : decodeNum w = .reservedMajorOpcode (.ofNat 160 w) := by
  have hop : opInfo (fld w 2 8) = none := h
  have hc : ofCompact (fld w 2 8) w = none := by simpa [hop] using ofCompact_isSome w (fld_lt w 2 8)
  have hf : ofForm (fld w 2 8) (formOf w) = none := by simpa [hop] using ofForm_isSome (formOf w) (fld_lt w 2 8)
  rw [decodeNum_ownRow ((ownRow_formOf w).mpr fun _ => hc), hf, Option.getD_none]

theorem rawReserved_len (w : Nat) : (rawReserved w).len = lenBytes w := rfl

/-- The number that a canonical instruction word encodes to decodes to it, and is as long as LEN says. -/
theorem decodeNum_encodeNum {i : Instr} (hw : i.isWord = true) (hc : i.canonical = true) :
    decodeNum (encodeNum i) = i ∧ encodeNum i < 2 ^ (8 * lenBytes (encodeNum i)) := by
  cases wordRow hw with
  | @form op f i encodes decodes major =>
    obtain ⟨hop, hform, hlt⟩ := read_formNum f major
    rw [(ofForm_spec decodes).2.2] at hc
    rw [encodes]
    exact ⟨by rw [decodeNum_ownRow (by rwa [hop, hform]), hop, hform, decodes]; rfl, hlt⟩
  | @operands op mk row u b a d =>
    obtain ⟨h0, h1, h2, h3, h4, h5, h6⟩ := fld_compactWord op 0 u b a d (by omega) row.major 0
    rw [Nat.mul_zero, Nat.add_zero] at h0 h1 h2 h3 h4 h5 h6
    rw [row.encodes]
    refine ⟨decodeNum_compact h0 ?_, ?_⟩
    · simp only [h1, row.decodes, h2, h3, h4, h5, BitVec.ofNat_toNat, BitVec.setWidth_eq]
    · simp only [lenBytes, h0]; omega
  | @control op mk row rest =>
    have hr := rest.isLt
    have hop := row.major
    have h0 : (4 * op + 2 ^ 10 * rest.toNat) % 4 = 0 := by omega
    have h1 : fld (4 * op + 2 ^ 10 * rest.toNat) 2 8 = op := by simp only [fld]; omega
    have h2 : fld (4 * op + 2 ^ 10 * rest.toNat) 10 22 = rest.toNat := by simp only [fld]; omega
    rw [row.encodes]
    refine ⟨decodeNum_compact h0 ?_, ?_⟩
    · simp only [h1, row.decodes, h2, BitVec.ofNat_toNat, BitVec.setWidth_eq]
    · simp only [lenBytes, h0]; omega
  | reserved w =>
    simp only [Instr.canonical, Bool.and_eq_true, Option.isNone_iff_eq_none, rawReserved_len] at hc
    obtain ⟨hop, hlt⟩ := hc
    refine ⟨?_, of_decide_eq_true hlt⟩
    simp only [encodeNum, decodeNum_reserved hop, BitVec.ofNat_toNat, BitVec.setWidth_eq]

/-- A number as long as LEN says decodes to a canonical instruction word, which encodes to it. -/
theorem encodeNum_decodeNum {w : Nat} (h : w < 2 ^ (8 * lenBytes w)) :
    (decodeNum w).isWord = true ∧ (decodeNum w).canonical = true ∧ encodeNum (decodeNum w) = w := by
  by_cases hown : (formOf w).ownRow (fld w 2 8) = true
  · cases hf : ofForm (fld w 2 8) (formOf w) with
    | some i =>
      obtain ⟨he, hw, hc⟩ := ofForm_spec hf
      rw [decodeNum_ownRow hown, hf, Option.getD_some]
      exact ⟨hw, hc.trans hown, he.trans (formNum_read w h)⟩
    | none =>
      have hop : opInfo (w / 4 % 256) = none := by
        change opInfo (fld w 2 8) = none
        simpa [hf] using ofForm_isSome (formOf w) (fld_lt w 2 8)
      have hlt : w < 2 ^ 160 := Nat.lt_of_lt_of_le h (Nat.pow_le_pow_right (by omega) (by have := lenBytes_le w; omega))
      have hn : (BitVec.ofNat 160 w).toNat = w := by simpa using hlt
      rw [decodeNum_reserved hop]
      refine ⟨rfl, ?_, hn⟩
      simp only [Instr.canonical, hn, hop, rawReserved_len, h, Option.isNone_none, decide_true, Bool.and_self]
  · rw [ownRow_formOf, Classical.not_imp] at hown
    obtain ⟨h0, hsome⟩ := hown
    obtain ⟨i, hi⟩ := Option.ne_none_iff_exists'.mp hsome
    obtain ⟨he, hw, hc⟩ := ofCompact_spec hi
    rw [decodeNum_compact h0 hi]
    refine ⟨hw, hc, ?_⟩
    simp only [lenBytes, h0] at h
    rcases he with he | he
    · have := compactWord_fld w
      rw [h0] at this
      omega
    · simp only [fld] at he; omega

/-! Bytes in memory order (R58). -/

/-- What `decode` answers, by the bytes of the words that it finds. -/
theorem decode_numBytes {n : Nat} (h : n < 2 ^ (8 * lenBytes n)) (rest : List Byte) :
    decode (numBytes (lenBytes n) n ++ rest) = .ok (decodeNum n, lenBytes n) := by
  have h4 := takeBytes_numBytes (four_le_lenBytes n) n rest
  have hn := takeBytes_numBytes (Nat.le_refl (lenBytes n)) n rest
  rw [Nat.mod_eq_of_lt h] at hn
  simp only [decode, h4, lenBytes_low32, hn]

/-- Decoded bytes are those of a number as long as LEN says. -/
theorem numBytes_of_decode {bs : List Byte} {i : Instr} {n : Nat} (h : decode bs = .ok (i, n)) :
    ∃ w, i = decodeNum w ∧ n = lenBytes w ∧ w < 2 ^ (8 * lenBytes w) ∧ numBytes (lenBytes w) w = bs.take (lenBytes w) ∧ lenBytes w ≤ bs.length := by
  unfold decode at h
  cases h4 : takeBytes 4 bs with
  | none => rw [h4] at h; cases h
  | some w0 =>
    cases hw : takeBytes (lenBytes w0) bs with
    | none => simp only [h4, hw] at h; cases h
    | some w =>
      simp only [h4, hw] at h
      cases h
      obtain ⟨hlt, hb⟩ := numBytes_of_takeBytes hw
      have hle : ¬ bs.length < lenBytes w0 := fun hs => by rw [takeBytes_eq_none_iff.mpr hs] at hw; cases hw
      have hlen : lenBytes w0 = lenBytes w := by
        rw [← List.take_append_drop (lenBytes w0) bs, ← hb, takeBytes_numBytes (four_le_lenBytes w0)] at h4
        rw [← Option.some.inj h4, lenBytes_low32]
      rw [hlen] at hlt hb hle ⊢
      exact ⟨w, rfl, rfl, hlt, hb, by omega⟩

/-- Bytes as many as LEN asks for are decoded. -/
theorem decode_isOk {bs : List Byte} {w0 : Nat} (h4 : takeBytes 4 bs = some w0) (h : lenBytes w0 ≤ bs.length) : ∃ i n, decode bs = .ok (i, n) := by
  cases hw : takeBytes (lenBytes w0) bs with
  | none => have := takeBytes_eq_none_iff.mp hw; omega
  | some w => exact ⟨decodeNum w, lenBytes w0, by simp only [decode, h4, hw]⟩

/-- A word without illegal and reserved conditions is its own row's. -/
theorem wellFormed_canonical {i : Instr} (h : i.wellFormed = true) : i.isWord = true ∧ i.canonical = true := by
  unfold Instr.wellFormed at h
  obtain ⟨hc, hr⟩ := Bool.and_eq_true_iff.mp h
  refine ⟨?_, hc⟩
  cases hi : rawInstr i with
  | none => rw [hi] at hr; cases hr
  | some r => simp [Instr.isWord, hi]

end Sys2Proof

namespace Sys2Proof.Settled
open Sys2Proof.Machine

/-- Settles O52: each word is decoded by evaluation. -/
theorem decodeWords : Obligations.DecodeWords := by
  unfold Obligations.DecodeWords
  decide

/-- Settles O53: an instruction's words are the bytes of its number, which decodes to it. -/
theorem decodeOfEncode : Obligations.DecodeOfEncode := by
  refine ⟨fun i rest hw hc => ?_, fun i => wellFormed_canonical⟩
  obtain ⟨hd, hlt⟩ := decodeNum_encodeNum hw hc
  rw [wordsBytes_encode, decode_numBytes hlt, hd, length_numBytes]

/-- Settles O54: bytes that decode are those of a number, to which its instruction encodes. -/
theorem encodeOfDecode : Obligations.EncodeOfDecode := by
  refine fun bs => ⟨fun i n h => ?_, fun b0 b1 b2 b3 rest hbs hlen => ?_, fun hlt => ?_⟩
  · obtain ⟨w, rfl, rfl, hlt, hb, hle⟩ := numBytes_of_decode h
    obtain ⟨hw, hc, he⟩ := encodeNum_decodeNum hlt
    exact ⟨hw, hc, hle, by rw [wordsBytes_encode, he, hb]⟩
  · cases h4 : takeBytes 4 bs with
    | none =>
      have := takeBytes_eq_none_iff.mp h4
      simp [hbs] at this
      omega
    | some w0 =>
      refine decode_isOk h4 ?_
      have hw0 : lenBytes w0 = lenBytes b0.toNat := by
        subst hbs
        simp only [takeBytes, Option.some.injEq] at h4
        have : w0 % 4 = b0.toNat % 4 := by omega
        simp only [lenBytes, this]
      omega
  · rw [decode, takeBytes_eq_none_iff.mpr hlt]

end Sys2Proof.Settled
end

section
namespace Sys2Proof.Machine

/-! The checks of an instruction word in their order (spec/03 R71), and the traps that close the poison window (spec/25 R418). -/

/-- The first check of R71 that refuses decides. -/
theorem staticTrap_eq {r : Raw} {info : OpInfo} (hi : opInfo r.op = some info) (role k tiles : Nat) (service : Bool) :
    staticTrap r role service k tiles =
      if isIllegal r then some .illegal
      else if isReserved r info then some .reserved
      else if !service && roleBit r info != 0 && (role &&& roleBit r info) == 0 then some .role
      else if !operandOk r info then some .operandForm
      else if !boundOk r info k tiles then some .registerBound
      else none := by
  unfold staticTrap; rw [hi]

/-- No role is missing at service level, where the mask has it, or where none is asked for (R18). -/
theorem role_present {r : Raw} {info : OpInfo} {role : Nat} {service : Bool} (h : service = true ∨ role &&& roleBit r info ≠ 0 ∨ roleBit r info = 0) :
    (!service && roleBit r info != 0 && (role &&& roleBit r info) == 0) = false := by
  rcases h with h | h | h <;> simp [h]

/-- A closing condition holds at user level, in an open window, outside replay. -/
theorem closing_some {x : Ctx} {k : Nat} (h : closing x = some k) : x.g.service = false ∧ k < 4 := by
  unfold closing at h
  split at h
  · cases h
  · rename_i hopen
    simp only [Bool.or_eq_true, not_or, Bool.not_eq_true] at hopen
    obtain ⟨⟨hs, -⟩, -⟩ := hopen
    refine ⟨hs, ?_⟩
    split at h
    · cases h; omega
    · split at h
      · cases h; omega
      · split at h <;> cases h
        omega

/-- In an open window, at user level and outside replay, the closing conditions are tried in order. -/
theorem closing_open {x : Ctx} (hs : x.g.service = false) (hr : x.g.replay = none) (hw : x.g.win.opened = true) :
    closing x =
      if (dstMarks x &&& x.g.win.marked).toNat ≠ 0 ∧ workLanes x ≠ [] then some 1
      else if 64 ≤ x.g.win.gcnt then some 2
      else if x.r.op = 0x67 then some 3
      else none := by
  have hin : x.inReplay = false := by simp [Ctx.inReplay, hr]
  simp only [closing, hs, hin, hw, Bool.not_true, Bool.or_self, Bool.false_eq_true, if_false, Bool.and_eq_true, bne_iff_ne, Bool.not_eq_true',
    List.isEmpty_eq_false_iff, beq_iff_eq]

/-- A closing condition takes the place of an effect that raises nothing. -/
theorem exec_closing {i : Instr} {s : State} {x : Ctx} (hx : Issues i s x) (ha : addrBreak x = none) (hw : wordTrap x = none) {k : Nat}
    (hk : closing x = some k) {s1 : State} {o : Out} (hb : bodyOf i x = .ok s1 o) :
    exec i s = .next (trapNow x { cause := .poison, lanes := x.mask, close := k }) := by
  obtain ⟨hs, -⟩ := closing_some hk
  rw [hx.exec]
  obtain ⟨xs, g, b, gr, r, info, mask, pc⟩ := x
  obtain ⟨_, h2, h3, _, h5, h6, h7, h8, h9⟩ := hx
  dsimp only at *
  subst h2 h7 h8 h9
  simp only [runWord, h3, h5, h6]
  rw [ha]; dsimp only; rw [hw]
  simp only [hs, Bool.false_and, Bool.false_eq_true, if_false, settleRes]
  rw [hk, hb]

/-- The record of a trap that is taken. -/
theorem trapNow_tr {x : Ctx} (t : TrapInfo) (hs : x.g.service = false) {g' : Group} (hg : mfind x.g.gid (trapNow x t).groups = some g') :
    g'.tr = trapRec x.g x.pc t := by
  unfold trapNow takeTrap at hg
  simp only [hs, Bool.false_eq_true, if_false, slotTick, tick, setGroup, mfind_minsert, if_true] at hg
  cases hg
  rfl

/-- CLOSE stands in bits 10 and 9 of TR_CAUSE (R413). -/
theorem trapRec_close (g : Group) (pc : Nat) (t : TrapInfo) (h : t.close < 4) : bits (trapRec g pc t).cause 9 2 = t.close := by
  have := causeCode_le t.cause
  simp only [trapRec, bits]
  rw [Nat.shiftRight_eq_div_pow]
  repeat' split
  all_goals omega

/-- A POISON trap for all of ISSUE at user level, with its CLOSE. -/
theorem trapNow_poison {x : Ctx} {k : Nat} (hs : x.g.service = false) (hk : k < 4) :
    ∃ g', Traps x (trapNow x { cause := .poison, lanes := x.mask, close := k }) .poison x.mask g' ∧ bits g'.tr.cause 9 2 = k := by
  obtain ⟨g', ht, -⟩ := trapNow_spec x { cause := .poison, lanes := x.mask, close := k } hs
  refine ⟨g', ht, ?_⟩
  rw [trapNow_tr _ hs ht.group]
  exact trapRec_close _ _ _ hk

/-- An instruction of R117 raises nothing of its own, and neither does a compact EXIT that has no recorded fault and no poisoned
predicate. -/
theorem bodyOf_raisesNothing {i : Instr} {x : Ctx} (hi : (exactFn i).isSome = true ∨ ∃ r, i = .exitOp r) (hf : x.g.hfault = none) (hp : ppLanes x = []) :
    ∃ s1 o, bodyOf i x = .ok s1 o := by
  rcases hi with hi | ⟨r, rfl⟩
  · cases i
    all_goals try cases hi
    all_goals exact ⟨_, _, rfl⟩
  · change ∃ s1 o, bodyExit x = .ok s1 o
    simp only [bodyExit, haulFault_none hf, ctlPoison, hp, List.isEmpty_nil, Bool.not_true, Bool.false_eq_true, if_false]
    exact ⟨_, _, rfl⟩

/-- WAITC and TWAIT trap for a poisoned operand. -/
theorem bodyOf_wait_poison {i : Instr} {x : Ctx} (hi : (∃ f, i = .waitc f) ∨ ∃ f, i = .twait f) (hf : x.g.hfault = none) (hp : ppLanes x = [])
    (hb : (uB x).2 = true) : bodyOf i x = .trap { cause := .poison, lanes := x.mask, close := 0 } := by
  have hc : ∀ k, ctlPoison x true k = trapAll x .poison := fun k => by simp [ctlPoison, hp]
  rcases hi with ⟨f, rfl⟩ | ⟨f, rfl⟩
  · change bodyWaitc x = _
    simp only [bodyWaitc, haulFault_none hf, hb, hc]
    rfl
  · change bodyTwait x = _
    simp only [bodyTwait, hb, hc]
    rfl

end Sys2Proof.Machine

namespace Sys2Proof.Settled
open Sys2Proof.Machine

/-- Settles O19: the checks by their order in `staticTrap`, the closing conditions by theirs in `closing`. -/
theorem checkOrder : Obligations.CheckOrder := by
  refine ⟨fun r info role k tiles service hi => ?_, fun i c s x hx ha hs hc => (wordTrap_outcome hx ha hc).1 hs, fun x => ⟨fun h => ?_, fun c h => ?_⟩,
    fun i s x k hi hx ha hw hk hf hp => ?_, fun x hs hr hw => ?_, fun i s x hi hx hg _ hs hf hp hb => ?_⟩
  · rw [staticTrap_eq hi]
    refine ⟨fun h => by simp [h], fun h1 h2 => by simp [h1, h2], fun h1 h2 h3 h4 h5 => by simp [h1, h2, h3, h4, h5], fun h => ?_, fun h1 h2 h3 => ?_⟩
    · rw [role_present (.inr (.inr h))]
      simp only [Bool.false_eq_true, if_false]
      repeat' split
      all_goals simp
    · rw [role_present h3]
      exact ⟨fun h => by simp [h1, h2, h], fun h h' => by simp [h1, h2, h, h'], fun h h' => by simp [h1, h2, h, h']⟩
  · simp only [wordTrap, h]
  · simp only [wordTrap, h]
    split <;> rfl
  · obtain ⟨s1, o, hb⟩ := bodyOf_raisesNothing hi hf hp
    obtain ⟨hs, hk4⟩ := closing_some hk
    obtain ⟨g', ht, hbits⟩ := trapNow_poison (x := x) hs hk4
    exact ⟨_, g', exec_closing hx ha hw hk hb, ht, hbits⟩
  · rw [closing_open hs hr hw]
    refine ⟨fun hm hl => ?_, fun hm hn => ?_, fun hm hn => ?_⟩
    · exact if_pos ⟨hm, hl⟩
    · rw [if_neg (fun h => h.1 hm), if_pos hn]
    · rw [if_neg (fun h => h.1 hm), if_neg (by omega)]
      simp
  · obtain ⟨g', ht, hbits⟩ := trapNow_poison (x := x) (k := 0) hs (by omega)
    exact ⟨_, g', exec_trap hx hg _ (bodyOf_wait_poison hi hf hp hb), ht, hbits⟩

end Sys2Proof.Settled
end

section
namespace Sys2Proof.Machine

/-! The registers that CSRR, CSRW and TIME reach (spec/25 R417, R421, R422). -/

theorem userReads_iff (c : Csr) : c.userReads = true ↔ c = .devstat ∨ c = .pwrstat := by
  cases c <;> simp [Csr.userReads]

/-- An access that its level does not allow takes the privilege trap. -/
theorem csrAccess_denied {x : Ctx} (hc : Calm x) (he : enLanes x ≠ []) {c : Csr} (hn : csrOf ((uB x).1 % 2 ^ 32) = some c) {write : Bool}
    (hd : ((!x.g.service && (write || !c.userReads)) || (write && !c.writable)) = true) (val : Nat × Bool) (k : Csr → Res) :
    csrAccess x write val k = trapAll x .privilege := by
  simp only [csrAccess, hc.uB, hn, hd, List.isEmpty_eq_false_iff.mpr he, Bool.and_false, Bool.false_eq_true, if_false, if_true]

/-- One that is allowed is performed. -/
theorem csrAccess_allowed {x : Ctx} (hc : Calm x) (he : enLanes x ≠ []) {c : Csr} (hn : csrOf ((uB x).1 % 2 ^ 32) = some c) {write : Bool}
    (hd : ((!x.g.service && (write || !c.userReads)) || (write && !c.writable)) = false) {val : Nat × Bool} (hv : val.2 = false) (k : Csr → Res) :
    csrAccess x write val k = k c := by
  simp only [csrAccess, hc.uB, hn, hd, hv, ctlPoison_clean x hc.clean, List.isEmpty_eq_false_iff.mpr he, Bool.and_false, Bool.false_eq_true, if_false]

theorem bodyTime_calm {x : Ctx} (hc : Calm x) (he : enLanes x ≠ []) :
    bodyTime x = .ok (setGroup (writeDst x x.g x.r.d 2 0 (if x.r.fn = 0 then x.s.ptp.ns % 2 ^ 64 else x.s.cycle % 2 ^ 64) false) x.s) {} := by
  simp only [bodyTime, ctlPoison_clean x hc.clean, List.isEmpty_eq_false_iff.mpr he, Bool.and_false, Bool.false_eq_true, if_false]

/-- The effect of CSRW that its level allows is `csrWrite` of the value that `csrNew` gives. -/
theorem bodyCsrw_allowed {x : Ctx} (hc : Calm x) (he : enLanes x ≠ []) {c : Csr} (hn : csrOf ((uB x).1 % 2 ^ 32) = some c) (hs : x.g.service = true)
    (hw : c.writable = true) : bodyCsrw x = csrWrite x c (csrNew x c) :=
  csrAccess_allowed hc he hn (by simp [hs, hw]) hc.uC _

/-- An effect that writes one clean value to a uniform pair. -/
theorem writesOnce_pair {i : Instr} {s : State} {x : Ctx} (hx : Issues i s x) (hg : Goes x) (hc : Calm x) (hd : isS x.r.d = true) {v : Nat}
    (hb : bodyOf i x = .ok (setGroup (writeDst x x.g x.r.d 2 0 v false) x.s) {}) : WritesOnce i s x 2 v := by
  have hcode : 768 ≤ x.r.d ∧ x.r.d < 928 := by simpa [isS] using hd
  have hlc : isLc x.r.d = false := by simp [isLc]; omega
  have hv : ∀ k, k < 2 → isV (x.r.d + k) = isV x.r.d := fun k hk => by simp [isV]; omega
  obtain ⟨t, g', he, hf, hout, hkeep, hw, hregs⟩ := exec_writes (bodyOf i) hx hg hc hx.exec 2 (fun _ => v) {} [0] hlc hv
    (by simp) (by simp) (fun _ _ k hk => by omega) hb
  refine ⟨t, g', he, hf, hout, hkeep, hw 0 (by simp), fun code lane h1 h2 ho => hregs code lane h1 h2 (.inl ?_)⟩
  rcases ho with ho | ⟨hcv, -⟩
  · exact ho
  · simp [isV] at hcv; omega

/-- An effect that is a trap for all of ISSUE, at user level and at service level (R410, R411). -/
theorem exec_trapAll {i : Instr} {s : State} {x : Ctx} {c : Cause} (hx : Issues i s x) (hg : Goes x) (hb : bodyOf i x = trapAll x c) :
    (x.g.service = false → ∃ t g', exec i s = .next t ∧ Traps x t c x.mask g') ∧
    (x.g.service = true → exec i s = .next (slotTick x.g (beatsOf x.mask) (partFatal (partOf s x.g) (coreOf s x.g) s))) := by
  have he := exec_trap hx hg { cause := c, lanes := x.mask } hb
  refine ⟨fun hs => ?_, fun hs => ?_⟩
  · obtain ⟨g', ht, -⟩ := trapNow_spec x { cause := c, lanes := x.mask } hs
    exact ⟨_, g', he, ht⟩
  · rw [he, trapNow_double x _ hs, hx.st]

end Sys2Proof.Machine

namespace Sys2Proof.Settled
open Sys2Proof.Machine

/-- Settles O25: what the level allows is performed, all else traps. -/
theorem registerAccess : Obligations.RegisterAccess := by
  refine ⟨⟨fun f s x c hx hg hc he hn hd => ⟨fun hl => ?_, fun hs h1 h2 => ?_⟩, fun f s x hx hg hc he hd => ?_⟩,
    fun f s x c hx hg hc he hn => ⟨fun hs => ?_, fun hs => ?_⟩⟩
  · have hr : ((!x.g.service && (false || !c.userReads)) || (false && !c.writable)) = false := by
      rcases hl with h | h
      · simp [h]
      · simp [(userReads_iff c).mpr h]
    rw [← hx.st]
    exact writesOnce_pair (hx.st ▸ hx) hg hc hd (csrAccess_allowed hc he hn hr rfl _)
  · have hr : c.userReads = false := by
      rw [← Bool.not_eq_true, userReads_iff]
      exact fun h => h.elim h1 h2
    exact (exec_trapAll hx hg (csrAccess_denied hc he hn (by simp [hs, hr]) _ _)).1 hs
  · rw [← hx.st]
    exact writesOnce_pair (hx.st ▸ hx) hg hc hd (bodyTime_calm hc he)
  · exact (exec_trapAll hx hg (csrAccess_denied hc he hn (by simp [hs]) _ _)).1 hs
  · have write : ∀ {s1 o}, c.writable = true → csrWrite x c (csrNew x c) = .ok s1 o → EndsWith (.csrw f) s x s1 o :=
      fun hw hk => hx.endsWith hg ((bodyCsrw_allowed hc he hn hs hw).trans hk)
    have hst := hx.st
    subst hst
    refine ⟨fun k hk => ?_, fun k hk => ?_, fun hk => ?_, fun hk => ?_, fun hk ht => ?_, fun hw => ?_⟩
    · subst hk
      exact write rfl rfl
    · subst hk
      exact write rfl rfl
    · subst hk
      exact write rfl rfl
    · subst hk
      exact write rfl rfl
    · subst hk
      exact write rfl (by simp only [csrWrite, ht, List.isEmpty_nil, Bool.not_true, Bool.false_eq_true, if_false]; rfl)
    · exact (exec_trapAll hx hg (csrAccess_denied hc he hn (by simp [hw]) _ _)).2 hs

end Sys2Proof.Settled
end

section
namespace Sys2Proof.Machine

/-! The state after reset (spec/25 R427): nothing is listed, so every cell reads its default. -/

theorem getPart_reset (p : Nat) : getPart State.reset p = {} := rfl

theorem getCore_reset (c : Nat) : getCore State.reset c = {} := rfl

theorem getBank_default (k : Nat) : getBank {} k = { mode := if k < 4 then 0 else 1 } := rfl

end Sys2Proof.Machine

namespace Sys2Proof.Settled
open Sys2Proof.Machine

/-- Settles O60: no partition and no core is listed, and every other part of the state stands at its default. -/
theorem afterReset : Obligations.AfterReset := by
  refine ⟨fun p => ?_, fun c k => ?_, fun n => rfl, fun k => rfl, fun p c => rfl, ?_⟩
  · rw [getPart_reset]
    exact ⟨rfl, rfl, rfl, rfl, rfl, fun _ => rfl⟩
  · rw [getCore_reset]
    exact ⟨getBank_default k, rfl, rfl, rfl⟩
  · decide

end Sys2Proof.Settled
end

section
namespace Sys2Proof.Machine

/-! The instructions of the floating class that round one exact result (spec/09 R151, R154, R155, R160). -/

/-- In a group without poison no source is poisoned. -/
theorem anyPoisoned_clean (x : Ctx) (h : x.g.poison = []) (l : Nat) : anyPoisoned x l = false := by
  simp only [anyPoisoned, srcA_clean x h, srcB_clean x h, srcC_clean x h, Bool.or_self]

/-- An instruction whose effect is `fltLane f` computes `f` of the lane and its sources' contents (R151). -/
theorem fltLane_computes {i : Instr} {s : State} {x : Ctx} (hx : Issues i s x) (hg : Goes x) (hc : Calm x) (hd : LaneDst x 1)
    {f : Ctx → Nat → Nat → Nat → Nat → Nat} (hb : bodyOf i x = fltLane f x) :
    Computes i s x 1 (fun l => f x l (srcA x l).1 (srcB x l).1 (srcC x l).1) :=
  laneOp_computes (bodyOf i) hx hg hc hd (by decide) hx.exec x.isSR _ hb (anyPoisoned_clean x hc.clean)

/-- The effect of an instruction of `floatFn` rounds that exact function once (R154, R155); FSUB adds B with its sign flipped. -/
theorem bodyOf_floatFn {i : Instr} {x : Ctx} {F : Val → Val → Val → Val} (h : floatFn x.rnd i = some F) :
    bodyOf i x = fltExact (fun _ => F) x := by
  unfold floatFn at h
  split at h
  all_goals cases h
  all_goals rfl

/-- The effect of an instruction of `pairFn` rounds that exact function once in each element (R160). -/
theorem bodyOf_pairFn {i : Instr} {x : Ctx} {F : Val → Val → Val → Val} (h : pairFn x.rnd i = some F) :
    bodyOf i x = pairExact (fun _ => F) x := by
  unfold pairFn at h
  split at h
  all_goals cases h
  all_goals rfl

end Sys2Proof.Machine

namespace Sys2Proof.Settled
open Sys2Proof.Machine

/-- Settles O8: each effect is its exact function under `fltExact`, or under `pairExact` for the pair instructions. -/
theorem roundedOnce : Obligations.RoundedOnce :=
  ⟨fun _ _ _ _ hF hx hg hc hd => fltLane_computes hx hg hc hd (bodyOf_floatFn hF),
    fun _ _ _ _ hF hx hg hc hd => fltLane_computes hx hg hc hd (bodyOf_pairFn hF)⟩

end Sys2Proof.Settled
end

section
namespace Sys2Proof.Machine

/-! The instructions of the integer and logic class that compute a result per lane (spec/07 R113 to R126). -/

theorem regs_le_two (t : OTy) : t.regs ≤ 2 := by
  unfold OTy.regs
  split
  · split <;> decide
  · decide

/-- Registers of a lane's destination are vector or uniform ones. -/
theorem LaneDst.lt {x : Ctx} {n : Nat} (h : LaneDst x n) (hn : n ≤ 16) {k : Nat} (hk : k < n) : x.r.d + k < 944 := by
  rcases h with ⟨h1, h2⟩ | ⟨-, h2⟩
  · simp only [isV, decide_eq_true_eq] at h1 h2; omega
  · simp only [isS, decide_eq_true_eq] at h2; omega

/-- A destination that fits `n` registers fits one. -/
theorem LaneDst.fits_one {x : Ctx} {n : Nat} (h : LaneDst x n) : LaneDst x 1 := by
  rcases h with ⟨h1, -⟩ | h
  · exact .inl ⟨h1, by simpa using h1⟩
  · exact .inr h

/-- An instruction whose effect gives each lane `F`, poisoned where a source is, computes `F` where nothing is poisoned (R114). -/
theorem intLane_computes {i : Instr} {s : State} {x : Ctx} {n : Nat} {F : Nat → Nat} (hx : Issues i s x) (hg : Goes x) (hc : Calm x) (hd : LaneDst x n)
    (hn : n ≤ 2) (hb : bodyOf i x = laneOp x n false (fun l => (F l, anyPoisoned x l))) : Computes i s x n F :=
  laneOp_computes (bodyOf i) hx hg hc hd (by omega) hx.exec false _ hb (anyPoisoned_clean x hc.clean)

theorem exactOp_congr {f F : Int → Int → Int → Int} (h : ∀ a b c, f a b c = F a b c) (x : Ctx) : exactOp f x = exactOp F x := by
  obtain rfl : f = F := by funext a b c; exact h a b c
  rfl

/-- The effect of an instruction of `exactFn` is `exactOp` of that function (R117). -/
theorem bodyOf_exactFn {i : Instr} {x : Ctx} {F : Int → Int → Int → Int} (h : exactFn i = some F) : bodyOf i x = exactOp F x := by
  have abs_eq (b : Int) : (if b < 0 then -b else b) = if 0 ≤ b then b else 0 - b := by split <;> split <;> omega
  have min_eq (a b : Int) : (if a < b then a else b) = min a b := by split <;> omega
  have max_eq (a b : Int) : (if a < b then b else a) = max a b := by split <;> omega
  unfold exactFn at h
  split at h <;> cases h
  iterate 7 · rfl
  iterate 2 · exact exactOp_congr (fun _ b _ => (Int.zero_sub b).symm) x
  iterate 2 · exact exactOp_congr (fun _ b _ => abs_eq b) x
  iterate 2 · exact exactOp_congr (fun a b _ => min_eq a b) x
  iterate 2 · exact exactOp_congr (fun a b _ => max_eq a b) x

/-! An effect that changes registers and poison of its group alone (spec/07 R114, R129). -/

theorem RegsOnly.gid {g h : Group} (a : RegsOnly g h) : h.gid = g.gid := (congrArg Group.gid a :)
theorem RegsOnly.cnts {g h : Group} (a : RegsOnly g h) : h.cnts = g.cnts := (congrArg Group.cnts a :)

theorem Settles.getPoison_eq {g h : Group} (a : Settles g h) (c m : Nat) : getPoison h c m = getPoison g c m := congrArg (cget false (regKey c m)) a.poison

/-- What an effect keeps, the issue keeps. -/
theorem Settles.keepsRegs {g h k : Group} {d n : Nat} {ls : List Nat} (a : Settles h k) (b : KeepsRegs g h d n ls) : KeepsRegs g k d n ls :=
  fun c m hc hm ho => ⟨(a.regs c m hc hm).trans (b c m hc hm ho).1, (a.getPoison_eq c m).trans (b c m hc hm ho).2⟩

/-- Outside a replay such an effect is followed by what follows every issue. -/
theorem exec_regsOnly {i : Instr} {s : State} {x : Ctx} {g1 : Group} {o : Out} (hx : Issues i s x) (hg : Goes x) (hr : x.inReplay = false)
    (only : RegsOnly x.g g1) (hb : bodyOf i x = .ok (setGroup g1 x.s) o) :
    ∃ g', exec i s = .next (finishIssue x (setGroup g1 x.s) o) ∧ mfind x.g.gid (finishIssue x (setGroup g1 x.s) o).groups = some g' ∧
      KeepsOutside s (finishIssue x (setGroup g1 x.s) o) x.g.gid ∧ Settles g1 g' := by
  have hcnt : ∀ e ∈ g1.cnts, e.2 ≤ 255 := only.cnts ▸ hg.counters
  obtain ⟨g', hfind, hout, settles⟩ := finishIssue_spec x (setGroup g1 x.s) o g1 (only.gid ▸ find_setGroup g1 x.s) only.gid hr
  refine ⟨g', hx.endsWith hg hb (overCount_setGroup x.g g1 x.s only.gid hcnt), hfind, ?_, settles⟩
  have hput : KeepsOutside x.s (setGroup g1 x.s) x.g.gid := only.gid ▸ keepsOutside_setGroup g1 x.s
  exact hx.st ▸ hput.trans hout

/-! Results that may be poisoned (R57, R114). -/

theorem KeepsRegs.refl (g : Group) (d n : Nat) (ls : List Nat) : KeepsRegs g g d n ls := fun _ _ _ _ _ => ⟨rfl, rfl⟩

/-- What one write keeps and later writes keep, all of them keep. -/
theorem KeepsRegs.cons {g h k : Group} {d n l : Nat} {ls : List Nat} (a : KeepsRegs g h d n [l]) (b : KeepsRegs h k d n ls) : KeepsRegs g k d n (l :: ls) := by
  intro c m hc hm hout
  obtain ⟨r1, p1⟩ := a c m hc hm (hout.imp_right fun ⟨hv, hn⟩ => ⟨hv, fun hin => hn (List.mem_singleton.mp hin ▸ List.mem_cons_self)⟩)
  obtain ⟨r2, p2⟩ := b c m hc hm (hout.imp_right fun ⟨hv, hn⟩ => ⟨hv, fun hin => hn (List.mem_cons_of_mem _ hin)⟩)
  exact ⟨r2.trans r1, p2.trans p1⟩

/-- From `g` to `h` each lane `l` of `ls` has had `f l`, its value and its poison, written to its `n` destination registers, and no other register
has changed. -/
structure WritesResults (g h : Group) (d n : Nat) (f : Nat → Nat × Bool) (ls : List Nat) : Prop where
  only : RegsOnly g h
  holds : ∀ l ∈ ls, ∀ k, k < n → getReg h (d + k) l = bits (f l).1 (32 * k) 32 ∧ getPoison h (d + k) l = (f l).2
  keeps : KeepsRegs g h d n ls

theorem WritesResults.nil (g : Group) (d n : Nat) (f : Nat → Nat × Bool) : WritesResults g g d n f [] :=
  ⟨.refl g, fun _ h => (nomatch h), .refl g d n []⟩

/-- Writes the result `f l` of each lane `l` in turn. -/
def writeAll (x : Ctx) (d n : Nat) (f : Nat → Nat × Bool) (ls : List Nat) (g : Group) : Group :=
  ls.foldl (fun g l => writeDst x g d n l (f l).1 (f l).2) g

/-- Whatever the destination, only registers and poison of the group change. -/
theorem writeAll_regsOnly {x : Ctx} (hr : x.inReplay = false) (d n : Nat) (f : Nat → Nat × Bool) (ls : List Nat) :
    (∀ l ∈ ls, l < 96) → ∀ g, RegsOnly g (writeAll x d n f ls g) := by
  induction ls with
  | nil => exact fun _ g => .refl g
  | cons l ls ih => exact fun hl g => (writeDst_spec x g d n l _ _ hr (hl l (by simp))).1.trans (ih (fun m hm => hl m (List.mem_cons_of_mem _ hm)) _)

/-- One lane's result written outside a replay. -/
theorem writeDst_writes {x : Ctx} {d n l : Nat} (hr : x.inReplay = false) (hd : isLc d = false) (hl : l < 96) (f : Nat → Nat × Bool) (g : Group) :
    WritesResults g (writeDst x g d n l (f l).1 (f l).2) d n f [l] := by
  obtain ⟨only, cells⟩ := writeDst_spec x g d n l (f l).1 (f l).2 hr hl
  refine ⟨only, fun m hm k hk => ?_, fun c m _ hm hout => ?_⟩
  · obtain rfl := List.mem_singleton.mp hm
    obtain ⟨hreg, hpoison⟩ := cells (d + k) m hl
    have hin : d ≤ d + k ∧ d + k < d + n ∧ (isV (d + k) = true → m = m) := ⟨by omega, by omega, fun _ => rfl⟩
    rw [if_pos hin, Nat.add_sub_cancel_left] at hreg
    rw [if_pos ⟨hd, hin⟩] at hpoison
    exact ⟨hreg, hpoison⟩
  · obtain ⟨hreg, hpoison⟩ := cells c m hm
    have hn : ¬ (d ≤ c ∧ c < d + n ∧ (isV c = true → l = m)) := by
      rintro ⟨h1, h2, h3⟩
      rcases hout with h | ⟨hv, hnot⟩
      · exact h ⟨h1, h2⟩
      · exact hnot (by simp [h3 hv])
    rw [if_neg hn] at hreg
    rw [if_neg (fun h => hn h.2)] at hpoison
    exact ⟨hreg, hpoison⟩

/-- The results of several lanes written to vector registers outside a replay: a lane's registers are its own. -/
theorem writeAll_vector {x : Ctx} {d n : Nat} (hr : x.inReplay = false) (hd : isLc d = false) (hv : ∀ k, k < n → isV (d + k) = true)
    (f : Nat → Nat × Bool) (ls : List Nat) : (∀ l ∈ ls, l < 96) → ∀ g, WritesResults g (writeAll x d n f ls g) d n f ls := by
  induction ls with
  | nil => exact fun _ g => .nil g d n f
  | cons l ls ih =>
    intro hl g
    have first := writeDst_writes (n := n) hr hd (hl l (by simp)) f g
    have rest := ih (fun m hm => hl m (List.mem_cons_of_mem _ hm)) (writeDst x g d n l (f l).1 (f l).2)
    refine ⟨first.only.trans rest.only, fun m hm k hk => ?_, first.keeps.cons rest.keeps⟩
    by_cases hin : m ∈ ls
    · exact rest.holds m hin k hk
    · obtain rfl : m = l := by simpa [hin] using hm
      have hlt : d + k < 768 := of_decide_eq_true (hv k hk)
      obtain ⟨r1, p1⟩ := first.holds m (by simp) k hk
      obtain ⟨r2, p2⟩ := rest.keeps (d + k) m (by omega) (hl m (by simp)) (.inr ⟨hv k hk, hin⟩)
      exact ⟨r2.trans r1, p2.trans p1⟩

/-- The results of the lanes that compute one, written to a lane destination: to a uniform one writes one lane at most. -/
theorem LaneDst.writes {x : Ctx} {n : Nat} (hr : x.inReplay = false) (hd : LaneDst x n) (f : Nat → Nat × Bool) (g : Group) :
    WritesResults g (writeAll x x.r.d n f (workLanes x) g) x.r.d n f (workLanes x) := by
  obtain ⟨hone, hlc, hsame⟩ := hd.one
  by_cases hv : isV x.r.d = true
  · exact writeAll_vector hr hlc (fun k hk => (hsame k hk).trans hv) f _ (workLanes_lt x) g
  · have hlen := hone (by simpa using hv)
    have hlt := workLanes_lt x
    generalize workLanes x = ls at hlen hlt ⊢
    match ls, hlen with
    | [], _ => exact .nil g _ _ f
    | [l], _ => exact writeDst_writes hr hlc (hlt l (by simp)) f g

/-- What an effect `intLane f` gives a lane: the value of its sources' contents, poisoned where a source or the predicate is. -/
def laneResult (f : Ctx → Nat → Nat → Nat → Nat) (x : Ctx) (l : Nat) : Nat × Bool :=
  (f x (srcA x l).1 (srcB x l).1 (srcC x l).1, anyPoisoned x l || (predOf x l).2)

theorem intLane_eq (n : Nat) (f : Ctx → Nat → Nat → Nat → Nat) (x : Ctx) :
    intLane n f x = .ok (setGroup (writeAll x x.r.d n (laneResult f x) (workLanes x) x.g) x.s)
      { poisoned := (workLanes x).any (fun l => (laneResult f x l).2) } := by
  simp only [intLane, laneOp, List.foldl_map, List.any_map]
  rfl

/-- An effect of the class outside a replay, in a group that may hold poison: the lanes' results and their poison are written, no other
register changes. -/
theorem intLane_poisons {i : Instr} {s : State} {x : Ctx} {n : Nat} (hx : Issues i s x) (hg : Goes x) (hr : x.g.replay = none) (hd : LaneDst x n) (hn : n ≤ 2)
    {f : Ctx → Nat → Nat → Nat → Nat} (hb : bodyOf i x = intLane n f x) :
    ∃ t g', exec i s = .next t ∧ mfind x.g.gid t.groups = some g' ∧ KeepsOutside s t x.g.gid ∧ KeepsRegs x.g g' x.r.d n (workLanes x) ∧
      ∀ l ∈ workLanes x, ∀ k, k < n →
        getReg g' (x.r.d + k) l = bits (laneResult f x l).1 (32 * k) 32 ∧ getPoison g' (x.r.d + k) l = (laneResult f x l).2 := by
  have hin : x.inReplay = false := by simp [Ctx.inReplay, hr]
  obtain ⟨only, holds, keeps⟩ := hd.writes hin (laneResult f x) x.g
  obtain ⟨g', he, hfind, hout, settles⟩ := exec_regsOnly hx hg hin only (hb.trans (intLane_eq n f x))
  refine ⟨_, g', he, hfind, hout, settles.keepsRegs keeps, fun l hl k hk => ?_⟩
  obtain ⟨hreg, hpoison⟩ := holds l hl k hk
  exact ⟨(settles.regs _ _ (hd.lt (by omega) hk) (workLanes_lt x l hl)).trans hreg, (settles.getPoison_eq _ _).trans hpoison⟩

end Sys2Proof.Machine

namespace Sys2Proof.Settled
open Sys2Proof.Machine

/-- Settles O1: each effect is its exact function under `exactOp`, whose results and poison are written lane by lane. -/
theorem exactInteger : Obligations.ExactInteger :=
  ⟨fun _ _ _ x hF hx hg hc hd => intLane_computes hx hg hc hd (regs_le_two x.ty) (bodyOf_exactFn hF),
    fun _ _ _ x hF hx hg hr hd => intLane_poisons hx hg hr hd (regs_le_two x.ty) (bodyOf_exactFn hF)⟩

end Sys2Proof.Settled
end

section
namespace Sys2Proof.Machine

/-! What the integer and logic instructions compute from their sources' contents (spec/07 R119 to R126). -/

/-- IADDC's pair: the sum with its carry, or the difference with its borrow (R119). -/
theorem carryPair_eq (fn a b c : Nat) (ha : a < 2 ^ 32) (hb : b < 2 ^ 32) :
    carryPair fn a b c = if fn = 0 then a + b + c % 2 else (2 ^ 32 + a - b - c % 2) % 2 ^ 32 + 2 ^ 32 * (if a < b + c % 2 then 1 else 0) := by
  have hc : c % 2 < 2 := Nat.mod_lt _ (by decide)
  unfold carryPair wrap
  generalize c % 2 = c at hc ⊢
  split
  · dsimp only; omega
  · dsimp only
    split <;> split <;> omega

theorem shlBits_eq (w a k : Nat) : shlBits w a k = if k < w then a * 2 ^ k % 2 ^ w else 0 := by
  unfold shlBits
  rw [Nat.shiftLeft_eq]
  split <;> split <;> omega

theorem shrBits_eq (w a k : Nat) : shrBits w a k = if k < w then a % 2 ^ w / 2 ^ k else 0 := by
  unfold shrBits
  rw [Nat.shiftRight_eq_div_pow]
  split <;> split <;> omega

/-- The two parts of a rotation have no bit in common. -/
theorem rotlBits_eq (w a k : Nat) : rotlBits w a k = (a % 2 ^ w * 2 ^ (k % w) + a % 2 ^ w / 2 ^ (w - k % w)) % 2 ^ w := by
  have hlow : a % 2 ^ w / 2 ^ (w - k % w) < 2 ^ (k % w) := by
    refine Nat.div_lt_of_lt_mul (Nat.lt_of_lt_of_le (Nat.mod_lt _ (Nat.two_pow_pos w)) ?_)
    rw [← Nat.pow_add]
    exact Nat.pow_le_pow_right (by decide) (by omega)
  unfold rotlBits
  rw [Nat.shiftRight_eq_div_pow, ← Nat.shiftLeft_add_eq_or_of_lt hlow, Nat.shiftLeft_eq]

theorem popCount_eq (w : Nat) : ∀ v, popCount w v = ((List.range w).filter (fun i => bit v i)).length := by
  induction w with
  | zero => exact fun v => rfl
  | succ w ih =>
    intro v
    have shift : (fun i => bit v (i + 1)) = fun i => bit (v / 2) i := by
      funext i
      simp only [bit_eq_testBit, Nat.testBit_succ]
    have low : bit v 0 = decide (v % 2 = 1) := by simp [bit_eq_testBit]
    rw [popCount, ih, List.range_succ_eq_map, List.filter_cons, List.filter_map, ← shift, low]
    simp only [decide_eq_true_eq]
    split <;> simp [Function.comp_def] <;> omega

/-- The highest bit that is one stands first when bits are tried from the top. -/
theorem clzBits_eq (w v : Nat) : clzBits w v = ((List.range w).find? (fun i => bit v (w - 1 - i))).getD w := by
  unfold clzBits
  have top (j : Nat) (hj : j < w) : bit v j = (v % 2 ^ w).testBit j := by rw [bit_eq_testBit, Nat.testBit_mod_two_pow]; simp [hj]
  split
  · rename_i hz
    rw [List.find?_eq_none.mpr, Option.getD_none]
    intro i hi
    have hi := List.mem_range.mp hi
    simp [top _ (show w - 1 - i < w by omega), hz]
  · rename_i hz
    have hlog : (v % 2 ^ w).log2 < w := (Nat.log2_lt hz).mpr (Nat.mod_lt _ (Nat.two_pow_pos w))
    have hfind : (List.range w).find? (fun i => bit v (w - 1 - i)) = some (w - 1 - (v % 2 ^ w).log2) := by
      rw [List.find?_range_eq_some]
      refine ⟨?_, by simp; omega, fun j hj => ?_⟩
      · rw [show w - 1 - (w - 1 - (v % 2 ^ w).log2) = (v % 2 ^ w).log2 by omega, top _ hlog]
        exact Nat.testBit_log2 hz
      · rw [top _ (by omega), Nat.testBit_lt_two_pow]
        · rfl
        · exact (Nat.log2_lt hz).mp (by omega)
    rw [hfind, Option.getD_some]

theorem brevBits_eq (w v : Nat) : brevBits w v = ((List.range w).map (fun i => if bit v i then 2 ^ (w - 1 - i) else 0)).sum := by
  rw [List.sum_eq_foldl, List.foldl_map]
  rfl

/-- FN 0 to 5 name the conditions of an integer compare (R124). -/
theorem intCond_iff {fn : Nat} (h : fn ≤ 5) (a b : Int) : intCond fn a b = true ↔
    (fn = 0 ∧ a = b) ∨ (fn = 1 ∧ a ≠ b) ∨ (fn = 2 ∧ a < b) ∨ (fn = 3 ∧ a ≤ b) ∨ (fn = 4 ∧ b < a) ∨ (fn = 5 ∧ b ≤ a) := by
  have : fn = 0 ∨ fn = 1 ∨ fn = 2 ∨ fn = 3 ∨ fn = 4 ∨ fn = 5 := by omega
  rcases this with rfl | rfl | rfl | rfl | rfl | rfl <;> simp [intCond]

theorem shiftOp_eq {x : Ctx} {f : Nat → Nat → Nat → Nat} {F : Nat → Nat → Nat} (h : ∀ a k, f x.ty.width a k = F a k) :
    shiftOp f x = intLane x.ty.regs (fun _ a b _ => F a (b % 2 ^ 32)) x := by
  simp only [shiftOp, intLane, h]

/-- The effect of an instruction of `logicFn` (R120). -/
theorem bodyOf_logicFn {i : Instr} {x : Ctx} {F : Nat → Nat → Nat} (h : logicFn x.ty.width i = some F) :
    bodyOf i x = intLane x.ty.regs (fun _ a b _ => F a b) x := by
  unfold logicFn at h
  split at h <;> cases h
  all_goals rfl

/-- The effect of an instruction of `shiftFn` (R120). -/
theorem bodyOf_shiftFn {i : Instr} {x : Ctx} {F : Nat → Nat → Nat} (h : shiftFn x.ty.width i = some F) :
    bodyOf i x = intLane x.ty.regs (fun _ a b _ => F a (b % 2 ^ 32)) x := by
  unfold shiftFn at h
  split at h <;> cases h
  iterate 2 · exact shiftOp_eq (shlBits_eq _)
  iterate 2 · exact shiftOp_eq (shrBits_eq _)
  iterate 2 · rfl
  iterate 2 · exact shiftOp_eq (rotlBits_eq _)

/-- The effect of an instruction of `countFn` (R122). -/
theorem bodyOf_countFn {i : Instr} {x : Ctx} {F : Nat → Nat} {same : Bool} (h : countFn x.ty.width i = some (F, same)) :
    bodyOf i x = intLane (if same then x.ty.regs else 1) (fun _ _ b _ => F b) x := by
  have congr {n : Nat} {f F : Nat → Nat} (h : ∀ b, f b = F b) : intLane n (fun _ _ b _ => f b) x = intLane n (fun _ _ b _ => F b) x := by
    rw [funext h]
  unfold countFn at h
  split at h <;> cases h
  iterate 2 · exact congr (popCount_eq _)
  iterate 2 · exact congr (clzBits_eq _)
  iterate 2 · rfl
  iterate 2 · exact congr (brevBits_eq _)

/-- The word of an instruction that reaches its own effect is legal, and its form fits its opcode (R70, R71). -/
theorem Goes.fn_mem {x : Ctx} (hg : Goes x) {info : OpInfo} (hi : opInfo x.r.op = some info) : x.r.fn ∈ info.fns := by
  have hstat := (wordTrap_none x hg.legal).1
  rw [staticTrap_eq hi] at hstat
  have hill : isIllegal x.r = false := by
    cases h : isIllegal x.r
    · rfl
    · simp [h] at hstat
  simp only [isIllegal, hi, Bool.or_eq_false_iff] at hill
  simpa using hill.2

/-- The opcode of an ICMP (R68). -/
theorem icmp_op {i : Instr} {s : State} {x : Ctx} (h : (∃ u b a d, i = .icmp u b a d) ∨ ∃ f, i = .icmpExt f) (hx : Issues i s x) : x.r.op = 0x1A := by
  rcases h with ⟨u, b, a, d, rfl⟩ | ⟨f, rfl⟩
  · rw [← Option.some.inj hx.raw]
    rfl
  · rw [← Option.some.inj hx.raw]
    cases f <;> rfl

/-- An ICMP that reaches its own effect names one of the conditions FN 0 to 5. -/
theorem icmp_fn {x : Ctx} (hg : Goes x) (hop : x.r.op = 0x1A) : x.r.fn ≤ 5 := by
  have hmem : x.r.fn ∈ [0, 1, 2, 3, 4, 5] := hg.fn_mem (by rw [hop]; rfl)
  simp only [List.mem_cons, List.not_mem_nil, or_false] at hmem
  omega

/-- A TYPE that the opcode does not list breaks the operand form (R70). -/
theorem operandOk_type {r : Raw} {info : OpInfo} (h : r.ty ∉ info.tys r.fn) : operandOk r info = false := by
  have hc : (info.tys r.fn).contains r.ty = false := by simpa using h
  simp only [operandOk, hc, Bool.false_and]

/-- An ordering of B32 does not fit the operand form of ICMP (R124). -/
theorem wordTrap_icmp_b32 {x : Ctx} {info : OpInfo} (hop : x.r.op = 0x1A) (hi : opInfo x.r.op = some info) (hty : x.r.ty = 13) (h2 : 2 ≤ x.r.fn)
    (hill : isIllegal x.r = false) (hres : isReserved x.r info = false) (hrole : x.g.role % 2 = 1) : wordTrap x = some .operandForm := by
  have htys : (opInfo 0x1A).map OpInfo.tys = some (fun fn => if fn ≤ 1 then 13 :: tyI else tyI) := rfl
  have hvec : (opInfo 0x1A).map OpInfo.role = some .vectorUnlessUni := rfl
  rw [← hop, hi, Option.map_some, Option.some.injEq] at htys hvec
  have hord : ¬ x.r.fn ≤ 1 := by omega
  have hform : operandOk x.r info = false := operandOk_type (by simp [htys, hty, hord, tyI])
  have hbit : x.g.role &&& roleBit x.r info ≠ 0 ∨ roleBit x.r info = 0 := by
    simp only [roleBit, hvec]
    split
    · exact .inr rfl
    · exact .inl (by rw [Nat.and_one_is_mod]; omega)
  have hstat : staticTrap x.r x.g.role x.g.service x.g.k x.b.ntiles = some .operandForm := by
    rw [staticTrap_eq hi, role_present (.inr hbit), hill, hres, hform]
    rfl
  simp [wordTrap, hstat]

/-- MOV to a loop counter takes B of one lane, the lowest enabled one or under UNI what it computes once (R52, R125). -/
theorem bodyMov_loopCtr {x : Ctx} (hc : Calm x) (hd : isLc x.r.d = true) {l : Nat}
    (hl : (if x.r.uni then (if (enLanes x).isEmpty then none else some x.lo) else (enLanes x).head?) = some l) :
    bodyMov x = .ok (setGroup (putReg x.g x.r.d 0 ((srcB x l).1 % 2 ^ 32)) x.s) {} := by
  simp only [bodyMov, hd, ppLanes_clean x hc.clean, hl, srcB_clean x hc.clean, List.isEmpty_nil, Bool.not_true, Bool.false_eq_true, if_true, if_false]

/-- With no lane enabled it changes nothing. -/
theorem bodyMov_noLane {x : Ctx} (hc : Calm x) (hd : isLc x.r.d = true) (he : enLanes x = []) : bodyMov x = .ok x.s {} := by
  simp only [bodyMov, hd, ppLanes_clean x hc.clean, he, List.isEmpty_nil, List.head?_nil, Bool.not_true, Bool.false_eq_true, if_true, if_false, ite_self]

/-- MOV to other registers moves B in every lane. -/
theorem bodyMov_lanes {x : Ctx} (hd : isLc x.r.d = false) : bodyMov x = intLane x.ty.regs (fun x _ b _ => moveBits x.ty b) x := by
  simp only [bodyMov, hd, Bool.false_eq_true, if_false]

/-- SEL's value where nothing is poisoned (R125). -/
theorem sel_computes {f : Form} {s : State} {x : Ctx} (hx : Issues (.sel f) s x) (hg : Goes x) (hc : Calm x) (hd : LaneDst x x.ty.regs) :
    Computes (.sel f) s x x.ty.regs (fun l => moveBits x.ty (if (srcC x l).1 % 2 = 1 then (srcA x l).1 else (srcB x l).1)) := by
  have hb : bodyOf (.sel f) x =
      laneOp x x.ty.regs false (fun l => (moveBits x.ty (if (srcC x l).1 % 2 = 1 then (srcA x l).1 else (srcB x l).1), false)) := by
    refine congrArg (laneOp x x.ty.regs false) (funext fun l => ?_)
    have := srcA_clean x hc.clean l
    have := srcB_clean x hc.clean l
    have := srcC_clean x hc.clean l
    split <;> simp [*]
  exact laneOp_computes (bodyOf (.sel f)) hx hg hc hd (by have := regs_le_two x.ty; omega) hx.exec false _ hb (fun _ => rfl)

end Sys2Proof.Machine

namespace Sys2Proof.Settled
open Sys2Proof.Machine

/-- Settles O2: IMULH, IMADW and IADDC by their effects, the last through its pair of word and carry. -/
theorem wideResults : Obligations.WideResults := by
  refine ⟨fun i s x hx hg hc => ?_, fun f s x hx hg hc hd => ?_⟩
  · cases i
    case imulh u b a d => exact fun hd => intLane_computes hx hg hc hd (regs_le_two _) rfl
    case imulhExt f => exact fun hd => intLane_computes hx hg hc hd (regs_le_two _) rfl
    case imadw f => exact fun hd => intLane_computes hx hg hc hd (by decide) rfl
    all_goals trivial
  · refine intLane_computes hx hg hc hd (by decide) (congrArg (laneOp x 2 false) (funext fun l => Prod.ext ?_ rfl))
    exact carryPair_eq x.r.fn _ _ _ (Nat.mod_lt _ (by decide)) (Nat.mod_lt _ (by decide))

/-- Settles O3: each effect is its function of `logicFn` or `shiftFn` in every lane. -/
theorem logicAndShifts : Obligations.LogicAndShifts := fun _ _ _ _ hx hg hc hd =>
  ⟨fun hF => intLane_computes hx hg hc hd (regs_le_two _) (bodyOf_logicFn hF),
    fun hF => intLane_computes hx hg hc hd (regs_le_two _) (bodyOf_shiftFn hF)⟩

/-- Settles O4: each effect is its function of `countFn` in every lane. -/
theorem bitCounts : Obligations.BitCounts := by
  intro i F same s x hF hx hg hc hd
  have hn : (if same then x.ty.regs else 1) ≤ 2 := by
    split
    · exact regs_le_two _
    · decide
  exact intLane_computes hx hg hc hd hn (bodyOf_countFn hF)

/-- Settles O5: each effect is its function of the three sources in every lane. -/
theorem fieldsAndBytes : Obligations.FieldsAndBytes := by
  intro i s x hx hg hc hd
  cases i
  case bfx f => exact intLane_computes hx hg hc hd (regs_le_two _) rfl
  case bfi f => exact intLane_computes hx hg hc hd (regs_le_two _) rfl
  case bysel f => exact intLane_computes hx hg hc hd.fits_one (by decide) rfl
  all_goals trivial

/-- Settles O6: the condition of FN in every lane; an ordering of B32 is refused by the operand form. -/
theorem integerCompare : Obligations.IntegerCompare := by
  refine ⟨fun i s x hi hx hg hc hd => ?_, fun f s x info hx ha hinfo hty h2 _ hill hres hrole hs => ?_⟩
  · have hb : bodyOf i x = bodyIcmp x := by rcases hi with ⟨_, _, _, _, rfl⟩ | ⟨_, rfl⟩ <;> rfl
    refine intLane_computes hx hg hc hd (by decide) (hb.trans ?_)
    simp only [bodyIcmp, intLane, condWord, intCond_iff (icmp_fn hg (icmp_op hi hx))]
  · have hop := icmp_op (.inr ⟨f, rfl⟩) hx
    exact (wordTrap_outcome hx ha (wordTrap_icmp_b32 hop hinfo hty h2 hill hres hrole)).1 hs

/-- Settles O7: SEL, MOV and LEA by their effects; a loop counter takes B of one lane. -/
theorem selectMoveAddress : Obligations.SelectMoveAddress := by
  refine ⟨fun i s x hx hg hc => ?_, fun f l s x hx hg hc hd => ?_⟩
  · cases i
    case sel f => exact sel_computes hx hg hc
    case mov u b a d => exact fun hd => intLane_computes hx hg hc hd (regs_le_two _) (bodyMov_lanes hd.one.2.1)
    case movExt f => exact fun hd => intLane_computes hx hg hc hd (regs_le_two _) (bodyMov_lanes hd.one.2.1)
    case lea f => exact fun hd => intLane_computes hx hg hc hd (by decide) rfl
    all_goals trivial
  · obtain rfl := hx.st
    refine ⟨fun hl => hx.endsWith hg (bodyMov_loopCtr hc hd ?_), fun he => hx.endsWith hg (bodyMov_noLane hc hd he)⟩
    rcases hl with ⟨hu, hl⟩ | ⟨hu, hne, rfl⟩
    · simp only [hu, hl, Bool.false_eq_true, if_false]
    · simp only [hu, List.isEmpty_eq_false_iff.mpr hne, Bool.false_eq_true, if_true, if_false]

end Sys2Proof.Settled
end

section
namespace Sys2Proof.Machine

/-! The effects of the control instructions where no register is poisoned and nothing is replayed (spec/07 R127 to R147). -/

/-- LOOP with a body that is whole instructions and nests properly (R130 steps 1 to 6). -/
theorem bodyLoop_opens {x : Ctx} {bs : List Nat} {u : State} (hc : Calm x) (hbody : x.r.c ≠ 0) (hroom : x.g.loops.length < 3)
    (hnest : ∀ e ∈ x.g.loops, e.ctr + 944 ≠ x.r.d ∧
      ((e.start ≤ x.fall ∧ x.fall + 4 * x.r.c ≤ e.stop) ∨ x.fall + 4 * x.r.c ≤ e.start ∨ e.stop ≤ x.fall))
    (hwalk : walkBody 256 x.s x.g x.fall (x.fall + 4 * x.r.c) = .exact) (hfetch : fetchBytes x.r.c x.s x.g x.fall = (.ok bs, u)) :
    bodyLoop x =
      (let n := (uB x).1 % 2 ^ 32
       if n = 0 then .ok (setGroup (putReg x.g x.r.d 0 n) u) { next := some (x.lanes.foldl (fun m l => minsert l (x.fall + 4 * x.r.c) m) []), ctl := true }
       else .ok (setGroup { (putReg x.g x.r.d 0 n) with
          loops := x.g.loops ++ [{ start := x.fall, stop := x.fall + 4 * x.r.c, ctr := x.r.d - 944, members := x.mask }]
          lbuf := if x.g.loops.isEmpty then some { base := x.fall, bytes := bs, stale := false } else x.g.lbuf } u) { ctl := true }) := by
  have hany : (x.g.loops.any (fun e => e.ctr + 944 == x.r.d ||
      !(decide (e.start ≤ x.fall ∧ x.fall + 4 * x.r.c ≤ e.stop) || decide (x.fall + 4 * x.r.c ≤ e.start ∨ e.stop ≤ x.fall)))) = false := by
    rw [List.any_eq_false]
    intro e he
    obtain ⟨hctr, hplace⟩ := hnest e he
    have hdec : (decide (e.start ≤ x.fall ∧ x.fall + 4 * x.r.c ≤ e.stop) || decide (x.fall + 4 * x.r.c ≤ e.start ∨ e.stop ≤ x.fall)) = true := by
      simpa using hplace
    rw [beq_false_of_ne hctr, hdec]
    decide
  simp only [bodyLoop, hc.uB, hany, hwalk, hfetch, if_neg hbody, if_neg (Nat.not_le.mpr hroom), Bool.false_eq_true, if_false]

/-- TRAP and BRK with an enabled lane take their trap (R137). -/
theorem codeTrap_calm {x : Ctx} (hc : Calm x) (c : Cause) (he : enLanes x ≠ []) :
    codeTrap c x = .trap { cause := c, lanes := maskOf (enLanes x), code := (x.r.a + 1024 * x.r.b) % 2 ^ 20 } := by
  simp only [codeTrap, ppLanes_clean x hc.clean, hc.inReplay, List.isEmpty_eq_false_iff.mpr he, List.isEmpty_nil, Bool.not_true, Bool.or_self,
    Bool.false_eq_true, if_false]

/-- With none they only advance. -/
theorem codeTrap_noLane {x : Ctx} (hc : Calm x) (c : Cause) (he : enLanes x = []) : codeTrap c x = .ok x.s {} := by
  simp only [codeTrap, ppLanes_clean x hc.clean, he, List.isEmpty_nil, Bool.not_true, Bool.true_or, Bool.false_eq_true, if_false, if_true]

/-- The effect of an instruction of `codeCause`, whose cause is not poison (R137). -/
theorem bodyOf_codeCause {i : Instr} {c : Cause} (h : codeCause i = some c) : bodyOf i = codeTrap c ∧ c ≠ .poison := by
  unfold codeCause at h
  split at h <;> cases h
  all_goals exact ⟨rfl, by decide⟩

theorem bodyWaitc_calm {x : Ctx} (hc : Calm x) (hf : x.g.hfault = none) :
    bodyWaitc x = if getCnt x.g (pathOf x.r.fn) ≤ min ((uB x).1 % 2 ^ 32) 255 then .ok x.s {}
      else .ok (setGroup { x.g with wait := .waitc x.r.fn (min ((uB x).1 % 2 ^ 32) 255) } x.s) {} := by
  simp only [bodyWaitc, haulFault_none hf, hc.uB, ctlPoison_clean x hc.clean, hc.inReplay, Bool.false_or, decide_eq_true_eq]

theorem bodyTwait_calm {x : Ctx} (hc : Calm x) :
    bodyTwait x = if (uB x).1 ≤ x.s.ptp.ns % 2 ^ 64 then .ok x.s {} else .ok (setGroup { x.g with wait := .twait (uB x).1 } x.s) {} := by
  simp only [bodyTwait, hc.uB, ctlPoison_clean x hc.clean, hc.inReplay, Bool.false_or, decide_eq_true_eq]

/-- ABWAIT on a sound object of pad. -/
theorem bodyAbwait_calm {x : Ctx} (hc : Calm x) (hf : x.g.hfault = none) {off : Nat} (hat : PadWordAt x 16 off) (hbad : padBad x.b off 16 = false)
    (hobj : abBad (abOf (padGet x.b off 16)) = false) :
    bodyAbwait x = if abPassed ((uC x).1 % 2 ^ 32) (abOf (padGet x.b off 16)) then .ok (tookWord x.s x.g.gid x.b.bid off 16) {}
      else .ok (setGroup { x.g with wait := .abwait off ((uC x).1 % 2 ^ 32) } x.s) {} := by
  simp only [bodyAbwait, haulFault_none hf, hc.uC]
  rw [padWord_ok hc 16 true _ off hat (fun _ => hbad)]
  simp only [hc.inReplay, hobj, Bool.false_eq_true, if_false]

/-- STGW on a sound ring of pad. -/
theorem bodyStgw_calm {x : Ctx} (hc : Calm x) (hf : x.g.hfault = none) {off : Nat} (hat : PadWordAt x 8 off) (hbad : padBad x.b off 8 = false)
    (hring : stgBad (padGet x.b off 8) = false) :
    bodyStgw x = if stgPasses (x.r.fn == 0) (padGet x.b off 8) ((uC x).1 % 2 ^ 32) then .ok (tookWord x.s x.g.gid x.b.bid off 8) {}
      else .ok (setGroup { x.g with wait := .stgw (x.r.fn == 0) off ((uC x).1 % 2 ^ 32) } x.s) {} := by
  simp only [bodyStgw, haulFault_none hf, hc.uC]
  rw [padWord_ok hc 8 true _ off hat (fun _ => hbad)]
  simp only [hc.inReplay, hring, Bool.false_eq_true, if_false]

section
variable {x : Ctx} (hc : Calm x) (he : enLanes x ≠ []) {off : Nat}
include hc he

theorem bodyAbinit_calm (hat : PadWordAt x 16 off) {o : AbObj} (ho : abInit ((uC x).1 % 2 ^ 32) = some o) :
    bodyAbinit x = .ok (putWord x off 16 (abWord o)) {} := by
  simp only [bodyAbinit, hc.uC]
  rw [padObject_ok hc he 16 false _ off hat (fun h => nomatch h), ho]

theorem bodyAbarv_calm (hat : PadWordAt x 16 off) (hbad : padBad x.b off 16 = false) (hobj : abBad (abOf (padGet x.b off 16)) = false) {o : AbObj}
    (ho : abArrive x.r.fn (abOf (padGet x.b off 16)) = some o) :
    bodyAbarv x = if x.r.d = 0 then .ok (postWord x off 16 (abWord o)) {}
      else .ok (modGroup x.g.gid (fun g => writeDst x g x.r.d 1 0 (abOf (padGet x.b off 16)).gen false) (postWord x off 16 (abWord o))) {} := by
  unfold bodyAbarv
  rw [padObject_ok hc he 16 true _ off hat (fun _ => hbad)]
  simp only [hobj, ho, Bool.false_eq_true, if_false]

theorem bodyAbexp_calm (hat : PadWordAt x 16 off) (hbad : padBad x.b off 16 = false) (hobj : abBad (abOf (padGet x.b off 16)) = false) {o : AbObj}
    (ho : abExpect ((uC x).1 % 2 ^ 32) (abOf (padGet x.b off 16)) = some o) : bodyAbexp x = .ok (putWord x off 16 (abWord o)) {} := by
  simp only [bodyAbexp, hc.uC]
  rw [padObject_ok hc he 16 true _ off hat (fun _ => hbad)]
  simp only [hobj, ho, Bool.false_eq_true, if_false]

/-- STGP.INIT does not read the ring that it writes. -/
theorem bodyStgp_init (hat : PadWordAt x 8 off) (hfn : x.r.fn = 2) {v : Nat} (hv : stgInit ((uC x).1 % 2 ^ 32) = some v) :
    bodyStgp x = .ok (postWord x off 8 v) {} := by
  simp only [bodyStgp, hc.uC]
  rw [padObject_ok hc he 8 _ _ off hat (fun h => by simp [hfn] at h)]
  simp only [hfn, hv, if_true]

theorem bodyStgp_post (hat : PadWordAt x 8 off) (hfn : x.r.fn ≠ 2) (hbad : padBad x.b off 8 = false) (hring : stgBad (padGet x.b off 8) = false) {v : Nat}
    (hv : stgPost (x.r.fn == 0) (padGet x.b off 8) ((uC x).1 % 2 ^ 32) = some v) : bodyStgp x = .ok (postWord x off 8 v) {} := by
  simp only [bodyStgp, hc.uC]
  rw [padObject_ok hc he 8 _ _ off hat (fun _ => hbad)]
  simp only [hring, hv, if_neg hfn, Bool.false_eq_true, if_false]

end

end Sys2Proof.Machine

namespace Sys2Proof.Settled
open Sys2Proof.Machine

/-- Settles O13: each effect is what its rule gives; XFENCE has passed the fault that it would take first. -/
theorem plainControl : Obligations.PlainControl := by
  intro i s x hx hg _
  obtain rfl := hx.st
  cases i
  case nop r => exact hx.endsWith hg rfl
  case nopExt f => exact hx.endsWith hg rfl
  case lbinv f => exact hx.endsWith hg rfl
  case yield r => exact hx.endsWith hg rfl
  case yieldExt f => exact hx.endsWith hg rfl
  case xfence f =>
    intro hf
    refine hx.endsWith hg (show bodyXfence x = _ from ?_)
    rw [bodyXfence, haulFault_none hf]
  all_goals trivial

/-- Settles O15: past the checks of a body that nests properly, the count decides. -/
theorem loopOpens : Obligations.LoopOpens := by
  intro f s x bs u hx hg hc start stop n hbody hroom hnest hwalk hfetch
  obtain rfl := hx.st
  have hb : bodyOf (.loopOp f) x = _ := bodyLoop_opens hc hbody hroom hnest hwalk hfetch
  refine ⟨fun hn => hx.endsWith hg (hb.trans ((if_pos hn).trans ?_)), fun hn => hx.endsWith hg (hb.trans (if_neg hn))⟩
  rw [show (uB x).1 % 2 ^ 32 = 0 from hn]

/-- Settles O17: the trap of the enabled lanes with its code, a double trap at service level. -/
theorem softwareTraps : Obligations.SoftwareTraps := by
  intro i c s x hcode hx hg hc
  obtain ⟨hbody, hcause⟩ := bodyOf_codeCause hcode
  have hb := congrFun hbody x
  have htrap := fun he => exec_trap hx hg _ (hb.trans (codeTrap_calm hc c he))
  refine ⟨fun he => ?_, fun he hs => ?_, fun he hs => ?_⟩
  · obtain rfl := hx.st
    exact hx.endsWith hg (hb.trans (codeTrap_noLane hc c he))
  · obtain ⟨g', traps, code⟩ := trapNow_spec x { cause := c, lanes := maskOf (enLanes x), code := (x.r.a + 1024 * x.r.b) % 2 ^ 20 } hs
    exact ⟨_, g', htrap he, traps, code rfl rfl (Nat.mod_lt _ (by decide)) hcause⟩
  · rw [htrap he, trapNow_double x _ hs, hx.st]

/-- Settles O20: each wait goes on where its condition holds, else the group waits for it. -/
theorem waits : Obligations.Waits := by
  intro i s x hx hg hc hf
  obtain rfl := hx.st
  cases i
  case waitc f =>
    have hb : bodyOf (.waitc f) x = _ := bodyWaitc_calm hc hf
    exact ⟨fun h => hx.endsWith hg (hb.trans (if_pos h)), fun h => hx.endsWith hg (hb.trans (if_neg (Nat.not_le.mpr h)))⟩
  case twait f =>
    have hb : bodyOf (.twait f) x = _ := bodyTwait_calm hc
    exact ⟨fun h => hx.endsWith hg (hb.trans (if_pos h)), fun h => hx.endsWith hg (hb.trans (if_neg (Nat.not_le.mpr h)))⟩
  case abwait f =>
    intro off hat hbad hobj
    have hb : bodyOf (.abwait f) x = _ := bodyAbwait_calm hc hf hat hbad hobj
    exact ⟨fun h => hx.endsWith hg (hb.trans (if_pos h)), fun h => hx.endsWith hg (hb.trans (if_neg (Bool.eq_false_iff.mp h)))⟩
  case stgw f =>
    intro off hat hbad hring
    have hb : bodyOf (.stgw f) x = _ := bodyStgw_calm hc hf hat hbad hring
    exact ⟨fun h => hx.endsWith hg (hb.trans (if_pos h)), fun h => hx.endsWith hg (hb.trans (if_neg (Bool.eq_false_iff.mp h)))⟩
  all_goals trivial

/-- Settles O21: each object or ring is written as its rule gives, where it may be. -/
theorem padObjects : Obligations.PadObjects := by
  intro i s x off hx hg hc he
  cases i
  case abinit f => exact fun hat o ho => hx.endsWith hg (bodyAbinit_calm hc he hat ho)
  case abarv f =>
    intro hat hbad hobj o ho
    have hb : bodyOf (.abarv f) x = _ := bodyAbarv_calm hc he hat hbad hobj ho
    exact ⟨fun h => hx.endsWith hg (hb.trans (if_pos h)), fun h => hx.endsWith hg (hb.trans (if_neg h))⟩
  case abexp f => exact fun hat hbad hobj o ho => hx.endsWith hg (bodyAbexp_calm hc he hat hbad hobj ho)
  case stgp f =>
    exact fun hat => ⟨fun hfn v hv => hx.endsWith hg (bodyStgp_init hc he hat hfn hv),
      fun hfn hbad hring v hv => hx.endsWith hg (bodyStgp_post hc he hat hfn hbad hring hv)⟩
  all_goals trivial

end Sys2Proof.Settled
end

section
namespace Sys2Proof.Machine

/-! Where the lanes of an issue stand afterwards in a group without an open loop (spec/01 R12, spec/07 R131, R132). -/

/-- Cells written in turn, each with its own value. -/
theorem cget_fold_cset_fn (tgt : Nat → Nat) (ls : List Nat) (l : Nat) : ∀ m : List (Nat × Nat),
    cget 0 l (ls.foldl (fun m l => cset 0 l (tgt l) m) m) = if l ∈ ls then tgt l else cget 0 l m := by
  induction ls with
  | nil => exact fun m => by simp
  | cons a ls ih =>
    intro m
    rw [List.foldl_cons, ih, cget_cset]
    by_cases hin : l ∈ ls
    · simp [hin]
    · by_cases ha : l = a <;> simp [hin, ha]

/-- Entries put in turn into an empty table, each with its own value. -/
theorem mfind_fold_minsert (tgt : Nat → Nat) (ls : List Nat) (l : Nat) : ∀ m : List (Nat × Nat),
    mfind l (ls.foldl (fun m l => minsert l (tgt l) m) m) = if l ∈ ls then some (tgt l) else mfind l m := by
  induction ls with
  | nil => exact fun m => by simp
  | cons a ls ih =>
    intro m
    rw [List.foldl_cons, ih, mfind_minsert]
    by_cases hin : l ∈ ls
    · simp [hin]
    · by_cases ha : l = a <;> simp [hin, ha]

theorem fold_spc (tgt : Nat → Nat) (ls : List Nat) : ∀ g : Group,
    ls.foldl (fun (g : Group) l => { g with spc := cset 0 l (tgt l) g.spc }) g = { g with spc := ls.foldl (fun m l => cset 0 l (tgt l) m) g.spc } := by
  induction ls with
  | nil => exact fun g => rfl
  | cons a ls ih => exact fun g => ih _

/-- With no open loop a lane only moves on. -/
theorem arrive_noLoop {g : Group} (h : g.loops = []) (pc : Nat) (b : Bool) (l n : Nat) : arrive pc b g (l, n) = { g with upc := cset 0 l n g.upc } := by
  have hleave : (if b then leaveByBranch g.loops l pc n else g.loops) = g.loops := by rw [h]; cases b <;> rfl
  simp only [arrive, hleave]
  rw [h]
  simp only [innermost, List.filter_nil, List.getLast?_nil]

theorem fold_arrive_noLoop (pc : Nat) (b : Nat → Bool) (tgt : Nat → Nat) (ls : List Nat) : ∀ g : Group, g.loops = [] →
    ls.foldl (fun g l => arrive pc (b l) g (l, tgt l)) g = { g with upc := ls.foldl (fun m l => cset 0 l (tgt l) m) g.upc } := by
  induction ls with
  | nil => exact fun g _ => rfl
  | cons a ls ih =>
    intro g h
    rw [List.foldl_cons, arrive_noLoop h]
    exact ih { g with upc := cset 0 a (tgt a) g.upc } h

/-- No loop closes where none is open. -/
theorem closeLoops_noLoop {g : Group} (h : g.loops = []) (again : Bool) : ∀ fuel, closeLoops fuel g again = (g, again)
  | 0 => rfl
  | fuel + 1 => by simp [closeLoops, closeOne, h]

theorem dropCapture_upc (before : List LoopEntry) (g : Group) : (dropCapture before g).upc = g.upc := by
  unfold dropCapture
  split <;> rfl

theorem settleWindow_upc {x : Ctx} (s : State) {o : Out} (g : Group) (hr : x.inReplay = false) (ho : o.own = none) :
    (settleWindow x s o g).upc = g.upc := by
  simp only [settleWindow, hr, ho, Bool.false_eq_true, if_false]

theorem Settles.service {g h : Group} (a : Settles g h) : h.service = g.service := by
  have := a.keeps; unfold KeepsGroup at this; rw [← this]

/-- At user level each lane that goes on takes its next address, and no body begins again. -/
theorem settleLoops_noLoop {x : Ctx} {o : Out} {g : Group} (h : g.loops = []) (cyc : Nat) :
    (settleLoops x o cyc g).2 = false ∧ ∀ l, cget 0 l (settleLoops x o cyc g).1.upc = if l ∈ movedOf x o then nextOf x o l else cget 0 l g.upc := by
  unfold settleLoops
  rw [fold_arrive_noLoop _ _ _ _ _ (by exact h)]
  dsimp only
  rw [closeLoops_noLoop (by simp [h, popEmpty]) false 8]
  exact ⟨rfl, fun l => by rw [dropCapture_upc]; exact cget_fold_cset_fn _ _ _ _⟩

/-- At service level each takes its next service program counter. -/
theorem settleService_spc (x : Ctx) (o : Out) (cyc : Nat) (g : Group) (l : Nat) :
    cget 0 l (settleService x o cyc g).spc = if l ∈ movedOf x o then nextOf x o l else cget 0 l g.spc := by
  unfold settleService
  rw [fold_spc]
  exact cget_fold_cset_fn _ _ _ _

/-- After an issue without an operation of its own in a group without an open loop, each lane that goes on stands at its next address, every
other where it stood. -/
theorem finishIssue_pcs {x : Ctx} {s : State} {o : Out} {g g' : Group} (hg : mfind x.g.gid s.groups = some g) (hk : g.gid = x.g.gid)
    (hs : g.service = x.g.service) (hloops : g.loops = []) (hr : x.inReplay = false) (ho : o.own = none)
    (hg' : mfind x.g.gid (finishIssue x s o).groups = some g') (l : Nat) : getPc g' l = if l ∈ movedOf x o then nextOf x o l else getPc g l := by
  unfold finishIssue at hg'
  rw [hg] at hg'
  dsimp only at hg'
  by_cases hserv : x.g.service = true
  · have hset := settles_service x o (slotTime s x.g) g
    rw [if_pos hserv, ← hset.gid.trans hk] at hg'
    obtain rfl := Option.some.inj ((find_setGroup _ s).symm.trans hg')
    rw [getPc, getPc, hset.service, hs, if_pos hserv, if_pos hserv, settleService_spc]
  · obtain ⟨hagain, hupc⟩ := settleLoops_noLoop (x := x) (o := o) hloops (slotTime s x.g)
    have hset := (settles_settleLoops x o (slotTime s x.g) g).trans (settles_settleWindow x s o _ hr)
    rw [if_neg hserv, hagain, ← hset.gid.trans hk] at hg'
    obtain rfl := Option.some.inj ((find_setGroup _ s).symm.trans hg')
    rw [getPc, getPc, hset.service, hs, if_neg hserv, if_neg hserv, settleWindow_upc s _ hr ho, hupc]

/-! Branches (spec/07 R129). -/

theorem enLanes_sub {x : Ctx} {l : Nat} (h : l ∈ enLanes x) : l ∈ x.lanes := (List.mem_filter.mp h).1

theorem enLanes_lt {x : Ctx} {l : Nat} (h : l ∈ enLanes x) : l < 96 := (mem_lanesOf.mp (enLanes_sub h)).1

/-- The targets of the enabled lanes, as an outcome names them. -/
def branchTargets (x : Ctx) (tgt : Nat → Nat) : List (Nat × Nat) := (enLanes x).foldl (fun m l => minsert l (tgt l) m) []

theorem mfind_branchTargets (x : Ctx) (tgt : Nat → Nat) (l : Nat) : mfind l (branchTargets x tgt) = if l ∈ enLanes x then some (tgt l) else none :=
  mfind_fold_minsert tgt _ l []

/-- The group after `n` link registers were written: CALL's pair takes the address after it, other branches write none. -/
def linked (x : Ctx) (n : Nat) : Group := if n = 2 then writeAll x x.r.d 2 (fun _ => (x.fall, false)) (enLanes x) x.g else x.g

/-- A branch whose targets are whole instructions and not poisoned. -/
theorem branchTo_calm {x : Ctx} (hc : Calm x) {tgt : Nat → Nat × Bool} (hclean : ∀ l, (tgt l).2 = false) (halign : ∀ l ∈ enLanes x, (tgt l).1 % 4 = 0)
    (leaves link : Bool) :
    branchTo x tgt leaves link = .ok (setGroup (if link then writeAll x x.r.d 2 (fun _ => (x.fall, false)) (enLanes x) x.g else x.g) x.s)
      { next := some (branchTargets x (fun l => (tgt l).1)), branch := leaves, ctl := true } := by
  have hany : (enLanes x).any (fun l => (tgt l).1 % 4 != 0) = false := by
    rw [List.any_eq_false]
    exact fun l hl => by simp [halign l hl]
  have hpoison : (enLanes x).filter (fun l => (tgt l).2) = [] := List.filter_eq_nil_iff.mpr (fun l _ => Bool.eq_false_iff.mp (hclean l))
  simp only [branchTo, hany, hpoison, ppLanes_clean x hc.clean, List.append_nil, List.isEmpty_nil, Bool.not_true, Bool.false_eq_true, if_false]
  rfl

/-- The effect of an instruction of `branchTarget`. -/
theorem bodyOf_branch {i : Instr} {x : Ctx} {tgt : Nat → Nat} (h : branchTarget x i = some tgt) (hc : Calm x) (halign : ∀ l ∈ enLanes x, tgt l % 4 = 0) :
    bodyOf i x = .ok (setGroup (linked x (linkRegs i)) x.s) { next := some (branchTargets x tgt), branch := linkRegs i == 0, ctl := true } := by
  unfold branchTarget at h
  split at h <;> cases h
  iterate 4 · exact branchTo_calm hc (fun _ => rfl) halign _ _
  iterate 3 · exact branchTo_calm hc (fun l => srcB_clean x hc.clean l) halign _ _

theorem linkRegs_cases (i : Instr) : linkRegs i = 0 ∨ linkRegs i = 2 := by
  unfold linkRegs
  split <;> simp

theorem linked_regsOnly {x : Ctx} (hr : x.inReplay = false) (n : Nat) : RegsOnly x.g (linked x n) := by
  unfold linked
  split
  · exact writeAll_regsOnly hr _ _ _ _ (fun l hl => enLanes_lt hl) _
  · exact .refl _

theorem link_lt {d n k : Nat} (hn : n = 0 ∨ n = 2) (hd : n = 2 → isV (d + 1) = true) (hk : k < n) : d + k < 768 := by
  rcases hn with rfl | rfl
  · omega
  · have : d + 1 < 768 := by simpa [isV] using hd rfl
    omega

/-- Link registers are written in the enabled lanes alone. -/
theorem linked_regs {x : Ctx} {n : Nat} (hr : x.inReplay = false) (hn : n = 0 ∨ n = 2) (hd : n = 2 → isV (x.r.d + 1) = true) :
    (∀ l ∈ enLanes x, ∀ k, k < n → getReg (linked x n) (x.r.d + k) l = bits x.fall (32 * k) 32) ∧ KeepsRegs x.g (linked x n) x.r.d n (enLanes x) := by
  have hlt {k : Nat} := link_lt (k := k) hn hd
  rcases hn with rfl | rfl
  · exact ⟨fun _ _ k hk => absurd hk (Nat.not_lt_zero k), .refl _ _ _ _⟩
  · have hlc : isLc x.r.d = false := by have := hlt (k := 0) (by decide); simp [isLc]; omega
    obtain ⟨-, holds, keeps⟩ := writeAll_vector (n := 2) hr hlc (fun k hk => decide_eq_true (hlt hk)) (fun _ => (x.fall, false)) (enLanes x)
      (fun l hl => enLanes_lt hl) x.g
    exact ⟨fun l hl k hk => (holds l hl k hk).1, keeps⟩

/-- Where no lane stays and none joins, the lanes of the issue go on. -/
theorem movedOf_lanes (x : Ctx) {o : Out} (hs : o.stay = 0) (ha : o.also = 0) : movedOf x o = x.lanes := by
  have hall : (x.mask &&& ~~~(0 : LaneMask)) ||| 0 = x.mask := by
    rw [show ~~~(0 : LaneMask) = BitVec.allOnes 96 from rfl, BitVec.and_allOnes]
    exact BitVec.or_zero
  rw [movedOf, hs, ha, hall]
  rfl

/-- With no loop open a branch sends the enabled lanes to their targets and the others of the issue on. -/
theorem branch_pcs {x : Ctx} {g1 g' : Group} {tgt : Nat → Nat} {b : Bool} (hc : Calm x) (only : RegsOnly x.g g1) (hloops : x.g.loops = [])
    (hfind : mfind x.g.gid (finishIssue x (setGroup g1 x.s) { next := some (branchTargets x tgt), branch := b, ctl := true }).groups = some g') (l : Nat) :
    getPc g' l = if l ∈ x.lanes then (if l ∈ enLanes x then tgt l else x.fall) else getPc x.g l := by
  have hserv : g1.service = x.g.service := (congrArg Group.service only :)
  have hopen : g1.loops = [] := (congrArg Group.loops only :).trans hloops
  have hpc : getPc g1 l = getPc x.g l := (congrArg (getPc · l) only :)
  rw [finishIssue_pcs (only.gid ▸ find_setGroup g1 x.s) only.gid hserv hopen hc.inReplay rfl hfind l, movedOf_lanes x rfl rfl, hpc, nextOf]
  simp only [mfind_branchTargets]
  split
  · split <;> rfl
  · rfl

end Sys2Proof.Machine

namespace Sys2Proof.Settled
open Sys2Proof.Machine

/-- Settles O14: the issue ends with the enabled lanes' targets, to which, with no loop open, its lanes go. -/
theorem branches : Obligations.Branches := by
  refine ⟨fun i tgt s x ht hx hg hc hloops halign hlink => ?_, fun i tgt s x ht hx hg hc halign => ?_⟩
  · have only := linked_regsOnly hc.inReplay (linkRegs i)
    obtain ⟨regs, keeps⟩ := linked_regs hc.inReplay (linkRegs_cases i) hlink
    obtain ⟨g', he, hfind, hout, settles⟩ := exec_regsOnly hx hg hc.inReplay only (bodyOf_branch ht hc halign)
    have pcs := branch_pcs hc only hloops hfind
    refine ⟨_, g', he, hfind, hout, only.keeps.trans settles.keeps, fun l hl => ?_, fun l _ hl => ?_, fun l hl k hk => ?_, settles.keepsRegs keeps⟩
    · rw [pcs, if_pos hl]
    · rw [pcs, if_neg hl]
    · have := link_lt (linkRegs_cases i) hlink hk
      rw [settles.regs _ _ (by omega) (enLanes_lt hl), regs l hl k hk]
  · obtain ⟨g', he, -⟩ := exec_regsOnly hx hg hc.inReplay (linked_regsOnly hc.inReplay _) (bodyOf_branch ht hc halign)
    exact ⟨branchTargets x tgt, mfind_branchTargets x tgt, hx.st ▸ he⟩

end Sys2Proof.Settled
end

section
namespace Sys2Proof.Machine

/-! The floating instructions that are a function of the lane and its sources (spec/09 R156 to R163), and the conversions (R165 to R168). -/

/-- The effect of an instruction of `floatOther` is that function in every lane (R156 to R159, R161 to R163). -/
theorem bodyOf_floatOther {i : Instr} {x : Ctx} {F : Nat → Nat → Nat → Nat} (h : ∀ l, floatOther x l i = some (F l)) :
    bodyOf i x = laneOp x 1 x.isSR (fun l => (F l (srcA x l).1 (srcB x l).1, anyPoisoned x l)) := by
  obtain ⟨F0, h0⟩ : ∃ F0, floatOther x 0 i = some F0 := ⟨F 0, h 0⟩
  unfold floatOther at h0
  split at h0 <;> cases h0
  all_goals
    obtain rfl := funext fun l => Option.some.inj (h l)
    rfl

/-- CVT in every lane (R165). -/
theorem bodyCvt_eq (x : Ctx) : bodyCvt x =
    laneOp x x.ty.regs x.isSR (fun l => (cvtOut (tyOf .pairI x.r.fn) x.ty x.rnd x.r.sat (x.sr l 0) (srcB x l).1, (srcB x l).2)) := rfl

/-- A block descriptor without poison is taken as it stands (R166). -/
theorem descCheck_calm {x : Ctx} (hc : Calm x) (k : Nat → Res) : descCheck x k = k (srcB x x.lo).1 := by
  simp only [descCheck, srcB_clean x hc.clean, Bool.false_and, Bool.false_eq_true, if_false]

/-- The lanes of QBLK that stand in a whole block of `L` lanes (R167). -/
def blockLanes (x : Ctx) (L : Nat) : List Nat := (workLanes x).filter (fun l => decide (l / L < 96 / L))

theorem mem_blockLanes {x : Ctx} {L l : Nat} : l ∈ blockLanes x L ↔ l ∈ workLanes x ∧ l / L < 96 / L := by
  simp [blockLanes]

/-- What QBLK gives lane `l` of its block of `L` lanes: the integer of its element, or the block's scale byte (R167). -/
def qblkLane (x : Ctx) (d L l : Nat) : Nat :=
  if x.r.fn = 0 then wrap 32 ((qblkBlock x d (l / L * L) L).1.getD (l % L) 0) else (qblkBlock x d (l / L * L) L).2.1

/-- A table of the values of a function holds them at its keys. -/
theorem mfind_map_graph {α : Type} (f : Nat → α) {k : Nat} : ∀ {ks : List Nat}, k ∈ ks → mfind k (ks.map (fun j => (j, f j))) = some (f k)
  | j :: ks, h => by
    by_cases hk : k = j
    · simp [mfind, hk]
    · simpa [mfind, hk] using mfind_map_graph f ((List.mem_cons.mp h).resolve_left hk)

/-- With no source poisoned neither is a block. -/
theorem qblkBlock_clean {x : Ctx} (hc : Calm x) (d lo L : Nat) : (qblkBlock x d lo L).2.2 = false := by
  simp [qblkBlock, srcA_clean x hc.clean]

/-- QBLK under the descriptor `d` for blocks of `L` lanes writes each lane of a whole block its element's result (R167). -/
theorem bodyQblk_calm {x : Ctx} (hc : Calm x) {d L : Nat} (hdesc : (srcB x x.lo).1 = d) (hlen : blkLen (bits d 4 2) = L) :
    ∃ o, bodyQblk x = .ok (setGroup (((blockLanes x L).map (fun l => (l, qblkLane x d L l, false))).foldl
      (fun g e => writeDst x g x.r.d 1 e.1 e.2.1 e.2.2) x.g) x.s) o := by
  rw [bodyQblk, descCheck_calm hc, hdesc]
  simp only [hlen]
  rw [List.map_congr_left (l := (workLanes x).filter _) (g := fun l => (l, qblkLane x d L l, false))]
  · exact ⟨_, rfl⟩
  intro l hl
  have hb : l / L ∈ (List.range (96 / L)).filter (fun b => (blockLanes x L).any (fun m => m / L == b)) := by
    rw [List.mem_filter, List.mem_range, List.any_eq_true]
    exact ⟨(mem_blockLanes.mp hl).2, l, hl, beq_self_eq_true _⟩
  have hfind := mfind_map_graph (fun b => qblkBlock x d (b * L) L) hb
  rw [blockLanes] at hfind
  simp only [hfind, Option.getD_some, qblkBlock_clean hc, predOf_clean x hc.clean, Bool.or_self, qblkLane]

/-- It changes the registers of those lanes alone. -/
theorem qblk_writes {f : Form} {s : State} {x : Ctx} (hx : Issues (.qblk f) s x) (hg : Goes x) (hc : Calm x) (hd : LaneDst x 1) {d L : Nat}
    (hdesc : (srcB x x.lo).1 = d) (hlen : blkLen (bits d 4 2) = L) :
    ∃ t g', exec (.qblk f) s = .next t ∧ mfind x.g.gid t.groups = some g' ∧ KeepsOutside s t x.g.gid ∧ KeepsGroup x.g g' ∧
      (∀ l ∈ blockLanes x L, ∀ k, k < 1 →
        getReg g' (x.r.d + k) l = bits (qblkLane x d L l) (32 * k) 32 ∧ getPoison g' (x.r.d + k) l = false) ∧
      KeepsRegs x.g g' x.r.d 1 (blockLanes x L) := by
  obtain ⟨o, hb⟩ := bodyQblk_calm hc hdesc hlen
  obtain ⟨hone, hlc, hsame⟩ := hd.one
  refine exec_writes bodyQblk hx hg hc hx.exec 1 _ o _ hlc hsame (fun l hl => workLanes_lt x l (mem_blockLanes.mp hl).1) (fun hv => ?_)
    (fun _ _ _ hk => hd.lt (by decide) hk) hb
  exact Nat.le_trans (List.length_filter_le ..) (hone hv)

end Sys2Proof.Machine

namespace Sys2Proof.Settled
open Sys2Proof.Machine

/-- Settles O9: each effect is its function of `floatOther` in every lane, which no source poisons. -/
theorem floatFunctions : Obligations.FloatFunctions := fun i _ _ x hF hx hg hc hd =>
  laneOp_computes (bodyOf i) hx hg hc hd (by decide) hx.exec x.isSR _ (bodyOf_floatOther hF) (anyPoisoned_clean x hc.clean)

/-- Settles O10: CVT and DQBLK in every lane, QBLK in the lanes of whole blocks. -/
theorem conversions : Obligations.Conversions := by
  refine fun f s x hg hc => ⟨fun hx hd => ?_, fun _ _ => ⟨fun hx hd => ?_, fun hx hd _ => ?_⟩⟩
  · exact laneOp_computes bodyCvt hx hg hc hd (Nat.le_trans (regs_le_two _) (by decide)) hx.exec _ _ (bodyCvt_eq x) (srcB_clean x hc.clean)
  · refine laneOp_computes bodyDqblk hx hg hc hd (by decide) hx.exec _ _ (descCheck_calm hc _) (fun l => ?_)
    simp only [srcA_clean x hc.clean, srcC_clean x hc.clean, Bool.or_self]
  · obtain ⟨t, g', he, hfind, hout, hkeep, hval, hregs⟩ := qblk_writes hx hg hc hd rfl rfl
    exact ⟨t, g', he, hfind, hout, hkeep, hregs, fun l hl hL => (hval l (mem_blockLanes.mpr ⟨hl, hL⟩) 0 (by decide)).1⟩

end Sys2Proof.Settled
end

section
namespace Sys2Proof.Machine

/-! The instructions that combine the lanes of P (spec/09 R170 to R176). -/

/-- The number that FN and B name for lane `l` of SHFL, which may be no lane (R170). -/
def shflNumber (fn l k : Nat) : Nat := if fn = 0 then k else if fn = 1 then (if k ≤ l then l - k else 96) else if fn = 2 then l + k else l ^^^ k

theorem shflLane_eq (fn l k : Nat) : shflLane fn l k = if shflNumber fn l k < 96 then some (shflNumber fn l k) else none := by
  match fn with
  | 0 | 1 | 2 | _ + 3 => rfl

/-- SHFL in every lane (R170). -/
theorem bodyShfl_calm {x : Ctx} (hc : Calm x) : bodyShfl x = laneOp x x.ty.regs false (fun l =>
    (let m := shflNumber x.r.fn l ((srcB x l).1 % 2 ^ 32)
     if m < 96 then (srcA x m).1 else 0, false)) := by
  refine congrArg (laneOp x x.ty.regs false) (funext fun l => ?_)
  simp only [shflLane_eq]
  generalize shflNumber x.r.fn l ((srcB x l).1 % 2 ^ 32) = m
  by_cases hm : m < 96 <;> simp [hm, srcA_clean x hc.clean, srcB_clean x hc.clean]

/-- Without poison the lanes' contributions are their votes (R171). -/
theorem contrib_calm {x : Ctx} (hc : Calm x) : contrib x = (votes x).map (fun e => (e.1, e.2, false)) := by
  simp only [contrib, votes, List.map_map]
  exact List.map_congr_left fun l _ => by simp [← srcB_clean x hc.clean l]

theorem partPoison_calm {x : Ctx} (hc : Calm x) : partPoison x = false := by
  simp only [partPoison, ppLanes_clean x hc.clean, List.isEmpty_nil, Bool.not_true]

/-- To vector registers each lane of P writes its result. -/
theorem partWrite_vector {x : Ctx} (hc : Calm x) (hv : isV x.r.d = true) (n : Nat) (sr : Bool) (f : Nat → Nat × Bool) :
    partWrite x n sr f = laneOp x n sr f := by
  simp only [partWrite, laneOp, hv, if_true, partPoison_calm hc, predOf_clean x hc.clean]

/-- To uniform registers the lowest lane of P writes its result, once (R176). -/
theorem partWrite_uniform {x : Ctx} (hc : Calm x) (hv : isV x.r.d = false) (n : Nat) (sr : Bool) (F : Nat → Nat) {l : Nat} (hl : (workLanes x).head? = some l) :
    partWrite x n sr (fun l => (F l, false)) = .ok (setGroup (writeDst x x.g x.r.d n l (F l) false) x.s) { sr := sr } := by
  obtain ⟨ls, hls⟩ := List.head?_eq_some_iff.mp hl
  simp only [partWrite, hv, hls, partPoison_calm hc, Bool.false_eq_true, if_false, List.take_succ_cons, List.take_zero, List.map_cons, List.map_nil,
    List.foldl_cons, List.foldl_nil, List.any_cons, List.any_nil, Bool.or_self]

theorem any_false {α : Type} (es : List α) : es.any (fun _ => false) = false := by simp [List.any_eq_false]

/-- All of a list have a property where as many as there are have it. -/
theorem length_filter_beq {α : Type} (p : α → Bool) (es : List α) : ((es.filter p).length == es.length) = es.all p := by
  rw [Bool.eq_iff_iff, beq_iff_eq, List.length_filter_eq_length_iff, List.all_eq_true]

theorem isEmpty_filter {α : Type} (p : α → Bool) (es : List α) : (es.filter p).isEmpty = es.all (fun e => !p e) := by
  rw [Bool.eq_iff_iff, List.isEmpty_iff, List.filter_eq_nil_iff, List.all_eq_true]
  simp

/-- A bit that is not one is zero. -/
theorem not_mod_two_one (k : Nat) : (!(k % 2 == 1)) = (k % 2 == 0) := by
  rcases Nat.mod_two_eq_zero_or_one k with h | h <;> simp [h]

/-- A vote is one where not all are other than one. -/
theorem any_one_eq (es : List (Nat × Nat)) : es.any (fun e => e.2 % 2 == 1) = !es.all (fun e => !(e.2 % 2 == 1)) := by
  simp only [List.not_all_eq_any_not, Bool.not_not]

/-- The votes agree where none is one or all are (R172). -/
theorem agree_eq (es : List (Nat × Nat)) : (es.all (fun e => e.2 % 2 == 1) || es.all (fun e => e.2 % 2 == 0)) =
    (es.all (fun e => !(e.2 % 2 == 1)) || es.all (fun e => e.2 % 2 == 1)) := by
  rw [Bool.or_comm, funext fun e : Nat × Nat => not_mod_two_one e.2]

/-- The effect of an instruction of `crossFn` gives each lane its value from the votes (R171 to R175). -/
theorem bodyOf_crossFn {i : Instr} {x : Ctx} (hc : Calm x) {n : Nat} {F : Nat → Nat} (h : crossFn x i = some (n, F)) :
    ∃ sr, bodyOf i x = partWrite x n sr (fun l => (F l, false)) := by
  have votesOf := contrib_calm hc
  unfold crossFn at h
  split at h
  · change ∃ sr, bodyMatch x = _
    rw [bodyMatch, votesOf]
    split at h <;> cases h <;> rename_i hfn
    · simp only [if_pos hfn]
      refine ⟨false, congrArg (partWrite x 3 false) (funext fun l => ?_)⟩
      simp [List.filter_map, Function.comp_def, any_false]
    · simp only [if_neg hfn]
      refine ⟨false, congrArg (partWrite x 1 false) (funext fun l => ?_)⟩
      simp [List.filter_map, Function.comp_def, any_false]
  · cases h
    change ∃ sr, bodyBallot x = _
    refine ⟨false, congrArg (partWrite x 3 false) (funext fun l => ?_)⟩
    simp [votesOf, List.filter_map, Function.comp_def, any_false]
  · cases h
    change ∃ sr, bodyVote x = _
    refine ⟨false, congrArg (partWrite x 1 false) (funext fun l => ?_)⟩
    simp only [votesOf, List.map_map, List.all_map, List.any_map, Function.comp_def, any_false, length_filter_beq, isEmpty_filter]
    generalize x.r.fn = fn
    match fn with
    | 0 => rfl
    | 1 => exact congrArg (fun b => (condWord b, false)) (any_one_eq (votes x))
    | _ + 2 => exact congrArg (fun b => (condWord b, false)) (agree_eq (votes x))
  · cases h
    change ∃ sr, bodyRedu x = _
    refine ⟨x.isSR, congrArg (partWrite x x.ty.regs x.isSR) (funext fun l => ?_)⟩
    simp [votesOf, Function.comp_def, any_false]
  · cases h
    change ∃ sr, bodyScan x = _
    refine ⟨x.isSR, congrArg (partWrite x x.ty.regs x.isSR) (funext fun l => ?_)⟩
    simp [votesOf, List.filter_map, Function.comp_def, any_false]
  · cases h

/-- A uniform register is one cell for every lane. -/
theorem getReg_uniform {c : Nat} (hc : isV c = false) (g : Group) (l m : Nat) : getReg g c l = getReg g c m := by simp [getReg, regKey, hc]
theorem getPoison_uniform {c : Nat} (hc : isV c = false) (g : Group) (l m : Nat) : getPoison g c l = getPoison g c m := by simp [getPoison, regKey, hc]

/-- An effect that writes one clean value to uniform registers, from whichever lane. -/
theorem writesOnce_uniform {i : Instr} {s : State} {x : Ctx} {n l v : Nat} {o : Out} (hx : Issues i s x) (hg : Goes x) (hc : Calm x) (hd : isS x.r.d = true)
    (hn : n ≤ 16) (hl : l < 96) (hb : bodyOf i x = .ok (setGroup (writeDst x x.g x.r.d n l v false) x.s) o) : WritesOnce i s x n v := by
  have hcode : 768 ≤ x.r.d ∧ x.r.d < 928 := of_decide_eq_true hd
  have hlc : isLc x.r.d = false := by simp [isLc]; omega
  have hv (c : Nat) (h : 768 ≤ c) : isV c = false := by simpa [isV] using h
  obtain ⟨only, holds, keeps⟩ := writeDst_writes (n := n) hc.inReplay hlc hl (fun _ => (v, false)) x.g
  obtain ⟨g', he, hfind, hout, settles⟩ := exec_regsOnly hx hg hc.inReplay only hb
  have kept := settles.keepsRegs keeps
  refine ⟨_, g', he, hfind, hout, only.keeps.trans settles.keeps, fun k hk => ?_, fun c m h1 h2 ho => kept c m h1 h2 (.inl ?_)⟩
  · obtain ⟨hreg, hpoison⟩ := holds l (by simp) k hk
    have huni := hv (x.r.d + k) (by omega)
    rw [getReg_uniform huni g' 0 l, getPoison_uniform huni g' 0 l, settles.regs _ _ (by omega) hl, settles.getPoison_eq]
    exact ⟨hreg, hpoison⟩
  · rcases ho with ho | ⟨hcv, -⟩
    · exact ho
    · have : c < 768 := of_decide_eq_true hcv
      omega

theorem crossFn_regs {x : Ctx} {i : Instr} {n : Nat} {F : Nat → Nat} (h : crossFn x i = some (n, F)) : n ≤ 3 := by
  have two := regs_le_two x.ty
  unfold crossFn at h
  split at h
  · split at h <;> cases h <;> decide
  · cases h; decide
  · cases h; decide
  · cases h; omega
  · cases h; omega
  · cases h

end Sys2Proof.Machine

namespace Sys2Proof.Settled
open Sys2Proof.Machine

/-- Settles O11: SHFL in every lane; the others by their results, which each lane of P writes, or the lowest once. -/
theorem acrossLanes : Obligations.AcrossLanes := by
  refine ⟨fun f s x hx hg hc hd => ?_, fun i n F s x hF hx hg hc => ?_⟩
  · exact laneOp_computes bodyShfl hx hg hc hd (Nat.le_trans (regs_le_two _) (by decide)) hx.exec _ _ (bodyShfl_calm hc) (fun _ => rfl)
  · have hn : n ≤ 16 := Nat.le_trans (crossFn_regs hF) (by decide)
    obtain ⟨sr, hb⟩ := bodyOf_crossFn hc hF
    refine ⟨fun hv hlast => ?_, fun hs l hl => ?_⟩
    · exact laneOp_computes (bodyOf i) hx hg hc (.inl ⟨hv, hlast⟩) hn hx.exec sr _ (hb.trans (partWrite_vector hc hv n sr _)) (fun _ => rfl)
    · have hv : isV x.r.d = false := by simp [isS] at hs; simp [isV]; omega
      exact writesOnce_uniform hx hg hc hs hn (workLanes_lt x l (List.mem_of_mem_head? hl)) (hb.trans (partWrite_uniform hc hv n sr F hl))

end Sys2Proof.Settled
end

section
namespace Sys2Proof.Machine

/-! Loads (spec/15 R260 to R266). -/

/-- With no poisoned register every lane's address can be judged (R258). -/
theorem whereOf_sound {x : Ctx} (hc : Calm x) (l : Nat) : (whereOf x l).bad = false := by
  unfold whereOf
  dsimp only
  split
  · exact srcB_clean x hc.clean l
  · split
    · exact srcB_clean x hc.clean l
    · simp [srcA_clean x hc.clean, srcB_clean x hc.clean]

theorem laneWheres_sound {x : Ctx} (hc : Calm x) : ∀ w ∈ laneWheres x, w.bad = false := by
  intro w hw
  obtain ⟨l, -, rfl⟩ := List.mem_map.mp hw
  exact whereOf_sound hc l

/-- The effect of a load is that of its shape. -/
theorem bodyOf_loadShape {i : Instr} {x : Ctx} {n bytes ty : Nat} (h : loadShape x i = some (n, bytes, ty)) : bodyOf i x = loadBody n bytes ty x := by
  unfold loadShape at h
  split at h <;> cases h <;> rfl

/-- Lanes that all translate, each with its pieces. -/
theorem AllTranslate.pieces {tr : List (Where × Except XFault (List Piece))} (h : AllTranslate tr) :
    ∃ es : List (Where × List Piece), tr = es.map (fun e => (e.1, .ok e.2)) := by
  induction tr with
  | nil => exact ⟨[], rfl⟩
  | cons e tr ih =>
    obtain ⟨es, rfl⟩ := ih (fun e he => h e (List.mem_cons_of_mem _ he))
    obtain ⟨ps, hps⟩ := h e List.mem_cons_self
    exact ⟨(e.1, ps) :: es, by rw [List.map_cons, ← hps]⟩

/-- Where every lane translates, a load leaves its accesses with their destinations pending, and takes what is present. -/
theorem loadBody_translated {x : Ctx} (hc : Calm x) {n bytes ty : Nat} (hbare : isBare x = false) (hdata : dataBreak x 1 (laneWheres x) bytes = none)
    (hpad : padExtent x (laneWheres x) bytes = none) (hall : AllTranslate (xlateLanes x .rd false bytes (laneWheres x) x.s).1) :
    loadBody n bytes ty x =
      (let tr := xlateLanes x .rd false bytes (laneWheres x) x.s
       let accs := accessesOf bytes (fun _ => 0) (fun _ => 0) tr.1
       let g := (accs.filter (fun a => a.isOpen)).foldl (fun g a => pendReg x.r.d n a.lane g) x.g
       .ok (pump (takePresent x tr.2.nextOp (addOp (setGroup g tr.2) { opOf x .ld (.load x.r.d n ty x.r.uni) with accs := accs }))) {}) := by
  have hgood : (laneWheres x).filter (fun w => !w.bad) = laneWheres x := by
    rw [List.filter_eq_self]
    exact fun w hw => by simp [laneWheres_sound hc w hw]
  have hbad : (laneWheres x).filter (fun w => w.bad) = [] := by
    rw [List.filter_eq_nil_iff]
    exact fun w hw => by simp [laneWheres_sound hc w hw]
  have hws : (accLanes x).map (whereOf x) = laneWheres x := rfl
  have hre (ls : List Nat) : reissue x ls = ls := by simp [reissue, hc.inReplay]
  unfold loadBody
  simp only [hbare, hre, hws, hdata, hpad, hgood, hbad, ppLanes_clean x hc.clean, hc.inReplay]
  obtain ⟨es, hes⟩ := hall.pieces
  simp only [hes, accessesOf, List.filterMap_map, Function.comp_def]
  have hdead (u : Bool) : (if u = true then ([] : List Nat).take 1 else []) = [] := by rw [List.take_nil, ite_self]
  have hnone : es.filterMap (fun _ => (none : Option (Nat × XFault))) = [] := List.filterMap_eq_nil_iff.mpr (fun _ _ => rfl)
  simp only [hnone, hdead, List.map_nil, List.append_nil, List.head?_nil, Option.isSome_none, Bool.and_false, Bool.false_and, List.isEmpty_nil,
    Bool.not_true, Bool.false_eq_true, if_false, if_true, List.foldl_nil, setGroup_nextOp]

end Sys2Proof.Machine

namespace Sys2Proof.Settled
open Sys2Proof.Machine

/-- Settles O26: a load without an enabled lane leaves its order alone, and one whose lanes all translate its operation. -/
theorem loads : Obligations.Loads := by
  intro i n bytes ty s x hshape hx hg hc
  obtain rfl := hx.st
  have hbody := bodyOf_loadShape hshape
  refine ⟨fun hbare => hx.endsWith hg (hbody.trans (if_pos hbare)), fun hbare hdata hpad hall => ?_⟩
  exact hx.endsWith hg (hbody.trans (loadBody_translated hc hbare hdata hpad hall))

end Sys2Proof.Settled
end

section
namespace Sys2Proof.Machine

/-! What a store's part leaves in memory at its home (spec/11 R189, R195, R200). -/

/-- `t` has all of `s` that the bytes at a home are read and written by: memory and the entries of the pool's regions, the halves that the
host holds, data errors with their tags, and the frames of the dray cache. -/
structure SameHome (s t : State) : Prop where
  mem : t.mem = s.mem
  halves : t.hostHalf = s.hostHalf
  entries : t.pool.entries = s.pool.entries
  tags : t.tags = s.tags
  errors : t.lineErr = s.lineErr
  dray : t.dray = s.dray

theorem SameHome.refl (s : State) : SameHome s s := ⟨rfl, rfl, rfl, rfl, rfl, rfl⟩

theorem SameHome.trans {s t u : State} (a : SameHome s t) (b : SameHome t u) : SameHome s u :=
  ⟨b.mem.trans a.mem, b.halves.trans a.halves, b.entries.trans a.entries, b.tags.trans a.tags, b.errors.trans a.errors, b.dray.trans a.dray⟩

theorem SameHome.memByte_eq {s t : State} (h : SameHome s t) (b : Nat) : memByte t b = memByte s b := by
  unfold memByte
  rw [h.halves, h.mem, memKey_congr s t h.entries]

theorem SameHome.lineBad_eq {s t : State} (h : SameHome s t) (pa : Nat) : lineBad t pa = lineBad s pa := by
  unfold lineBad
  rw [h.errors, h.tags]

theorem opRelease_home (s : State) (o : Op) : SameHome s (opRelease s o) ∧ (opRelease s o).l1 = s.l1 := by
  unfold opRelease
  split
  · unfold releaseDone
    dsimp only
    split <;> exact ⟨⟨rfl, rfl, rfl, rfl, rfl, rfl⟩, rfl⟩
  · exact ⟨.refl s, rfl⟩

theorem poolMark_home (s : State) (gid pa : Nat) : SameHome s (poolMark s gid pa) := by
  unfold poolMark
  split
  · dsimp only
    split <;> exact ⟨rfl, rfl, rfl, rfl, rfl, rfl⟩
  · exact .refl s

/-- Where no copy is in error no line is lost with its owner's copy (R214). -/
theorem l1Lost_sound {s : State} (h : ∀ e ∈ s.l1, e.2.bad = false) (line : Nat) : l1Lost s line = s := by
  unfold l1Lost
  split
  · rfl
  · split
    · rename_i c _ _ e he
      rw [h _ (mem_of_mfind he), Bool.false_and, if_neg Bool.false_ne_true]
    · rfl

theorem recallOwner_home {s : State} (h : ∀ e ∈ s.l1, e.2.bad = false) (line : Nat) (core : Option Nat) : SameHome s (recallOwner s line core) := by
  unfold recallOwner
  rw [l1Lost_sound h]
  dsimp only
  split
  · exact .refl s
  · split <;> exact ⟨rfl, rfl, rfl, rfl, rfl, rfl⟩

theorem noteWrite_home (s0 s : State) (o : Op) (lane : Nat) (un rmw : Bool) (pa : Nat) (bs : List Nat) : SameHome s (noteWrite s0 s o lane un rmw pa bs) := by
  rw [noteWrite_only (s0 := s0) (s := s) (o := o) (lane := lane) (un := un) (rmw := rmw) (pa := pa) (bs := bs) rfl]
  exact ⟨rfl, rfl, rfl, rfl, rfl, rfl⟩

theorem publishOwn_home (s : State) (oid core pa : Nat) (bs : List Nat) : SameHome s (publishOwn s oid core pa bs) := by
  unfold publishOwn
  dsimp only
  split <;> exact ⟨rfl, rfl, rfl, rfl, rfl, rfl⟩

theorem sendUpdates_home (s : State) (oid pa : Nat) (bs : List Nat) : SameHome s (sendUpdates s oid pa bs) := ⟨rfl, rfl, rfl, rfl, rfl, rfl⟩

/-- No dray frame holds a valid sector of the line (R211). -/
def NoSector (s : State) (line : Nat) : Prop := ∀ e ∈ s.dray, bit e.2.valid (line % 512) = true → e.2.page ≠ line / 512

theorem drayWrite_noSector {s : State} {pa : Nat} (h : NoSector s (lineOf pa)) (part : Nat) (bs : List Nat) : drayWrite s part pa bs = s := by
  have hnil (q : Option Nat) : drayHits s q (lineOf pa) = [] := by
    refine List.filter_eq_nil_iff.mpr (fun e he hit => ?_)
    simp only [Bool.and_eq_true, beq_iff_eq] at hit
    exact h e he hit.2 hit.1.2
  rw [drayWrite, hnil, List.foldl_nil]

/-- The host holds nothing modified (R195). -/
def CleanHalves (s : State) : Prop := ∀ e ∈ s.hostHalf, e.2.dirty = none

theorem CleanHalves.dirty_none {s : State} (h : CleanHalves s) (k : Nat) : (mfind k s.hostHalf).bind (fun e => e.dirty) = none := by
  cases hk : mfind k s.hostHalf with
  | none => rfl
  | some e => exact h _ (mem_of_mfind hk)

theorem CleanHalves.memByte_eq {s : State} (h : CleanHalves s) (b : Nat) : memByte s b = (cget 0 (memKey s b) s.mem).toNat := by
  rw [memByte, h.dirty_none]

/-- Taking back clean halves only takes them from the host. -/
theorem claimHalf_clean {s : State} (h : CleanHalves s) (pa n : Nat) :
    ∃ hs, hs.Sublist s.hostHalf ∧ claimHalf s pa n = { s with hostHalf := hs } := by
  unfold claimHalf
  dsimp only
  have hsub : ∀ e ∈ s.hostHalf.filter (fun e => decide (e.2.pa < pa + n ∧ pa < e.2.pa + 64)), e.2.dirty = none := fun e he => h e (List.mem_filter.mp he).1
  generalize s.hostHalf.filter (fun e => decide (e.2.pa < pa + n ∧ pa < e.2.pa + 64)) = es at hsub
  clear h
  induction es generalizing s with
  | nil => exact ⟨s.hostHalf, List.Sublist.refl _, rfl⟩
  | cons e es ih =>
    rw [List.foldl_cons, hsub e List.mem_cons_self]
    obtain ⟨hs, hsub', heq⟩ := ih (s := { s with hostHalf := merase e.1 s.hostHalf }) (fun e' he' => hsub e' (List.mem_cons_of_mem _ he'))
    exact ⟨hs, hsub'.trans (merase_sublist _ _), heq⟩

theorem bits_shiftRight (w k lo n : Nat) : bits (w >>> k) lo n = bits w (k + lo) n := by rw [bits, bits, Nat.shiftRight_add]

/-- Bytes in memory order written one by one are their number written. -/
theorem fold_memPut_bytesOf (s : State) (pa n v : Nat) :
    ((List.range (bytesOf n v).length).zip (bytesOf n v)).foldl (fun t e => memPut t (pa + e.1) e.2) s = memSet s pa n v := by
  have hlen : (bytesOf n v).length = n := by simp [bytesOf]
  rw [hlen, bytesOf, ← List.map_prod_left_eq_zip, List.foldl_map]
  rfl

theorem retag_only_tags (s : State) (line : Nat) (cmp : Bool) : retag s line cmp = { s with tags := (retag s line cmp).tags } := by
  unfold retag
  split <;> rfl

/-- What a write of a sound line at its home leaves: its bytes, and of the halves that the host held clean those that remain. -/
theorem homeWrite_sound {s : State} (hclean : CleanHalves s) {pa : Nat} (hbad : lineBad s pa = false) (part : Option Nat) (n v : Nat) (cmp : Bool) :
    (homeWrite s part pa (bytesOf n v) cmp false).dray = s.dray ∧
    ∀ b, (∀ i < n, memKey s b = memKey s (pa + i) → b = pa + i) →
      memByte (homeWrite s part pa (bytesOf n v) cmp false) b = if pa ≤ b ∧ b < pa + n then bits v (8 * (b - pa)) 8 else memByte s b := by
  obtain ⟨hs, hsub, hclaim⟩ := claimHalf_clean hclean pa (bytesOf n v).length
  generalize hu : ({ s with hostHalf := hs } : State) = u at hclaim
  have hubad : lineBad u pa = false := by rw [← hu]; exact hbad
  have huclean : CleanHalves u := by rw [← hu]; exact fun e he => hclean e (hsub.subset he)
  have hubyte (b : Nat) : memByte u b = memByte s b := by rw [huclean.memByte_eq, hclean.memByte_eq, ← hu]; rfl
  have hukey (b : Nat) : memKey u b = memKey s b := by rw [← hu]; rfl
  have hw : homeWrite s part pa (bytesOf n v) cmp false =
      retag { memSet u pa n v with lineErr := merase (lineOf pa) (memSet u pa n v).lineErr } (lineOf pa) cmp := by
    simp only [homeWrite, hclaim, hubad, Bool.false_and, Bool.false_eq_true, if_false, fold_memPut_bytesOf]
  rw [hw, retag_only_tags]
  refine ⟨by rw [memSet_only, ← hu], fun b hb => ?_⟩
  rw [← hubyte]
  exact memByte_memSet u pa n v b (huclean.dirty_none _) (fun i hi => by rw [hukey, hukey]; exact hb i hi)

/-- The bytes of a part of which no lane's byte went elsewhere. -/
theorem partBytes_whole {a : Access} (h : a.away = []) (p : Piece) : (partBytes a p).map (fun e => e.2) = bytesOf p.n (a.data >>> (8 * p.off)) := by
  have hall : (List.range p.n).filter (fun i => !a.away.contains (p.off + i)) = List.range p.n :=
    List.filter_eq_self.mpr (fun i _ => by rw [h]; rfl)
  simp only [partBytes, hall, bytesOf, List.map_map, bits_shiftRight, Function.comp_def, Nat.mul_add]

/-- A part of a store that its home applies writes its bytes and no others. -/
theorem memByte_applyPart {s : State} {o : Op} {a : Access} {p : Piece} {b : Nat} (haway : a.away = []) (hhalf : CleanHalves s)
    (hbad : lineBad s p.pa = false) (hl1 : ∀ e ∈ s.l1, e.2.bad = false) (hdray : NoSector s (lineOf p.pa))
    (hkey : ∀ i < p.n, memKey s b = memKey s (p.pa + i) → b = p.pa + i) :
    memByte (applyPart s o false a p) b = if p.pa ≤ b ∧ b < p.pa + p.n then bits a.data (8 * (p.off + (b - p.pa))) 8 else memByte s b := by
  obtain ⟨hrel, hrelL1⟩ := opRelease_home s o
  have hs1 : SameHome s (poolMark (recallOwner (opRelease s o) (lineOf p.pa) (some (opCore s o))) o.gid p.pa) :=
    (hrel.trans (recallOwner_home (hrelL1 ▸ hl1) _ _)).trans (poolMark_home _ _ _)
  unfold applyPart
  simp only [partBytes_whole haway]
  generalize poolMark (recallOwner (opRelease s o) (lineOf p.pa) (some (opCore s o))) o.gid p.pa = s1 at hs1
  have hbad1 : lineBad s1 p.pa = false := (hs1.lineBad_eq _).trans hbad
  obtain ⟨hd, hbytes⟩ := homeWrite_sound (s := s1) (fun e he => hhalf e (hs1.halves ▸ he)) hbad1 (some o.part) p.n (a.data >>> (8 * p.off)) p.cmp
  rw [hbad1, Bool.false_and, if_neg Bool.false_ne_true]
  generalize homeWrite s1 (some o.part) p.pa (bytesOf p.n (a.data >>> (8 * p.off))) p.cmp false = t1 at hd hbytes
  have hnote := noteWrite_home s1 t1 o a.lane (p.kind == .un) false p.pa (bytesOf p.n (a.data >>> (8 * p.off)))
  generalize noteWrite s1 t1 o a.lane (p.kind == .un) false p.pa (bytesOf p.n (a.data >>> (8 * p.off))) = t2 at hnote
  have hend : SameHome t1 (if (dirOf t2 (lineOf p.pa)).owner == some (opCore s o)
      then publishOwn t2 o.oid (opCore s o) p.pa (bytesOf p.n (a.data >>> (8 * p.off)))
      else sendUpdates t2 o.oid p.pa (bytesOf p.n (a.data >>> (8 * p.off)))) := by
    split
    · exact hnote.trans (publishOwn_home _ _ _ _ _)
    · exact hnote.trans (sendUpdates_home _ _ _ _)
  rw [drayWrite_noSector (fun e he => hdray e (by rw [← hs1.dray, ← hd, ← hend.dray]; exact he)), hend.memByte_eq,
    hbytes b (fun i hi => by rw [memKey_congr s s1 hs1.entries, memKey_congr s s1 hs1.entries]; exact hkey i hi), hs1.memByte_eq, bits_shiftRight, Nat.mul_add]

/-! Bytes of a block's pad (spec/11 R184). -/

/-- The number of a number's lowest bytes. -/
theorem ofBytes_bytesOf (n v : Nat) : ofBytes (bytesOf n v) = v % 2 ^ (8 * n) := by
  have hcells : asBytes (bytesOf n v) = numBytes n v := by
    simp only [asBytes, bytesOf, numBytes, List.map_map, Function.comp_def, fld, bits, Nat.shiftRight_eq_div_pow]
  have hlen : (bytesOf n v).length = n := by simp [bytesOf]
  have hread := takeBytes_asBytes n (bytesOf n v) (Nat.le_of_eq hlen.symm)
  have hnum := takeBytes_numBytes (Nat.le_refl n) v []
  rw [List.append_nil, ← hcells, hread, List.take_of_length_le (Nat.le_of_eq hlen)] at hnum
  exact Option.some.inj hnum

theorem padGet_padPut (blk : Block) (off n v : Nat) : padGet (padPut off n v blk) off n = v % 2 ^ (8 * n) := by
  rw [← ofBytes_bytesOf, padGet, bytesOf]
  congr 1
  refine List.map_congr_left (fun i hi => ?_)
  have := List.mem_range.mp hi
  rw [cget_padPut, if_pos ⟨by omega, by omega⟩, Nat.add_sub_cancel_left]

end Sys2Proof.Machine

namespace Sys2Proof.Settled
open Sys2Proof.Machine

/-- Settles O59: by the equations of the writes of memory and of pad, and by what follows a write to pad. -/
theorem bytesWritten : Obligations.BytesWritten := by
  refine ⟨fun s o a p b haway hhalf hbad hl1 hdray hkey => memByte_applyPart haway hhalf hbad hl1 hdray hkey, fun s pa n v b hhalf hkey => memByte_memSet s pa n v b hhalf hkey,
    fun blk off n v b => ⟨cget_padPut blk off n v b, padGet_padPut blk off n v⟩, fun s o lane off n v rmw blk hblk => ?_⟩
  have after := padDone_only s (modBlock o.bid (padPut off n v) s) o lane rmw [(off, n)]
  have hblocks : (padWrite s o lane rmw off n v).blocks = mmodify o.bid (padPut off n v) s.blocks := by rw [padWrite, after.only]; rfl
  refine ⟨?_, fun h hne => ?_, ?_, after.queue, after.marks⟩
  · rw [hblocks, mfind_mmodify, if_pos rfl, hblk]
    rfl
  · rw [hblocks, mfind_mmodify, if_neg hne]
  · rw [padWrite, after.only]
    rfl

end Sys2Proof.Settled
end

section
namespace Sys2Proof.Machine

/-! The events of lines, ownership and translations: what each answers where it can happen (spec/11 R187 to R210, spec/15 R277 to R280). -/

theorem evL1Fill_of {s : State} (hwant : lineWanted s s.ev.a s.ev.b = true) (hupd : updInFlight s s.ev.a s.ev.b = false) (htake : l1Takes s s.ev.b = true)
    (hfault : inFaulted s (s.ev.b * 128) = false) :
    evL1Fill s = some (l1Fill (claimWords (recallOwner s s.ev.b (some s.ev.a)) s.ev.b (s.ev.c % 2 ^ 32)) s.ev.a s.ev.b (s.ev.c % 2 ^ 32)) := by
  simp only [evL1Fill, hwant, hupd, htake, hfault, Bool.not_true, Bool.or_false, Bool.false_eq_true, if_false]

section
variable {s : State} {c : Nat} {o : Op} (howner : (dirOf s s.ev.a).owner = some c) (ho : o ∈ s.ops) (hcore : opCore s o ≠ c)
  (hacc : ∃ a ∈ o.accs, a.isOpen = true ∧ ∃ p ∈ a.pieces, lineOf p.pa = s.ev.a)
include howner ho hcore hacc

/-- Another core's atomic takes ownership back, and counts as a move of the line (R191, R192). -/
theorem evOwnershipRecall_atomic (hatomic : o.isAtomic = true) : evOwnershipRecall s = some (recallFor s s.ev.a) := by
  obtain ⟨a, ha, hopen, p, hp, hline⟩ := hacc
  have hany : s.ops.any (fun o => o.isAtomic && (opCore s o != c && o.accs.any (fun a => a.isOpen && a.pieces.any (fun p => lineOf p.pa == s.ev.a)))) = true := by
    simp only [List.any_eq_true, Bool.and_eq_true, bne_iff_ne, beq_iff_eq]
    exact ⟨o, ho, hatomic, hcore, a, ha, hopen, p, hp, hline⟩
  simp only [evOwnershipRecall, howner, hany, if_true]

/-- Another core's access takes ownership back (R191). -/
theorem evOwnershipRecall_plain (hplain : ∀ q ∈ s.ops, q.isAtomic = false) : evOwnershipRecall s = some (recallOwner s s.ev.a none) := by
  obtain ⟨a, ha, hopen, p, hp, hline⟩ := hacc
  have hnone : s.ops.any (fun o => o.isAtomic && (opCore s o != c && o.accs.any (fun a => a.isOpen && a.pieces.any (fun p => lineOf p.pa == s.ev.a)))) = false := by
    rw [List.any_eq_false]
    exact fun q hq => by simp [hplain q hq]
  have hany : s.ops.any (fun o => opCore s o != c && o.accs.any (fun a => a.isOpen && a.pieces.any (fun p => lineOf p.pa == s.ev.a))) = true := by
    simp only [List.any_eq_true, Bool.and_eq_true, bne_iff_ne, beq_iff_eq]
    exact ⟨o, ho, hcore, a, ha, hopen, p, hp, hline⟩
  simp only [evOwnershipRecall, howner, hnone, hany, Bool.false_eq_true, if_false, if_true]

end

theorem evDirectoryRebuild_of {s : State} {p : Nat} (hp : partOfLine s (s.ev.a * 128) = some p) :
    evDirectoryRebuild s =
      (let s1 := if inHostWin s (s.ev.a * 128) then claimHalf s (s.ev.a * 128) 128 else s
       let s2 := setDir (l1Drop s1 s.ev.a (fun c => ownsCore (getPart s p) c)) s.ev.a {}
       some (if 2 ≤ s.ev.xs.length then fatalOf 5 p (sliceUnit (lineSlice s s.ev.a)) (s.ev.a * 128) s2
         else rasLog 5 0 (some p) (sliceUnit (lineSlice s s.ev.a)) (s.ev.a * 128) s2)) := by
  simp only [evDirectoryRebuild, hp]

/-- The oldest invalidation of a partition completes, with the CSRW that asked for it (R423). -/
theorem evTlbInvComplete_of {s : State} {v : Nat} {oid : Option Nat} {rest : List (Nat × Option Nat)} (hinv : (getPart s s.ev.a).tlbInv = (v, oid) :: rest)
    (hidle : tlbBusy s s.ev.a (tlbRange v) = false) :
    evTlbInvComplete s =
      (let s1 := modPart s.ev.a (fun p => { p with tlbInv := rest }) (tlbDrop s.ev.a (tlbRange v) s)
       some (oid.elim s1 (fun i => endOp i s1))) := by
  cases oid <;> simp only [evTlbInvComplete, hinv, hidle, Bool.false_eq_true, if_false, Option.elim]

section
variable {s : State} {o : Op} (ho : findOp s s.ev.a = some o) (hfence : xfenceOk s o = true)
include ho hfence

theorem evSvOperationComplete_xlt {d base : Nat} (hk : o.kind = .xlt d base) :
    evSvOperationComplete s = some (endOp o.oid
      (modGroup o.gid (fun g => endReplay (putPend { g with xregs := minsert (d - 928) (xltReg s o base) g.xregs } d 0 false)) (walk s o.part base).2)) := by
  simp only [evSvOperationComplete, ho, hfence, hk, Bool.not_true, Bool.false_eq_true, if_false]

theorem evSvOperationComplete_cache {fn : Nat} {rs : List (Nat × Nat)} {inv : Bool} (hk : o.kind = .cache fn rs inv) (hidle : inv = true ∨ rangeBusy s o rs = false) :
    evSvOperationComplete s = some (endOp o.oid (cacheAct s o fn rs inv)) := by
  have hwait : (rangeBusy s o rs && !inv) = false := by rcases hidle with h | h <;> simp [h]
  simp only [evSvOperationComplete, ho, hfence, hk, hwait, Bool.not_true, Bool.false_eq_true, if_false]

end

end Sys2Proof.Machine

namespace Sys2Proof.Settled
open Sys2Proof.Machine

/-- Settles O37: each event of lines and translations answers its state where it can happen. -/
theorem linesAndTranslations : Obligations.LinesAndTranslations := by
  refine ⟨fun s hp => ⟨fun hwant hupd htake hfault => ?_, fun c o howner ho hcore hacc => ⟨fun hatomic => ?_, fun hplain => ?_⟩, fun p hpart => ?_⟩,
    fun s hp => ⟨fun hpresent => ?_, fun hpresent => ?_, fun v oid rest hinv hidle => ?_, fun o ho hfence => ⟨fun d base hk => ?_, fun fn rs inv hk hidle => ?_⟩⟩⟩
  · exact hp.happens rfl (evL1Fill_of hwant hupd htake hfault)
  · exact hp.happens rfl (evOwnershipRecall_atomic howner ho hcore hacc hatomic)
  · exact hp.happens rfl (evOwnershipRecall_plain howner ho hcore hacc hplain)
  · exact hp.happens rfl (evDirectoryRebuild_of hpart)
  · exact hp.happens rfl (if_pos hpresent)
  · exact hp.happens rfl (if_pos hpresent)
  · cases oid <;> exact hp.happens rfl (evTlbInvComplete_of hinv hidle)
  · exact hp.happens rfl (evSvOperationComplete_xlt ho hfence hk)
  · exact hp.happens rfl (evSvOperationComplete_cache ho hfence hk hidle)

end Sys2Proof.Settled
end

section
namespace Sys2Proof.Machine

/-! The host's side (spec/11 R195, R196, spec/21 R367). -/

section
variable {s : State} (hspan : hostSpan s.ev.a s.ev.b = true)
include hspan

/-- A half that the host holds it reads in its cache. -/
theorem evHostRead_held (hheld : (hostHas s (hostAt s s.ev.a)).isSome = true) (hmay : s.ev.flag = false ∨ hostCaches s s.ev.a = true) : evHostRead s = some s := by
  have hgo : (s.ev.flag && !hostCaches s s.ev.a) = false := by rcases hmay with h | h <;> simp [h]
  simp only [evHostRead, hspan, hgo, hheld, Bool.not_true, Bool.false_eq_true, if_false, if_true]

/-- Any other it reads at its home, and takes where it caches it; a data error is reported. -/
theorem evHostRead_home (hheld : hostHas s (hostAt s s.ev.a) = none) (hmay : s.ev.flag = false ∨ hostCaches s s.ev.a = true) :
    evHostRead s =
      (let pa := hostAt s s.ev.a
       let t := l2Mend (recallOwner s (lineOf pa) none) (lineOf pa)
       some (if lineBad t pa then lineError (partOfLine t pa) (pa / 128 * 128) t else if s.ev.flag then hostTake pa none t else t)) := by
  have hgo : (s.ev.flag && !hostCaches s s.ev.a) = false := by rcases hmay with h | h <;> simp [h]
  simp only [evHostRead, hspan, hgo, hheld, Option.isSome_none, Bool.not_true, Bool.false_eq_true, if_false]

theorem evHostRead_uncached (hflag : s.ev.flag = true) (hnot : hostCaches s s.ev.a = false) : evHostRead s = none := by
  simp only [evHostRead, hspan, hflag, hnot, Bool.not_true, Bool.not_false, Bool.and_true, Bool.false_eq_true, if_false, if_true]

theorem evHostWrite_uncached (hflag : s.ev.flag = true) (hnot : hostCaches s s.ev.a = false) : evHostWrite s = none := by
  simp only [evHostWrite, hspan, hflag, hnot, Bool.not_true, Bool.not_false, Bool.false_or, Bool.true_or, if_true, ite_self]

theorem evHostWrite_home (hres : inReserved s.ev.a = false) (hflag : s.ev.flag = false) :
    evHostWrite s = some (deviceWrite (hostAt s s.ev.a) s.ev.b s.ev.c s) := by
  simp only [evHostWrite, hspan, hres, hflag, Bool.not_true, Bool.or_false, Bool.false_eq_true, if_false]

theorem evHostWrite_cached (hres : inReserved s.ev.a = false) (hflag : s.ev.flag = true) (hcache : hostCaches s s.ev.a = true)
    (hsound : lineBad s (hostAt s s.ev.a) = false ∨ (hostHas s (hostAt s s.ev.a)).isSome = true) :
    evHostWrite s =
      (let pa := hostAt s s.ev.a
       let t := recallOwner s (lineOf pa) none
       let old := (hostHas t pa).getD (memGet t (pa / 64 * 64) 64)
       some (hostTake pa (some (putBytes old (pa % 64) s.ev.b s.ev.c)) t)) := by
  have hgo : (lineBad s (hostAt s s.ev.a) && (hostHas s (hostAt s s.ev.a)).isNone) = false := by
    rcases hsound with h | h
    · rw [h, Bool.false_and]
    · rw [Option.isNone_eq_false_iff.mpr h, Bool.and_false]
  simp only [evHostWrite, hspan, hres, hflag, hcache, hgo, Bool.not_true, Bool.or_false, Bool.false_eq_true, if_false, if_true]

end

/-- Over a link without CXL 3.1 or 3.2 the host caches nothing (R367). -/
theorem hostCaches_lowMode {s : State} (h : linkMode s (s.ev.who.getD 0) < 2) (pa : Nat) : hostCaches s pa = false := by
  have hlow : ¬ (s.ev.who.getD 0 < 2 ∧ 2 ≤ linkMode s (s.ev.who.getD 0)) := fun k => absurd k.2 (Nat.not_le.mpr h)
  rw [hostCaches, decide_eq_false hlow, Bool.and_false]

theorem writeWinSize_closed {s : State} (h : bit s.hostWinBase 0 = false) (v : Nat) : writeWinSize v s = { s with hostWinSize := v % 2 ^ 22 } := by
  rw [writeWinSize, h, if_neg Bool.false_ne_true]

theorem evPoolBackInvalidate_of {s : State} {r : Nat} (hr : paKind s (s.ev.a / 64 * 64) = .pooled r) :
    evPoolBackInvalidate s =
      (let g := s.ev.a / 64 * 64
       let line := lineOf g
       let s1 := spoilFills (drayClear (l1Drop (recallOwner (poolNote s g) line none) line (fun _ => true)) (fun _ l => l == line)) (fun l => l == line) none
       let s2 : State := { s1 with pool := { s1.pool with dirty := merase line s1.pool.dirty } }
       some (if s.ev.flag then forgetPast (memSet s2 g 64 s.ev.b) ((List.range 64).map (fun i => g + i)) else s2)) := by
  simp only [evPoolBackInvalidate, hr]

/-- An event that cannot happen answers the same state (log 2). -/
theorem exec_noEvent {i : Instr} {s : State} {r : Option State} (he : exec i s = eventOut s r) (hr : r = none) : exec i s = .next s := by
  rw [he, hr]
  rfl

end Sys2Proof.Machine

namespace Sys2Proof.Settled
open Sys2Proof.Machine

/-- Settles O38: each event of the host's side answers its state where it can happen, and the same state where it cannot. -/
theorem hostSide : Obligations.HostSide := by
  intro s hp
  refine ⟨fun hspan => ⟨fun hheld hmay => ?_, fun hheld => ?_, fun hflag hnot => ⟨?_, ?_⟩, fun hres hflag => ?_, fun hres hflag hcache hsound => ?_⟩,
    fun hlow => hostCaches_lowMode hlow _, hp.happens rfl rfl, fun hshut => ?_, fun r hr => ?_⟩
  · exact hp.happens rfl (evHostRead_held hspan hheld hmay)
  · have home := evHostRead_home hspan hheld
    refine ⟨fun hmay hbad => ?_, fun hbad => ⟨fun hflag => ?_, fun hflag hcache => ?_⟩⟩
    · exact hp.happens rfl ((home hmay).trans (congrArg some (if_pos hbad)))
    · exact hp.happens rfl ((home (.inl hflag)).trans (by simp only [hbad, hflag, Bool.false_eq_true, if_false]))
    · exact hp.happens rfl ((home (.inr hcache)).trans (by simp only [hbad, hflag, Bool.false_eq_true, if_false, if_true]))
  · exact exec_noEvent rfl (evHostRead_uncached hspan hflag hnot)
  · exact exec_noEvent rfl (evHostWrite_uncached hspan hflag hnot)
  · exact hp.happens rfl (evHostWrite_home hspan hres hflag)
  · exact hp.happens rfl (evHostWrite_cached hspan hres hflag hcache hsound)
  · exact hp.happens rfl (congrArg some (writeWinSize_closed hshut _))
  · exact hp.happens rfl (evPoolBackInvalidate_of hr)

end Sys2Proof.Settled
end

section
namespace Sys2Proof.Machine

/-! Banks and ways (spec/11 R178 to R183). -/

theorem evLsBankSwitchDone_of {s : State} (hst : (getBank (getCore s s.ev.a) s.ev.b).state = 1) :
    evLsBankSwitchDone s =
      (let s1 := modBank s.ev.a s.ev.b (fun b => { b with state := if b.target = 4 then 3 else 2 }) s
       some (if (getBank (getCore s s.ev.a) s.ev.b).target = 4 then endBankOps s.ev.a s.ev.b s1 else s1)) := by
  simp only [evLsBankSwitchDone, hst, ne_eq, not_true_eq_false, if_false]

/-- A way that was ready leaves lookup, its dirty lines still to be written (R183). -/
theorem wayGate_ready {s : State} {n w : Nat} (hon : bit (waysOf s n) w = true) (hready : bit (waysOf s n) (16 + w) = true)
    (hidle : bit (waysOf s n) (32 + w) = false) : wayGate n w s = setWays n (waysOf s n - 2 ^ w - 2 ^ (16 + w) + 2 ^ (32 + w)) s := by
  simp only [wayGate, hon, hready, hidle, Bool.false_eq_true, if_false, if_true]

theorem wayWake_off {s : State} {n w : Nat} (hoff : bit (waysOf s n) w = false) : wayWake n w s = setWays n (waysOf s n + 2 ^ w) s := by
  simp only [wayWake, hoff, Bool.false_eq_true, if_false]

end Sys2Proof.Machine

namespace Sys2Proof.Settled
open Sys2Proof.Machine

/-- Settles O39: each event of banks and ways answers its state where it can happen. -/
theorem banksAndWays : Obligations.BanksAndWays := by
  intro s hp
  refine ⟨fun hgo hcore => ⟨fun hgate => ?_, fun hgate => ?_⟩, fun hst htarget => ?_, fun hst htarget => ?_, fun hst => ?_,
    fun hway hslice => ⟨fun hon hready hidle => ?_, fun hoff => ?_⟩, fun hway hbusy => ?_, fun hway hon hready hidle => ?_⟩
  · exact hp.happens rfl (if_pos (by simp [hgo, hcore, hgate]))
  · exact hp.happens rfl (if_pos (by simp [hgo, hcore, hgate]))
  · exact hp.happens rfl ((evLsBankSwitchDone_of hst).trans (congrArg some (if_neg htarget)))
  · exact hp.happens rfl ((evLsBankSwitchDone_of hst).trans (congrArg some (if_pos htarget)))
  · exact hp.happens rfl (if_pos hst)
  · exact hp.happens rfl ((if_pos ⟨hway, hon, hslice⟩).trans (congrArg some (wayGate_ready hon hready hidle)))
  · exact hp.happens rfl ((if_pos ⟨hway, by simp [hoff], hslice⟩).trans (congrArg some (wayWake_off hoff)))
  · exact hp.happens rfl (if_pos ⟨hway, hbusy⟩)
  · exact hp.happens rfl (if_pos ⟨hway, hon, by simp [hready], by simp [hidle]⟩)

end Sys2Proof.Settled
end

section
namespace Sys2Proof.Machine

/-! Fabric membership, ports and classes (spec/21 R345 to R352). -/

theorem evFabMembers_of {s : State} (ha : s.ev.a < 8) :
    evFabMembers s =
      (let old := cget 0 s.ev.a s.fab.members
       let v := s.ev.b % 2 ^ 64
       some (((List.range 64).filter (fun i => bit old i && !bit v i)).foldl (fun t i => fencePkg (64 * s.ev.a + i) t)
         { s with fab := { s.fab with members := cset 0 s.ev.a v s.fab.members } })) := if_neg (Nat.not_le.mpr ha)

/-- No up port has reached the package for 1 ms (R346). -/
theorem unreached_of {s : State} {q : Nat} (h : ∀ p, p < 64 → ∃ t, lostSince s p q = some t ∧ t + usCycles s 1000 ≤ s.cycle) : unreached s q = true := by
  refine List.all_eq_true.mpr (fun p hp => ?_)
  obtain ⟨t, ht, hlate⟩ := h p (List.mem_range.mp hp)
  simp [ht, hlate]

theorem evPeerUnreachable_of {s : State} (ha : s.ev.a < 512) (hne : s.ev.a ≠ s.pkg) (hbit : bit s.fab.unreach s.ev.a = false)
    (hlost : unreached s s.ev.a = true) :
    evPeerUnreachable s = some (fencePkg s.ev.a { s with fab := { s.fab with unreach := s.fab.unreach ||| 2 ^ s.ev.a, told := s.fab.told ++ [s.ev.a] } }) :=
  if_neg (by simp [ha, hne, hbit, hlost])

section
variable {s : State} (ha : s.ev.a < 64) (hb : s.ev.b < 512)
include ha hb

theorem portNamed : ¬ (64 ≤ s.ev.a ∨ 512 ≤ s.ev.b) := by omega

theorem evNgaubPortDown_own (hflag : s.ev.flag = false) (hup : bit s.fab.ports s.ev.a = true) :
    evNgaubPortDown s = some (requeue (fun p => p.port == s.ev.a)
      { s with fab := { s.fab with ports := s.fab.ports - 2 ^ s.ev.a, portAt := minsert s.ev.a s.cycle s.fab.portAt } }) := by
  rw [evNgaubPortDown, if_neg (portNamed ha hb), hflag, if_neg Bool.false_ne_true, if_pos hup]

theorem evNgaubPortDown_far (hflag : s.ev.flag = true) (hup : mfind (s.ev.a * 512 + s.ev.b) s.fab.cut = none) :
    evNgaubPortDown s = some (requeue (fun p => p.port == s.ev.a && p.dst == s.ev.b)
      { s with fab := { s.fab with cut := minsert (s.ev.a * 512 + s.ev.b) s.cycle s.fab.cut } }) := by
  rw [evNgaubPortDown, if_neg (portNamed ha hb), hflag, if_pos rfl, hup, if_neg (by simp)]

theorem evNgaubPortUp_own (hflag : s.ev.flag = false) (hdown : bit s.fab.ports s.ev.a = false) :
    evNgaubPortUp s = some (reachAgain { s with fab := { s.fab with ports := s.fab.ports + 2 ^ s.ev.a } }) := by
  rw [evNgaubPortUp, if_neg (portNamed ha hb), hflag, if_neg Bool.false_ne_true, hdown, if_neg Bool.false_ne_true]

theorem evNgaubPortUp_far (hflag : s.ev.flag = true) {t : Nat} (hdown : mfind (s.ev.a * 512 + s.ev.b) s.fab.cut = some t) :
    evNgaubPortUp s = some (reachAgain { s with fab := { s.fab with cut := merase (s.ev.a * 512 + s.ev.b) s.fab.cut } }) := by
  rw [evNgaubPortUp, if_neg (portNamed ha hb), hflag, if_pos rfl, hdown, if_neg (by simp)]

end

/-- Queueing packets changes no package's reach. -/
theorem drainQueues_unreach (cls : Nat) (s : State) : (drainQueues cls s).fab.unreach = s.fab.unreach := by
  unfold drainQueues
  generalize s.fab.inQueue.filter (fun e => e.1 % 8 == cls) = es
  induction es generalizing s with
  | nil => rfl
  | cons e es ih => exact (ih _).trans rfl

theorem queuePackets_unreach (ps : List Packet) : ∀ s : State, (queuePackets ps s).fab.unreach = s.fab.unreach := by
  induction ps with
  | nil => exact fun _ => rfl
  | cons p ps ih => exact fun s => (ih _).trans (drainQueues_unreach p.cls s)

/-- Taking out one set bit of a number leaves the others. -/
theorem bit_sub_two_pow {u q : Nat} (h : bit u q = true) (j : Nat) : bit (u - 2 ^ q) j = (bit u j && decide (j ≠ q)) := by
  have hodd : u / 2 ^ q % 2 = 1 := by simpa [bit, Nat.shiftRight_eq_div_pow] using h
  obtain ⟨m, hm⟩ : ∃ m, u / 2 ^ q = 2 * m + 1 := ⟨u / 2 ^ q / 2, by omega⟩
  have hlow : u % 2 ^ q < 2 ^ q := Nat.mod_lt _ (Nat.two_pow_pos q)
  have hu : u = 2 ^ q * (2 * m + 1) + u % 2 ^ q := by rw [← hm, Nat.div_add_mod]
  have hsub : u - 2 ^ q = 2 ^ q * (2 * m) + u % 2 ^ q := by rw [Nat.mul_add, Nat.mul_one] at hu; omega
  have huj : u.testBit j = if j < q then (u % 2 ^ q).testBit j else (2 * m + 1).testBit (j - q) :=
    (congrArg (Nat.testBit · j) hu).trans (Nat.testBit_two_pow_mul_add _ hlow j)
  rw [bit_eq_testBit, bit_eq_testBit, hsub, huj, Nat.testBit_two_pow_mul_add _ hlow]
  rcases Nat.lt_trichotomy j q with hj | rfl | hj
  · rw [if_pos hj, if_pos hj, decide_eq_true (Nat.ne_of_lt hj), Bool.and_true]
  · rw [if_neg (Nat.lt_irrefl j), Nat.sub_self, decide_eq_false (fun h => h rfl), Bool.and_false, Nat.testBit_zero, Nat.mul_mod_right]
    rfl
  · obtain ⟨k, rfl⟩ := Nat.exists_eq_add_of_lt hj
    have hk : q + k + 1 - q = k + 1 := by omega
    have hdiv : (2 * m + 1) / 2 = m := by omega
    have hne : q + k + 1 ≠ q := by omega
    rw [if_neg (by omega), if_neg (by omega), hk, Nat.testBit_succ, Nat.testBit_succ, hdiv, Nat.mul_div_cancel_left m Nat.zero_lt_two, decide_eq_true hne, Bool.and_true]

/-- So does taking out several different ones. -/
theorem bit_fold_sub {qs : List Nat} (hdup : qs.Nodup) : ∀ {u : Nat}, (∀ q ∈ qs, bit u q = true) → ∀ j,
    bit (qs.foldl (fun u q => u - 2 ^ q) u) j = (bit u j && decide (j ∉ qs)) := by
  induction qs with
  | nil => simp
  | cons q qs ih =>
    intro u hset j
    obtain ⟨hnot, hdup'⟩ := List.nodup_cons.mp hdup
    have hq := bit_sub_two_pow (hset q List.mem_cons_self)
    have hrest : ∀ r ∈ qs, bit (u - 2 ^ q) r = true := fun r hr => by
      rw [hq, hset r (List.mem_cons_of_mem _ hr), Bool.true_and, decide_eq_true_iff]
      exact fun h => hnot (h ▸ hr)
    rw [List.foldl_cons, ih hdup' hrest, hq]
    simp only [List.mem_cons, not_or, Bool.decide_and, Bool.and_assoc, ne_eq]

/-- Of the packages that were not reached those stay so which no up port reaches (R346). -/
theorem bit_reachAgain_unreach (s : State) {q : Nat} (hq : q < 512) :
    bit (reachAgain s).fab.unreach q = true ↔ bit s.fab.unreach q = true ∧ upPorts s q = [] := by
  have hun : (reachAgain s).fab.unreach =
      ((List.range 512).filter (fun q => bit s.fab.unreach q && !(upPorts s q).isEmpty)).foldl (fun u q => u - 2 ^ q) s.fab.unreach := by
    rw [reachAgain, requeue, queuePackets_unreach]
  have hset : ∀ r ∈ (List.range 512).filter (fun q => bit s.fab.unreach q && !(upPorts s q).isEmpty), bit s.fab.unreach r = true :=
    fun r hr => (Bool.and_eq_true_iff.mp (List.mem_filter.mp hr).2).1
  rw [hun, bit_fold_sub (List.nodup_range.filter _) hset]
  simp only [List.mem_filter, List.mem_range, hq, Bool.and_eq_true, decide_eq_true_eq, Bool.not_eq_true', List.isEmpty_eq_false_iff, true_and]
  refine and_congr_right (fun hbit => ?_)
  rw [not_and, ne_eq, Classical.not_not]
  exact ⟨fun h => h hbit, fun h _ => h⟩

/-- Reservations up to 48 slots are taken (R352). -/
theorem evFabClass_fits {s : State} (h : bits (s.ev.a % 2 ^ 18) 0 6 + bits (s.ev.a % 2 ^ 18) 6 6 + bits (s.ev.a % 2 ^ 18) 12 6 ≤ 48) :
    evFabClass s = some { s with fab := { s.fab with class_ := s.ev.a % 2 ^ 18 } } := if_neg (Nat.not_lt.mpr h)

/-- More are ignored. -/
theorem evFabClass_over {s : State} (h : 48 < bits (s.ev.a % 2 ^ 18) 0 6 + bits (s.ev.a % 2 ^ 18) 6 6 + bits (s.ev.a % 2 ^ 18) 12 6) :
    evFabClass s = some s := if_pos h

/-! Pool links and regions (spec/21 R361 to R366). -/

theorem evPoolLinkTrained_of {s : State} (ha : s.ev.a < 4) (hdown : bit s.pool.fstat s.ev.a = false) :
    evPoolLinkTrained s = some { s with pool := { s.pool with fstat :=
      if s.ev.flag then s.pool.fstat ||| 2 ^ (8 + s.ev.a)
      else (if bit s.pool.fstat (8 + s.ev.a) then s.pool.fstat - 2 ^ (8 + s.ev.a) else s.pool.fstat) ||| 2 ^ s.ev.a } } :=
  if_neg (by simp [ha, hdown])

section
variable {s : State} (hr : s.ev.a < bits s.pool.rtab 0 20)
include hr

/-- A region that was not ONLINE, or stays so, has its table entry taken. -/
theorem evPoolRsync_keeps (h : regionState s s.ev.a ≠ 1 ∨ regionState (takeRegion s.ev.a s) s.ev.a = 1) :
    evPoolRsync s = some (takeRegion s.ev.a s) := by
  have hstays : ¬ (regionState s s.ev.a = 1 ∧ regionState (takeRegion s.ev.a s) s.ev.a ≠ 1) :=
    fun ⟨hon, hoff⟩ => h.elim (fun hne => hne hon) hoff
  exact (if_neg (Nat.not_le.mpr hr)).trans (congrArg some (if_neg hstays))

/-- One that leaves ONLINE loses its copies too (R213). -/
theorem evPoolRsync_leaves (hon : regionState s s.ev.a = 1) (hoff : regionState (takeRegion s.ev.a s) s.ev.a ≠ 1) :
    evPoolRsync s =
      (let s1 := takeRegion s.ev.a s
       let t := dropRegions { s1 with pool := s.pool } [s.ev.a]
       some { t with pool := { t.pool with entries := s1.pool.entries } }) :=
  (if_neg (Nat.not_le.mpr hr)).trans (congrArg some (if_pos ⟨hon, hoff⟩))

end

end Sys2Proof.Machine

namespace Sys2Proof.Settled
open Sys2Proof.Machine

/-- Settles O46: each event of the fabric and the pool answers its state where it can happen. -/
theorem fabricAndPool : Obligations.FabricAndPool := by
  refine ⟨fun s hp => ⟨fun ha => ?_, fun ha hne hbit hlost => ?_, fun ha hb => ⟨fun hflag => ⟨fun hup => ?_, fun hdown => ?_⟩,
      fun hflag => ⟨fun hup => ?_, fun t hdown => ?_⟩⟩, fun q hq => bit_reachAgain_unreach s hq, fun hfits => ?_, fun hover => ?_⟩,
    fun s hp => ⟨fun ha hdown => ?_, fun hr => ⟨fun hkeeps => ?_, fun hon hoff => ?_⟩, fun t ht => ⟨?_, ?_, fun hserves => ?_⟩⟩⟩
  · exact hp.happens rfl (evFabMembers_of ha)
  · exact hp.happens rfl (evPeerUnreachable_of ha hne hbit (unreached_of hlost))
  · exact hp.happens rfl (evNgaubPortDown_own ha hb hflag hup)
  · exact hp.happens rfl (evNgaubPortUp_own ha hb hflag hdown)
  · exact hp.happens rfl (evNgaubPortDown_far ha hb hflag hup)
  · exact hp.happens rfl (evNgaubPortUp_far ha hb hflag hdown)
  · exact hp.happens rfl (evFabClass_fits hfits)
  · exact hp.happens rfl (evFabClass_over hover)
  · exact hp.happens rfl (evPoolLinkTrained_of ha hdown)
  · exact hp.happens rfl (evPoolRsync_keeps hr hkeeps)
  · exact hp.happens rfl (evPoolRsync_leaves hr hon hoff)
  · exact hp.happens rfl ht
  · exact hp.happens rfl ht
  · exact hp.happens rfl ((if_pos hserves).trans ht)

end Sys2Proof.Settled
end

section
namespace Sys2Proof.Machine

/-! Stores and atomics (spec/15 R259, R263 to R273): what passes the checks of R259, and what a release or acquire without a lane leaves
(spec/13 R254). -/

/-- With no poisoned register a register group holds no poison. -/
theorem groupVal_clean {x : Ctx} (hc : Calm x) (c r l n : Nat) : (groupVal x c r l n).2 = false := by
  simp [groupVal, List.any_eq_false, readSrc_clean x hc.clean]

theorem isBare_enLanes {x : Ctx} (h : isBare x = true) : enLanes x = [] := by
  simp only [isBare, Bool.and_eq_true, List.isEmpty_iff] at h
  exact h.1.2

theorem isBare_laneWheres {x : Ctx} (h : isBare x = true) : laneWheres x = [] := by
  simp [laneWheres, accLanes, isBare_enLanes h]

theorem dataBreak_nil (x : Ctx) (kind n : Nat) : dataBreak x kind [] n = none := by
  have hnone : (List.range 8).find? (fun _ => false) = none := List.find?_eq_none.mpr (fun _ _ => Bool.false_ne_true)
  simp only [dataBreak, List.filter_nil, ite_self, List.isEmpty_nil, Bool.not_true, hnone]

theorem padExtent_nil (x : Ctx) (n : Nat) : padExtent x [] n = none := rfl

/-- Where every lane translates, and no lane of an atomic reaches a UN page, steps 4 to 6 of R259 pass on the lanes with their pieces. -/
theorem reachChecks_translated {x : Ctx} {need : Need} {mc atomic : Bool} {n : Nat} (mask : List Nat → LaneMask) {ws : List Where}
    (k : State → List (Where × List Piece) → Res) {es : List (Where × List Piece)}
    (hes : (xlateLanes x need mc n ws x.s).1 = es.map (fun e => (e.1, .ok e.2)))
    (hun : atomic = true → ∀ w ∈ ws, reachesUn x (xlateLanes x need mc n ws x.s).2 w n = false) :
    reachChecks x need mc atomic n mask ws k = k (xlateLanes x need mc n ws x.s).2 es := by
  have hclear : (if atomic then ws.filter (fun w => reachesUn x (xlateLanes x need mc n ws x.s).2 w n) else []) = [] := by
    cases atomic with
    | false => rfl
    | true => exact List.filter_eq_nil_iff.mpr (fun w hw => by simp [hun rfl w hw])
  have hnone : es.filterMap (fun _ => (none : Option (Nat × XFault))) = [] := List.filterMap_eq_nil_iff.mpr (fun _ _ => rfl)
  unfold reachChecks
  simp only [hclear, hes, List.filterMap_map, Function.comp_def, hnone, List.head?_nil, List.isEmpty_nil, Bool.not_true, Bool.false_eq_true, if_false]
  exact congrArg (k _) (List.filterMap_some (l := es))

section
variable {x : Ctx} (hc : Calm x) {need : Need} {mc atomic : Bool} {n : Nat} {val : Nat → Nat × Bool} (k : State → List Access → Res) (cmp : Nat → Nat)
  (hval : ∀ l, (val l).2 = false)
include hc hval

/-- A store or atomic that none of R259's checks refuses leaves one access per lane with the lane's values. -/
theorem storeChecks_translated (hdata : dataBreak x 2 (laneWheres x) n = none) (hpad : padExtent x (laneWheres x) n = none)
    (halign : atomic = true → ∀ w ∈ laneWheres x, (if w.pad then w.off.toNat else w.va) % n = 0)
    (hall : AllTranslate (xlateLanes x need mc n (laneWheres x) x.s).1)
    (hun : atomic = true → ∀ w ∈ laneWheres x, reachesUn x (xlateLanes x need mc n (laneWheres x) x.s).2 w n = false) :
    storeChecks x need mc atomic n val k cmp =
      k (xlateLanes x need mc n (laneWheres x) x.s).2
        (accessesOf n (fun l => (val l).1) cmp (xlateLanes x need mc n (laneWheres x) x.s).1) := by
  have hpoison : (laneWheres x).filter (fun w => w.bad || (val w.lane).2) = [] :=
    List.filter_eq_nil_iff.mpr (fun w hw => by simp [laneWheres_sound hc w hw, hval])
  have hodd : (laneWheres x).filter (fun w => atomic && (if w.pad then w.off.toNat else w.va) % n != 0) = [] := by
    rw [List.filter_eq_nil_iff]
    intro w hw
    cases atomic with
    | false => simp
    | true => simp [halign rfl w hw]
  have hws : (accLanes x).map (whereOf x) = laneWheres x := rfl
  obtain ⟨es, hes⟩ := hall.pieces
  unfold storeChecks
  simp only [hws, hc.inReplay, hdata, hpad, ppLanes_clean x hc.clean, hpoison, hodd, List.map_nil, List.append_nil, List.isEmpty_nil, Bool.not_true,
    Bool.false_eq_true, if_false]
  rw [reachChecks_translated maskOf _ hes hun, hes]
  simp only [accessesOf, List.filterMap_map, Function.comp_def, List.filterMap_eq_map']

/-- Without a lane the checks pass, and there is no access. -/
theorem storeChecks_bare (hbare : isBare x = true) : storeChecks x need mc atomic n val k cmp = k x.s [] := by
  have hnil := isBare_laneWheres hbare
  have pass := storeChecks_translated (need := need) (mc := mc) (atomic := atomic) (n := n) hc k cmp hval
  simp only [hnil, dataBreak_nil, padExtent_nil, xlateLanes, AllTranslate, accessesOf, List.not_mem_nil, false_imp_iff, imp_true_iff,
    List.filterMap_nil, true_imp_iff] at pass
  exact pass

end

/-- The effect of a store is that of its shape, its value without poison. -/
theorem bodyOf_storeShape {i : Instr} {x : Ctx} (hc : Calm x) {n : Nat} {val : Nat → Nat} (h : storeShape x i = some (n, val)) :
    bodyOf i x = storeBody n (fun l => (val l, false)) x := by
  have hC : (fun l => srcC x l) = fun l => ((srcC x l).1, false) := funext (fun l => Prod.ext rfl (srcC_clean x hc.clean l))
  have hG (m : Nat) : (fun l => groupVal x x.r.c x.r.rc l m) = fun l => ((groupVal x x.r.c x.r.rc l m).1, false) :=
    funext (fun l => Prod.ext rfl (groupVal_clean hc _ _ _ _))
  unfold storeShape at h
  split at h <;> cases h
  · exact congrArg (fun v => storeBody _ v x) hC
  · exact congrArg (fun v => storeBody _ v x) hC
  · exact congrArg (fun v => storeBody _ v x) (hG _)

/-- Outside replay a store's effect is what its checks let through. -/
theorem storeBody_forward {x : Ctx} (hc : Calm x) (n : Nat) (val : Nat → Nat × Bool) :
    storeBody n val x = storeChecks x .wr true false n val (fun s accs =>
      if isBare x then bareOp { x with s := s }
      else .ok (pump (endIfPad s.nextOp (putPads s.nextOp padStore (addOp s { opOf x .st .store with accs := accs })))) {}) (fun _ => 0) := by
  unfold storeBody
  simp only [hc.inReplay, Bool.false_eq_true, if_false]

/-- The effect of an atomic whose lanes read the operands that `atomOperand` names, without poison. -/
def operandBody (fn : Nat) (path : Path) (n : Nat) (returns wide : Bool) (x : Ctx) : Res :=
  atomBody fn path (if returns then some (x.r.d, n) else none) wide (4 * n) (fun l => ((atomOperand x fn n wide l).1, false))
    (fun l => (atomOperand x fn n wide l).2) x

/-- The operand and the compared value of a compare and swap are those of `atomOperand` (R268). -/
theorem casBody_operand {x : Ctx} (hc : Calm x) {fn n : Nat} {wide : Bool} (h : isCas fn wide = true) (path : Path) (returns : Bool) :
    atomBody fn path (if returns then some (x.r.d, n) else none) wide (4 * n) (casVal x n) (casCmp x n) x = operandBody fn path n returns wide x := by
  have hval : casVal x n = fun l => ((atomOperand x fn n wide l).1, false) := by
    funext l
    simp only [casVal, atomOperand, if_pos h, groupVal_clean hc, Bool.or_self]
  have hcmp : casCmp x n = fun l => (atomOperand x fn n wide l).2 := by
    funext l
    simp only [casCmp, atomOperand, if_pos h]
  rw [operandBody, hval, hcmp]

/-- The operand of every other atomic is the one value that `atomOperand` names, and nothing is compared. -/
theorem plainBody_operand {x : Ctx} {fn n : Nat} {wide : Bool} {v : Nat → Nat × Bool} (hv : ∀ l, atomOperand x fn n wide l = ((v l).1, 0))
    (hclean : ∀ l, (v l).2 = false) (path : Path) (returns : Bool) :
    atomBody fn path (if returns then some (x.r.d, n) else none) wide (4 * n) v (fun _ => 0) x = operandBody fn path n returns wide x := by
  have hval : v = fun l => ((atomOperand x fn n wide l).1, false) := funext (fun l => Prod.ext (by rw [hv]) (hclean l))
  have hcmp : (fun _ : Nat => 0) = fun l => (atomOperand x fn n wide l).2 := funext (fun l => by rw [hv])
  rw [operandBody, ← hval, ← hcmp]

theorem atomFn_operand {x : Ctx} (hc : Calm x) (fn : Nat) (path : Path) (returns : Bool) :
    atomFn fn path returns x = operandBody fn path (atomRegs x) returns false x := by
  unfold atomFn
  by_cases h : fn = 7
  · exact (if_pos h).trans (casBody_operand hc (by simp [isCas, h]) path returns)
  · refine (if_neg h).trans (plainBody_operand (fun l => ?_) (srcC_clean x hc.clean) path returns)
    simp [atomOperand, isCas, h]

theorem bodyAtomw_operand {x : Ctx} (hc : Calm x) :
    bodyAtomw x = operandBody (if x.r.fn = 1 then 1 else 0) (if x.r.fn = 2 then .st else .ld) 4 (decide (x.r.fn ≠ 2)) true x := by
  have hret : (if x.r.fn = 2 then none else some (x.r.d, 4)) = if decide (x.r.fn ≠ 2) = true then some (x.r.d, 4) else none := by
    by_cases h : x.r.fn = 2 <;> simp [h]
  unfold bodyAtomw
  rw [hret]
  by_cases h : x.r.fn = 1
  · rw [if_pos h, if_pos h]
    exact casBody_operand hc rfl _ _
  · rw [if_neg h, if_neg h]
    exact plainBody_operand (fun _ => rfl) (fun _ => groupVal_clean hc _ _ _ _) _ _

/-- The effect of an atomic is that of its shape. -/
theorem bodyOf_atomShape {i : Instr} {x : Ctx} (hc : Calm x) {fn n : Nat} {path : Path} {returns wide : Bool}
    (h : atomShape x i = some (fn, path, n, returns, wide)) : bodyOf i x = operandBody fn path n returns wide x := by
  unfold atomShape at h
  split at h <;> cases h
  · exact atomFn_operand hc _ _ _
  · exact atomFn_operand hc _ _ _
  · exact atomFn_operand hc _ _ _
  · exact bodyAtomw_operand hc

/-- Outside replay no lane of an atomic is performed again: its effect is what its checks let through. -/
theorem operandBody_forward {x : Ctx} (hc : Calm x) (fn : Nat) (path : Path) (n : Nat) (returns wide : Bool) :
    operandBody fn path n returns wide x =
      storeChecks x .at false true (4 * n) (fun l => ((atomOperand x fn n wide l).1, false)) (fun s accs =>
        if isBare x then bareOp { x with s := s }
        else
          (let ret := if returns then some (x.r.d, n) else none
           let g := if returns then accs.foldl (fun g a => pendReg x.r.d n a.lane g) x.g else x.g
           let s1 := if returns then setGroup g s else s
           let s2 := putPads s1.nextOp padAtom (addOp s1 { opOf x path (.atomic fn x.r.ty ret wide) with accs := accs })
           .ok (pump (if returns then endIfRead s1.nextOp s2 else endIfPad s1.nextOp s2)) {})) (fun l => (atomOperand x fn n wide l).2) := by
  unfold operandBody atomBody
  simp only [hc.inReplay, Bool.false_and, Bool.false_eq_true, if_false]
  cases returns <;> rfl

end Sys2Proof.Machine

namespace Sys2Proof.Settled
open Sys2Proof.Machine

/-- Settles O27: a store without an enabled lane leaves its order alone, and one whose lanes all translate its operation. -/
theorem stores : Obligations.Stores := by
  intro i n val s x hshape hx hg hc
  obtain rfl := hx.st
  have hbody := (bodyOf_storeShape hc hshape).trans (storeBody_forward hc n _)
  have clean : ∀ l, (val l, false).2 = false := fun _ => rfl
  refine ⟨fun hbare => hx.endsWith hg (hbody.trans ?_), fun hbare hdata hpad hall => hx.endsWith hg (hbody.trans ?_)⟩
  · exact (storeChecks_bare hc _ _ clean hbare).trans (if_pos hbare)
  · refine (storeChecks_translated hc _ _ clean hdata hpad (fun h => by cases h) hall (fun h => by cases h)).trans ?_
    exact if_neg (by simp [hbare])

/-- Settles O28: an atomic without an enabled lane leaves its order alone, and one whose lanes all translate its operation. -/
theorem atomics : Obligations.Atomics := by
  intro i fn path n returns wide s x hshape hx hg hc
  obtain rfl := hx.st
  have hbody := (bodyOf_atomShape hc hshape).trans (operandBody_forward hc fn path n returns wide)
  have clean : ∀ l, ((atomOperand x fn n wide l).1, false).2 = false := fun _ => rfl
  refine ⟨fun hbare => hx.endsWith hg (hbody.trans ?_), fun hbare hdata hpad halign => ?_⟩
  · exact (storeChecks_bare hc _ _ clean hbare).trans (if_pos hbare)
  · intro tr opnd accs ret g s1 s2 hall hun
    refine hx.endsWith hg (hbody.trans ?_)
    refine (storeChecks_translated hc _ _ clean hdata hpad (fun _ => halign) hall (fun _ => hun)).trans ?_
    exact if_neg (by simp [hbare])

end Sys2Proof.Settled
end

section
namespace Sys2Proof.Machine

/-! FENCE, XLT, PREF, CFLUSH and CINV (spec/15 R274 to R280), and the engine operations without a lane (spec/13 R254). -/

theorem isBare_ppLanes {x : Ctx} (h : isBare x = true) : ppLanes x = [] := by
  simp only [isBare, Bool.and_eq_true, List.isEmpty_iff] at h
  exact h.2

/-- An engine operation without an enabled lane only orders the group's accesses. -/
theorem engineOnce_bare {x : Ctx} (h : isBare x = true) (p : Bool) (k : Res) : engineOnce x p k = .ok (bareState x.s x) {} := by
  have hlanes : ((ppLanes x).isEmpty && (enLanes x).isEmpty) = true := by rw [isBare_ppLanes h, isBare_enLanes h]; rfl
  exact (if_pos hlanes).trans (if_pos h)

/-- FENCE leaves its operation; its status is pending where it asks for one in an enabled lane. -/
theorem bodyFence_calm {x : Ctx} (hc : Calm x) :
    bodyFence x =
      (let d := if x.r.fn = 1 && !(enLanes x).isEmpty then some x.r.d else none
       let s1 := setGroup (match d with | some c => pendReg c 1 0 x.g | none => x.g) x.s
       .ok (pump (sweepOps (addOp s1 { opOf x .ld (.fence d) with counted := false, poisoned := x.g.poolBad }))) {}) := by
  simp only [bodyFence, ppLanes_clean x hc.clean, hc.inReplay, List.isEmpty_nil, Bool.not_true, Bool.not_false, Bool.and_true, Bool.false_eq_true,
    if_false] <;> rfl

/-- XLT leaves its walk, with its register pending. -/
theorem bodyXlt_calm {x : Ctx} (hc : Calm x) :
    bodyXlt x = .ok (addOp (setGroup (putPend x.g x.r.d 0 true) x.s) (opOf x .sv (.xlt x.r.d (srcB x x.lo).1))) { ctl := true } := by
  simp only [bodyXlt, srcB_clean x hc.clean, Bool.false_eq_true, if_false]

/-- PREF leaves a read of the line of each lane that translates and that its level can hold. -/
theorem bodyPref_calm {x : Ctx} (hc : Calm x) (hpad : padExtent x (laneWheres x) 1 = none) :
    bodyPref x =
      (let tr := xlateLanes x .rd false 1 ((laneWheres x).filter (fun w => !w.pad)) x.s
       let accs := tr.1.filterMap (fun e => match e.2 with
          | .ok ps => if ps.all (fun p => !isPeer tr.2 p.pa || (x.r.fn == 2 && p.borrow))
              then some (memAcc e.1 128 0 0 (ps.map (fun p => { p with pa := p.pa / 128 * 128, n := 128 }))) else none
          | .error _ => none)
       .ok (pump (endIfRead tr.2.nextOp (addOp tr.2 { opOf x .ld (.pref x.r.fn) with accs := accs }))) {}) := by
  have hgood : (laneWheres x).filter (fun w => !w.bad && !w.pad) = (laneWheres x).filter (fun w => !w.pad) :=
    List.filter_congr (fun w hw => by rw [laneWheres_sound hc w hw, Bool.not_false, Bool.true_and])
  have hws : (accLanes x).map (whereOf x) = laneWheres x := rfl
  simp only [bodyPref, hc.inReplay, hws, hpad, hgood, Bool.false_eq_true, if_false] <;> rfl

/-- CFLUSH and CINV leave their operation on the lines that the enabled lanes name. -/
theorem cacheBody_calm {x : Ctx} (hc : Calm x) (inv : Bool) :
    cacheBody inv x = .ok (addOp (flushRanges x x.s).2 (opOf x .sv (.cache x.r.fn (flushRanges x x.s).1 inv))) {} := by
  have hpoison : ((enLanes x).map (whereOf x)).filter (fun w => w.bad || (srcC x x.lo).2) = [] := by
    rw [List.filter_eq_nil_iff]
    intro w hw
    obtain ⟨l, -, rfl⟩ := List.mem_map.mp hw
    simp [whereOf_sound hc l, srcC_clean x hc.clean]
  simp only [cacheBody, hpoison, ppLanes_clean x hc.clean, hc.inReplay, List.map_nil, List.append_nil, List.isEmpty_nil, Bool.not_true, Bool.false_eq_true,
    if_false]
  rfl

end Sys2Proof.Machine

namespace Sys2Proof.Settled
open Sys2Proof.Machine

/-- Settles O29: each of the five leaves its operation, and HSIG and WSEND without a lane their order alone. -/
theorem otherMemory : Obligations.OtherMemory := by
  refine ⟨fun i s x hi hx hg hc hbare => ?_, fun i s x hx hg hc => ?_⟩
  · obtain rfl := hx.st
    rcases hi with ⟨f, rfl⟩ | ⟨f, rfl⟩
    · exact hx.endsWith hg (engineOnce_bare hbare _ _)
    · exact hx.endsWith hg (if_pos hbare)
  · obtain rfl := hx.st
    cases i
    case fence f => exact hx.endsWith hg (bodyFence_calm hc)
    case xlt f => exact hx.endsWith hg (bodyXlt_calm hc)
    case pref f => exact fun hpad => hx.endsWith hg (bodyPref_calm hc hpad)
    case cflush f => exact hx.endsWith hg (cacheBody_calm hc false)
    case cinv f => exact hx.endsWith hg (cacheBody_calm hc true)
    all_goals trivial

end Sys2Proof.Settled
end

section
namespace Sys2Proof.Machine

/-! The completions of matrix and render operations (spec/17 R303 to R310, spec/19 R317, R322). -/

theorem Outstanding.opWithBlock {s : State} {oid : Nat} {o : Op} {b : Block} (h : Outstanding s oid o b) : opWithBlock s oid = some (o, b) := by
  obtain ⟨hop, hopen, hblock⟩ := h
  simp only [Machine.opWithBlock, hop, hopen, hblock, Bool.false_eq_true, if_false, Option.map_some]

/-- Where no older value is kept an engine sees the pad as it stands (R241, log 14). -/
theorem padView_noPast {s : State} (h : s.past = []) (o : Op) (b : Block) (rs : List (Nat × Nat)) : padView s o b rs = (b, s) := by
  have hempty : s.past.isEmpty = true := by rw [h]; rfl
  simp only [padView, viewOf, if_pos hempty]

section
variable {s : State} {o : Op} {b : Block} (ho : Outstanding s s.ev.a o b) (hheld : tileHeld s o = false)
include ho hheld

/-- An MLOOP that is not halted accumulates its next step. -/
theorem evMloopKstep_of {t wa wb wc c : Nat} {h : Bool} (hk : o.kind = .mloop t wa wb wc c h) (hgo : isHalted o b = false) (hc : c < (stepOf wc).ksteps) :
    evMloopKstep s =
      (let v := padView s o b (mloopExtents (fbOf wa) (fbOf wb) (stepOf wc) c)
       let r := mloopStep v.1 t wa wb wc c
       some (reportPad (modOp o.oid (fun o => { o with kind := .mloop t wa wb wc (c + 1) (mstepActs s b) })
         (setBlock { r.1 with pad := b.pad } v.2)) o b r.2)) := by
  simp only [evMloopKstep, ho.opWithBlock, hk, hheld, hgo, decide_eq_false (Nat.not_le.mpr hc), Bool.or_self, Bool.false_eq_true, if_false]

/-- After its last step it completes. -/
theorem evMloopComplete_of {t wa wb wc c : Nat} {h : Bool} (hk : o.kind = .mloop t wa wb wc c h) (hgo : isHalted o b = false) (hc : (stepOf wc).ksteps ≤ c) :
    evMloopComplete s = some (endOp o.oid s) := by
  simp only [evMloopComplete, ho.opWithBlock, hk, hheld, hgo, decide_eq_false (Nat.not_lt.mpr hc), Bool.or_self, Bool.false_eq_true, if_false]

theorem evTileOpComplete_of {k t a e fn ty rnd : Nat} {sat : Bool} {vals : List (Nat × Nat)} (hk : o.kind = .tileOp k t a e fn ty rnd sat vals) :
    evTileOpComplete s = some (endOp o.oid (tileDo s o b)) := by
  simp only [evTileOpComplete, ho.opWithBlock, hk, hheld, Bool.false_eq_true, if_false]

end

/-- A render operation that waits for no peer lands its results in its destination. -/
theorem renderDone_of {s : State} {o : Op} {ok : OpKind → Option (Nat × Nat)} {d n : Nat} (hop : findOp s s.ev.a = some o) (hover : o.isOpen = false)
    (hheld : engineHeld s o = false) (hneeds : renderNeeds (renderLanes s o).1 = []) (hd : ok o.kind = some (d, n)) :
    renderDone s ok = some (endOp o.oid (landRender o d n (renderLanes s o).1 (renderLanes s o).2)) := by
  simp only [renderDone, hop, hd, hover, hheld, hneeds, Bool.or_self, Bool.false_eq_true, if_false, List.isEmpty_nil, if_true]

end Sys2Proof.Machine

namespace Sys2Proof.Settled
open Sys2Proof.Machine

/-- Settles O43: each event of a matrix or render operation answers its state where it can happen. -/
theorem matrixAndRender : Obligations.MatrixAndRender := by
  refine fun s o hp => ⟨fun b ho hheld => ⟨fun t wa wb wc c h hk hgo => ⟨fun hc => ⟨?_, fun hpast => ?_⟩, fun hc => ?_⟩,
    fun k t a e fn ty rnd sat vals hk => ?_⟩, fun hop hover hheld hneeds => ⟨fun fn d root rays hk => ?_, fun d surf uv hk => ?_⟩⟩
  · exact hp.happens rfl (evMloopKstep_of ho hheld hk hgo hc)
  · exact padView_noPast hpast o b _
  · exact hp.happens rfl (evMloopComplete_of ho hheld hk hgo hc)
  · exact hp.happens rfl (evTileOpComplete_of ho hheld hk)
  · exact hp.happens rfl (renderDone_of hop hover hheld hneeds (by rw [hk]))
  · exact hp.happens rfl (renderDone_of hop hover hheld hneeds (by rw [hk]))

end Sys2Proof.Settled
end

section
namespace Sys2Proof.Machine

/-! The requests of peers and the answers to the package's own (spec/21 R345 to R351). -/

section
variable {s : State} {k : Nat} {f : Packet → Option State}

/-- A well-formed packet of its kind for this package is handled (R349). -/
theorem onPacket_arrives (h : Arrives s k) : onPacket k s f = f s.ev.p := by
  obtain ⟨hport, hkind, hk, hmbz, hdst⟩ := h
  simp [onPacket, hport, hkind, hmbz, hdst, Nat.not_le.mpr hk]

/-- A port that is down carries nothing (R348). -/
theorem onPacket_portDown (h : bit s.fab.ports s.ev.p.port = false) : onPacket k s f = none := by
  simp only [onPacket, h, Bool.not_false, if_true]

end

/-- A request that names the channel groups of no partition is refused (R347). -/
theorem request_noTarget {s : State} {k a : Nat} {i : Instr}
    (h : (k, i, a) ∈ [(0, Instr.read, 1), (2, Instr.write, 5), (3, Instr.atomicReq, if bit s.ev.p.opnd 9 then 4 else 5), (6, Instr.signal, 5)]) :
    ∃ f, exec i s = eventOut s (onPacket k s f) ∧ (targetPart s s.ev.p = none → f s.ev.p = some (refuse s s.ev.p a)) := by
  simp only [List.mem_cons, Prod.mk.injEq, List.not_mem_nil, or_false] at h
  rcases h with ⟨rfl, rfl, rfl⟩ | ⟨rfl, rfl, rfl⟩ | ⟨rfl, rfl, rfl⟩ | ⟨rfl, rfl, rfl⟩ <;>
    exact ⟨_, rfl, fun hnone => by simp only [hnone]⟩

/-- The home's read of the line that a request names (R347). -/
abbrev requestRead (s : State) (q : Nat) : Option Nat × State :=
  let at_ := homePa s q (s.ev.p.offset / 128 * 128)
  homeRead (recallOwner s (lineOf at_) none) at_ 128

/-- The home after an atomic on the line that it has read: the bytes that the atomic changes are written (R269, R349). -/
abbrev atomWritten (s : State) (q v : Nat) : State :=
  let w := atomRun s.ev.p v
  let bs := ((List.range 128).filter (fun i => bits v (8 * i) 8 != bits w.1 (8 * i) 8)).map (fun i => (i, bits w.1 (8 * i) 8))
  let t := (requestRead s q).2
  if bs.isEmpty then t else lineWrite t q (lineOf (homePa s q (s.ev.p.offset / 128 * 128))) bs false

section
variable {s : State} {q : Nat} (hq : targetPart s s.ev.p = some q)
include hq

theorem evRead_sound (ha : Arrives s 0) {v : Nat} (hv : (requestRead s q).1 = some v) :
    evRead s = some (answer (requestRead s q).2 s.ev.p 1 ((packetBytes { s.ev.p with data := v }).foldl (fun d e => putBytes d e.1 1 e.2) 0) false 0) := by
  simp only [evRead, onPacket_arrives ha, hq, hv]

theorem evRead_dataError (ha : Arrives s 0) (hv : (requestRead s q).1 = none) :
    evRead s = some (answer (lineError (some q) (homePa s q (s.ev.p.offset / 128 * 128)) (requestRead s q).2) s.ev.p 1 0 true 3) := by
  simp only [evRead, onPacket_arrives ha, hq, hv]

theorem evWrite_target (ha : Arrives s 2) :
    evWrite s = some (answer (lineWrite s q (lineOf (homePa s q s.ev.p.offset)) (packetBytes s.ev.p) false) s.ev.p 5 0 false 0) := by
  simp only [evWrite, onPacket_arrives ha, hq]

theorem evAtomicReq_returning (ha : Arrives s 3) (hret : bit s.ev.p.opnd 9 = true) {v : Nat} (hv : (requestRead s q).1 = some v) :
    evAtomicReq s = some (queuePackets [{ reply s s.ev.p 4 v false 0 with lanes := (atomRun s.ev.p v).2 }] (atomWritten s q v)) := by
  simp only [evAtomicReq, onPacket_arrives ha, hq, hv, hret, if_true]

theorem evAtomicReq_silent (ha : Arrives s 3) (hret : bit s.ev.p.opnd 9 = false) {v : Nat} (hv : (requestRead s q).1 = some v) :
    evAtomicReq s = some (queuePackets [reply s s.ev.p 5 0 false 0] (atomWritten s q v)) := by
  simp only [evAtomicReq, onPacket_arrives ha, hq, hv, hret, Bool.false_eq_true, if_false, Nat.succ_ne_self]

theorem evAtomicReq_dataError (ha : Arrives s 3) (hv : (requestRead s q).1 = none) :
    evAtomicReq s = some (answer (lineError (some q) (homePa s q (s.ev.p.offset / 128 * 128)) (requestRead s q).2) s.ev.p
      (if bit s.ev.p.opnd 9 then 4 else 5) 0 true 3) := by
  simp only [evAtomicReq, onPacket_arrives ha, hq, hv]

theorem evSignal_target (ha : Arrives s 6) :
    evSignal s =
      (let op : Op := { oid := 0, gid := 2 ^ 64, bid := 0, part := q, seq := 0, path := .nt, pc := 0, kind := .done }
       some (answer (signalHere s op { pa := homePa s q (s.ev.p.offset / 128 * 128) + (lowBit 128 0 s.ev.p.mask).log2, n := 8, off := 0, kind := .rc }
         (bits s.ev.p.opnd 64 1) (bits s.ev.p.opnd 0 64)) s.ev.p 5 0 false 0)) := by
  simp only [evSignal, onPacket_arrives ha, hq]

end

theorem evWagon_owned {s : State} {q : Nat} (ha : Arrives s 7) (hq : wagonOwner s s.ev.p.fdom none (bits s.ev.p.opnd 0 6) = some q) :
    evWagon s = some (answer (landWagon q (bits s.ev.p.opnd 0 6) (bits s.ev.p.data 0 512) s.ev.p.src [] s) s.ev.p 5 0 false 0) := by
  simp only [evWagon, onPacket_arrives ha, hq]

/-- What a refusal or a data error at the home brings to the parts that it answers (R347). -/
abbrev lostAnswer (s : State) (o : Op) (ps : List (Nat × Nat)) : State :=
  if s.ev.p.reason = 3 then partsLost o 3 false ps (tookTag s) else refusedHere o ps (tookTag s)

section
variable {s : State} {o : Op} {oid key line : Nat} (htag : mfind s.ev.p.tag s.fab.tags = some (oid, key, line)) (hecho : s.ev.p.echo = false)
  (hop : findOp (tookTag s) oid = some o)
include htag hecho hop

/-- An answer without an echoed mark frees its tag and reaches the parts of the operation that wait for it (R349, R351). -/
theorem onResponse_found (f : State → Op → Nat → List (Nat × Nat) → State) :
    onResponse s s.ev.p f = some (f (tookTag s) o line (tagParts o key line)) := by
  have hfind : findOp { s with fab := { s.fab with tags := merase s.ev.p.tag s.fab.tags } } oid = some o := hop
  simp only [onResponse, htag, hecho, Bool.false_eq_true, if_false, hfind, tookTag]

/-- Each kind of answer ends the parts that it refuses. -/
theorem answer_refused (href : s.ev.p.refused = true) {k : Nat} {i : Instr}
    (h : (k, i) ∈ [(1, Instr.readData), (4, Instr.atomicData), (5, Instr.acknowledgement)]) (hwait : k = 5 → (mfind s.ev.p.tag s.fab.mcWait).isSome = false) :
    ∃ f, exec i s = eventOut s (onPacket k s f) ∧ f s.ev.p = some (lostAnswer s o (tagParts o key line)) := by
  simp only [List.mem_cons, Prod.mk.injEq, List.not_mem_nil, or_false] at h
  have found := onResponse_found htag hecho hop
  rcases h with ⟨rfl, rfl⟩ | ⟨rfl, rfl⟩ | ⟨rfl, rfl⟩
  · exact ⟨_, rfl, (found _).trans (congrArg some (if_pos href))⟩
  · exact ⟨_, rfl, (found _).trans (congrArg some (if_pos href))⟩
  · have hsingle : ¬ (mfind s.ev.p.tag s.fab.mcWait).isSome = true := by simp [hwait rfl]
    exact ⟨_, rfl, (if_neg hsingle).trans ((found _).trans (congrArg some (if_pos href)))⟩

section
variable (hok : s.ev.p.refused = false)
include hok

theorem evReadData_found (ha : Arrives s 1) :
    evReadData s = some (bringParts o line s.ev.p.data (s.ev.p.mask == 2 ^ 128 - 1) (tagParts o key line) (tookTag s)) := by
  simp only [evReadData, onPacket_arrives ha, onResponse_found htag hecho hop, hok, Bool.false_eq_true, if_false]

/-- Each part takes its lane's old value, or its bytes of the line where the packet names no lanes (log 20). -/
theorem evAtomicData_found (ha : Arrives s 4) :
    evAtomicData s = some (endIfRead o.oid (((List.range (tagParts o key line).length).zip (tagParts o key line)).foldl (fun t e =>
      match (o.accs[e.2.1]?).bind (fun a => a.pieces[e.2.2]?) with
      | some q => landAtom t o e.2.1 (match s.ev.p.lanes[e.1]? with
          | some l => l.2.1 % 2 ^ (8 * q.n)
          | none => bits s.ev.p.data (8 * (q.pa % 128)) (8 * q.n)) 0 0 false
      | none => t) (tookTag s))) :=
  (onPacket_arrives ha).trans ((onResponse_found htag hecho hop _).trans (congrArg some (if_neg (by simp [hok]))))

theorem evAcknowledgement_found (ha : Arrives s 5) (hsingle : (mfind s.ev.p.tag s.fab.mcWait).isSome = false) :
    evAcknowledgement s = some (markParts o.oid .done (tagParts o key line) (tookTag s)) := by
  simp only [evAcknowledgement, onPacket_arrives ha, onResponse_found htag hecho hop, hok, hsingle, Bool.false_eq_true, if_false]

end

end

/-- A packet that arrives has its event's effect. -/
theorem Powered.arrives {i : Instr} {s t : State} {k : Nat} {f : Packet → Option State} (hp : Powered s) (ha : Arrives s k)
    (he : exec i s = eventOut s (onPacket k s f)) (hf : f s.ev.p = some t) : Happens i s t :=
  hp.happens he ((onPacket_arrives ha).trans hf)

end Sys2Proof.Machine

namespace Sys2Proof.Settled
open Sys2Proof.Machine

/-- Settles O44: each request is performed at its home or refused, and each answer reaches the operation that its tag names. -/
theorem requestsAndAnswers : Obligations.RequestsAndAnswers := by
  refine ⟨fun s hp => ⟨fun k i a hmem => ?_, fun q hq => ⟨fun ha v hv => ?_, fun ha hv => ?_, fun ha => ?_, fun ha v hv => ?_, fun ha hv => ?_, fun ha => ?_⟩,
    fun ha q hq => ?_, fun ha => ?_⟩, fun s o oid key line hp htag hecho hop => ⟨fun hok => ⟨fun ha => ?_, fun ha => ?_, fun ha hsingle => ?_⟩,
    fun href k i hmem ha hwait => ?_⟩⟩
  · obtain ⟨f, hexec, hrefuse⟩ := request_noTarget hmem
    exact ⟨fun ha hnone => hp.arrives ha hexec (hrefuse hnone), fun hdown => exec_noEvent hexec (onPacket_portDown hdown)⟩
  · exact hp.happens rfl (evRead_sound hq ha hv)
  · exact hp.happens rfl (evRead_dataError hq ha hv)
  · exact hp.happens rfl (evWrite_target hq ha)
  · exact ⟨fun hret => hp.happens rfl (evAtomicReq_returning hq ha hret hv), fun hret => hp.happens rfl (evAtomicReq_silent hq ha hret hv)⟩
  · exact hp.happens rfl (evAtomicReq_dataError hq ha hv)
  · exact hp.happens rfl (evSignal_target hq ha)
  · exact hp.happens rfl (evWagon_owned ha hq)
  · exact hp.arrives ha rfl rfl
  · exact hp.happens rfl (evReadData_found htag hecho hop hok ha)
  · exact hp.happens rfl (evAtomicData_found htag hecho hop hok ha)
  · exact hp.happens rfl (evAcknowledgement_found htag hecho hop hok ha hsingle)
  · obtain ⟨f, hexec, hlost⟩ := answer_refused htag hecho hop href hmem hwait
    exact hp.arrives ha hexec hlost

end Sys2Proof.Settled
end

section
namespace Sys2Proof.Machine

/-! Instructions of the haul and matrix classes that are performed once per issue (spec/17 R281, R282), and the haul instructions
(R284 to R298). -/

theorem recWords_clean {x : Ctx} (hc : Calm x) (code n : Nat) : (recWords x code n).2 = false := by
  simp only [recWords, List.any_eq_false, getPoison_clean x.g hc.clean, Bool.false_eq_true, not_false_eq_true, implies_true]

/-- With an enabled lane and nothing poisoned an engine instruction goes on to its own checks (R282). -/
theorem engineOnce_calm {x : Ctx} (hc : Calm x) (he : enLanes x ≠ []) (k : Res) : engineOnce x false k = k := by
  have hlane : (enLanes x).isEmpty = false := List.isEmpty_eq_false_iff.mpr he
  simp only [engineOnce, hlane, Bool.and_false, ctlPoison_clean x hc.clean, hc.inReplay, Bool.false_eq_true, if_false]

section
variable {x : Ctx} (hc : Calm x) (he : enLanes x ≠ []) {ws : List Nat} (hws : (recWords x x.r.a 12).1 = ws)
include hc he hws

/-- HCOPY starts its copy where its descriptor passes R284. -/
theorem bodyHcopy_fits
    (hd : descTrap x .copy (descOf ws) (redBytes x.r.fn x.r.ty) ((descOf ws).rows * (descOf ws).rowb) (copyEnds .copy (descOf ws)) false none = none) :
    bodyHcopy x = startHaul x .hl (.haul 0 ws x.r.fn x.r.ty 0) := by
  simp only [bodyHcopy, recWords_clean hc, hws, engineOnce_calm hc he, hd]

theorem bodyHfill_fits
    (hd : descTrap x .fill (descOf ws) 1 ((descOf ws).rows * (descOf ws).rowb) (copyEnds .fill (descOf ws)) false none = none) :
    bodyHfill x = startHaul x .hl (.haul 2 ws 0 0 ((uB x).1 % 2 ^ 32)) := by
  simp only [bodyHfill, recWords_clean hc, hc.uB, hws, Bool.or_self, engineOnce_calm hc he, hd]

/-- HXPOSE starts where its record passes R108, its descriptor R284, and its planes and scales lie in pad (R293). -/
theorem bodyHxpose_fits {f : FmtBlk} (hf : fbOf (uB x).1 = f) (hrec : fbBad (uB x).1 = none)
    (hd : descTrap x .xpose (descOf ws) 1 ((descOf ws).rows * f.rows * (16 * f.p + 120 / blkLen f.blk))
      (if (descOf ws).rows = 0 then [] else xposeEnds (descOf ws) f) (isBlockFmt f.fmt) none = none)
    (hout : xposeOut x.b (descOf ws) f = none) : bodyHxpose x = startHaul x .hl (.haul 1 ws 0 0 (uB x).1) := by
  simp only [bodyHxpose, recWords_clean hc, hc.uB, hws, hf, Bool.or_self, engineOnce_calm hc he, hrec, hd, hout]

theorem bodyHrem_fits
    (hd : descTrap x .rem (descOf ws) 1 ((descOf ws).rows * (descOf ws).rowb) (copyEnds .rem { descOf ws with dpad := false }) false none = none) :
    bodyHrem x = startHaul x .nt (.hrem ws x.r.fn (uB x).1) := by
  simp only [bodyHrem, recWords_clean hc, hc.uB, hws, Bool.or_self, engineOnce_calm hc he, hd]

/-- HTRIG, checked as its copy would be, joins the trigger queue, whose head is tested (R297, R298). -/
theorem bodyHtrig_fits
    (hd : descTrap x .copy (descOf ws) (redBytes x.r.fn x.r.ty) ((descOf ws).rows * (descOf ws).rowb) (copyEnds .copy (descOf ws)) false
      (some ((uB x).1 % 2 ^ 32)) = none) :
    bodyHtrig x =
      (let e : Trig := { seq := x.g.seq, pc := x.pc, desc := ws, fn := x.r.fn, ty := x.r.ty, off := (uB x).1 % 2 ^ 32,
                         thr := (uC x).1 % 2 ^ 32, service := x.g.service, fenced := x.g.fenced }
       .ok (trigNote x.b.bid (setGroup { x.g with trigq := x.g.trigq ++ [e] } x.s)) {}) := by
  simp only [bodyHtrig, recWords_clean hc, hc.uB, hc.uC, hws, Bool.or_self, engineOnce_calm hc he, hd]

end

/-- HSIG at an aligned address that translates, off UN pages where it adds, leaves an operation with the signal's access (R296). -/
theorem bodyHsig_translated {x : Ctx} (hc : Calm x) (he : enLanes x ≠ []) {ps : List Piece} {u : State} (halign : (srcA x x.lo).1 % 8 = 0)
    (htr : xlateLanes x (if x.r.fn = 0 then .wr else .at) false 8 [{ lane := x.lo, va := (srcA x x.lo).1 }] x.s =
      ([({ lane := x.lo, va := (srcA x x.lo).1 }, .ok ps)], u))
    (hun : x.r.fn = 1 → reachesUn x u { lane := x.lo, va := (srcA x x.lo).1 } 8 = false) :
    bodyHsig x = .ok (pump (addOp u { opOf x .nt (.hsig x.r.fn (uB x).1) with
      accs := [{ act := if x.r.fn = 0 then 2 else 3, lane := 0, va := (srcA x x.lo).1, n := 8, pieces := ps
                 st := ps.map (fun _ => .todo), data := (uB x).1 }] })) {} := by
  have hbne : ((srcA x x.lo).1 % 8 != 0) = false := by simp [halign]
  simp only [bodyHsig, srcA_clean x hc.clean, hc.uB, Bool.or_self, engineOnce_calm hc he, hbne, Bool.false_eq_true, if_false]
  rw [reachChecks_translated _ _ (es := [({ lane := x.lo, va := (srcA x x.lo).1 }, ps)]) (by rw [htr]; rfl) (fun hfn w hw => ?_)]
  · simp only [htr, List.flatMap_cons, List.flatMap_nil, List.append_nil]
  · rw [List.mem_singleton.mp hw, htr]
    exact hun (by simpa using hfn)

/-- Starting an engine's operation is the whole effect of its instruction. -/
theorem startHaul_ok (x : Ctx) (path : Path) (kind : OpKind) : ∃ t, startHaul x path kind = .ok t {} := by
  unfold startHaul
  dsimp only
  split
  · exact ⟨_, (apply_ite (fun t => Res.ok t {}) _ _ _).symm⟩
  · exact ⟨_, rfl⟩

theorem Issues.startsHaul {i : Instr} {s : State} {x : Ctx} (hx : Issues i s x) (hg : Goes x) {path : Path} {kind : OpKind}
    (hb : bodyOf i x = startHaul x path kind) : ∃ t, startHaul x path kind = .ok t {} ∧ EndsWith i s x t {} := by
  obtain ⟨t, ht⟩ := startHaul_ok x path kind
  exact ⟨t, ht, hx.endsWith hg (hb.trans ht)⟩

end Sys2Proof.Machine

namespace Sys2Proof.Settled
open Sys2Proof.Machine

/-- Settles O30: each haul instruction by what it does once its checks pass. -/
theorem haulStarts : Obligations.HaulStarts := by
  intro i s x hx hg hc he
  obtain rfl := hx.st
  cases i
  case hcopy f => exact fun hd => hx.startsHaul hg (bodyHcopy_fits hc he rfl hd)
  case hfill f => exact fun hd => hx.startsHaul hg (bodyHfill_fits hc he rfl hd)
  case hxpose f => exact fun hrec hd hout => hx.startsHaul hg (bodyHxpose_fits hc he rfl rfl hrec hd hout)
  case hrem f => exact fun hd => hx.startsHaul hg (bodyHrem_fits hc he rfl hd)
  case hsig f => exact fun ps u halign htr hun => hx.endsWith hg (bodyHsig_translated hc he halign htr hun)
  case htrig f => exact fun hd => hx.endsWith hg (bodyHtrig_fits hc he rfl hd)
  all_goals trivial

end Sys2Proof.Settled
end

section
namespace Sys2Proof.Machine

/-! GATH and SCAT (spec/17 R299, R300). -/

/-- Where every lane's element lies aligned in pad and translates, the gather unit gets one access per lane. -/
theorem gatherBody_translated {x : Ctx} (hc : Calm x) (he : enLanes x ≠ []) {w act base : Nat} {need : Need} {red : Bool} {ws : List Where}
    (kind : Nat → OpKind) (hp : (uC x).1 % 2 ^ 32 = base) (hws : (enLanes x).map (whereOf x) = ws) (hbase : base % w = 0)
    (hfit : ∀ e ∈ ws, padIn x.b ((base + e.lane * w : Nat) : Int) w = true ∧ (e.pad = true → padIn x.b e.off w = true) ∧
      (if e.pad then e.off.toNat else e.va) % w = 0)
    (hall : AllTranslate (xlateLanes x need false w ws x.s).1)
    (hun : red = true → ∀ e ∈ ws, reachesUn x (xlateLanes x need false w ws x.s).2 e w = false) :
    gatherBody x w need red act kind =
      (let tr := xlateLanes x need false w ws x.s
       let accs := tr.1.filterMap (fun e => match e.2 with
         | .ok ps => some { (if e.1.pad then padAcc e.1 w 0 0 else memAcc e.1 w 0 0 ps) with act := act }
         | .error _ => none)
       let u := if act = 4 && !red then unWinners tr.2 accs else (accs, tr.2)
       .ok (pump (addOp u.2 { opOf x .ga (kind base) with accs := u.1 })) {}) := by
  have hlane : (enLanes x).isEmpty = false := List.isEmpty_eq_false_iff.mpr he
  have hsound : ∀ e ∈ ws, e.bad = false := by
    subst hws
    intro e hmem
    obtain ⟨l, -, rfl⟩ := List.mem_map.mp hmem
    exact whereOf_sound hc l
  have hout : ws.filter (fun e => (!false && !padIn x.b ((base + e.lane * w : Nat) : Int) w) || (e.pad && !e.bad && !padIn x.b e.off w)) = [] := by
    refine List.filter_eq_nil_iff.mpr (fun e hmem => ?_)
    obtain ⟨hpad, hoff, -⟩ := hfit e hmem
    rw [hpad]
    cases hside : e.pad with
    | false => simp
    | true => simp [hoff hside]
  have hpoison : ws.filter (fun e => e.bad || false) = [] := List.filter_eq_nil_iff.mpr (fun e hmem => by simp [hsound e hmem])
  have hodd : ws.filter (fun e => base % w != 0 || (if e.pad then e.off.toNat else e.va) % w != 0) = [] := by
    refine List.filter_eq_nil_iff.mpr (fun e hmem => ?_)
    obtain ⟨-, -, halign⟩ := hfit e hmem
    simp [hbase, halign]
  obtain ⟨es, hes⟩ := hall.pieces
  unfold gatherBody
  simp only [hp, hws, hc.uC, hout, hpoison, hodd, ppLanes_clean x hc.clean, hc.inReplay, hlane, List.head?_nil, List.map_nil, List.append_nil,
    List.isEmpty_nil, Bool.not_true, Bool.false_eq_true, if_false]
  rw [reachChecks_translated maskOf _ hes hun, hes]
  simp only [List.filterMap_map, Function.comp_def, List.filterMap_eq_map']

end Sys2Proof.Machine

namespace Sys2Proof.Settled
open Sys2Proof.Machine

/-- Settles O31: GATH and SCAT are one effect, `gatherBody`, with their own width, permission and kind. -/
theorem gatherScatter : Obligations.GatherScatter := by
  intro i w need red act kind s x hshape hx hg hc he ws base tr accs u hbase hfit hall hun
  obtain rfl := hx.st
  have hbody : bodyOf i x = gatherBody x w need red act kind := by
    rcases hshape with ⟨⟨f, rfl⟩, rfl, rfl, rfl, rfl, rfl⟩ | ⟨⟨f, rfl⟩, rfl, rfl, rfl, rfl, rfl⟩ <;> rfl
  exact hx.endsWith hg (hbody.trans (gatherBody_translated hc he kind rfl rfl hbase hfit hall hun))

end Sys2Proof.Settled
end

section
namespace Sys2Proof.Machine

/-! The matrix instructions (spec/17 R301 to R310). -/

section
variable {x : Ctx} (hc : Calm x) (he : enLanes x ≠ [])
include hc he

/-- MLOOP whose records pass R108 and fit each other, and whose planes and scales lie in pad (R302, R304). -/
theorem bodyMloop_fits (ha : fbBad (srcA x x.lo).1 = none) (hb : fbBad (srcB x x.lo).1 = none) (hmbz : (stepOf (srcC x x.lo).1).mbz = false)
    (hblk : (fbOf (srcA x x.lo).1).blk = (fbOf (srcB x x.lo).1).blk)
    (hout : mloopOut x.b (fbOf (srcA x x.lo).1) (fbOf (srcB x x.lo).1) (stepOf (srcC x x.lo).1) = none) :
    bodyMloop x = .ok (addOp x.s (opOf x .mx (.mloop (x.r.d - 936) (srcA x x.lo).1 (srcB x x.lo).1 (srcC x x.lo).1 0 false))) {} := by
  simp only [bodyMloop, srcA_clean x hc.clean, srcB_clean x hc.clean, srcC_clean x hc.clean, Bool.or_self, engineOnce_calm hc he, ha, hb, Option.or_none,
    hmbz, hblk, bne_self_eq_false, hout, Bool.false_eq_true, if_false]

theorem bodyMzero_calm : bodyMzero x = .ok (addOp x.s (opOf x .mx (.tileOp 0 (x.r.d - 936) 0 0 0 0 0 false []))) {} :=
  engineOnce_calm hc he _

/-- MTRD and MTWR take effect where their columns end within the tile and no lane reads poison (R309). -/
theorem tileLanes_fits {bad : Nat → Bool} (k : List Nat → Nat → Res) (hbad : ∀ l, bad l = false) (hcols : (uB x).1 % 2 ^ 32 + 2 ^ x.r.fn ≤ 96) :
    tileLanes x bad k = k (enLanes x) ((uB x).1 % 2 ^ 32) := by
  have hlane : (enLanes x).isEmpty = false := List.isEmpty_eq_false_iff.mpr he
  have hnone : (enLanes x).filter bad = [] := List.filter_eq_nil_iff.mpr (fun l _ => by simp [hbad l])
  simp only [tileLanes, ppLanes_clean x hc.clean, hnone, hlane, hc.uB, hc.inReplay, if_neg (Nat.not_lt.mpr hcols), List.append_nil, List.isEmpty_nil,
    Bool.not_true, Bool.false_eq_true, if_false]

theorem bodyMtrd_fits (hcols : (uB x).1 % 2 ^ 32 + 2 ^ x.r.fn ≤ 96) :
    bodyMtrd x = .ok (addOp (setGroup ((enLanes x).foldl (fun g l => pendReg x.r.d (2 ^ x.r.fn) l g) x.g) x.s)
      (opOf x .mx (.tileOp 1 (x.r.a - 936) ((uB x).1 % 2 ^ 32) x.r.d x.r.fn x.r.ty x.r.rnd x.r.sat ((enLanes x).map (fun l => (l, 0)))))) { sr := x.isSR } :=
  tileLanes_fits hc he _ (fun _ => rfl) hcols

theorem bodyMtwr_fits (hcols : (uB x).1 % 2 ^ 32 + 2 ^ x.r.fn ≤ 96) :
    bodyMtwr x = .ok (addOp x.s (opOf x .mx (.tileOp 2 (x.r.d - 936) 0 0 0 0 0 false
      ((enLanes x).flatMap (fun l => (List.range (2 ^ x.r.fn)).map (fun k =>
        (l * 96 + (uB x).1 % 2 ^ 32 + k, widenElem x.r.ty (readSrc x tyU32 (x.r.a + k) x.r.ra l).1))))))) {} := by
  have hbad : ∀ l, (List.range (2 ^ x.r.fn)).any (fun k => (readSrc x tyU32 (x.r.a + k) x.r.ra l).2) = false :=
    fun l => by simp only [readSrc_clean x hc.clean, any_false]
  unfold bodyMtwr
  exact tileLanes_fits hc he _ hbad hcols

/-- MLDT and MSTT of rows that fit their stride and lie in pad (R308); with SR they count srctr (R310). -/
theorem tilePad_fits (kind : Nat)
    (hfit : let str := (uC x).1 % 2 ^ 32
            let w : Nat := if x.r.ty = 4 then 4 else 2
            str % w = 0 ∧ 96 * w ≤ str ∧
              endsOut x.b { pad := true, addr := (uB x).1 % 2 ^ 32, stride := (str : Int), rows := 96, n := 96 * w } = none) :
    tilePad x kind =
      .ok (addOp x.s (opOf x .mx (.tileOp kind (x.r.d - 936) ((uB x).1 % 2 ^ 32) ((uC x).1 % 2 ^ 32) 0 x.r.ty x.r.rnd x.r.sat []))) { sr := x.isSR } := by
  obtain ⟨halign, hwide, hends⟩ := hfit
  have hstride : ((uC x).1 % 2 ^ 32 % (if x.r.ty = 4 then 4 else 2) != 0 || decide ((uC x).1 % 2 ^ 32 < 96 * (if x.r.ty = 4 then 4 else 2))) = false := by
    rw [halign, decide_eq_false (Nat.not_lt.mpr hwide)]
    rfl
  simp only [tilePad, hc.uB, hc.uC, Bool.or_self, engineOnce_calm hc he, hstride, hends, Bool.false_eq_true, if_false]

end

end Sys2Proof.Machine

namespace Sys2Proof.Settled
open Sys2Proof.Machine

/-- Settles O32: each matrix instruction by what it leaves once its checks pass. -/
theorem matrixStarts : Obligations.MatrixStarts := by
  intro i s x hx hg hc he
  obtain rfl := hx.st
  cases i
  case mloop f => exact fun ha hb hmbz hblk hout => hx.endsWith hg (bodyMloop_fits hc he ha hb hmbz hblk hout)
  case mzero f => exact hx.endsWith hg (bodyMzero_calm hc he)
  case mtrd f => exact fun hcols => hx.endsWith hg (bodyMtrd_fits hc he hcols)
  case mtwr f => exact fun hcols => hx.endsWith hg (bodyMtwr_fits hc he hcols)
  case mldt f => exact fun hfit => hx.endsWith hg (tilePad_fits hc he 3 hfit)
  case mstt f => exact fun hfit => hx.endsWith hg (tilePad_fits hc he 4 hfit)
  all_goals trivial

end Sys2Proof.Settled
end

section
namespace Sys2Proof.Machine

/-! The events of the haul engine, the gather unit and the NT path (spec/17 R285 to R300, spec/19 R323 to R330). -/

theorem isHaul_of_isGather {o : Op} (h : isGather o = true) : isHaul o = false := by
  unfold isGather at h
  unfold isHaul
  split at h
  next hk => rw [hk]
  next hk => rw [hk]
  next => cases h

section
variable {s : State} {o : Op} {b : Block} (ho : Outstanding s s.ev.a o b)
include ho

/-- A haul operation whose data has come back, and HREM's signal with it where it has one, completes (R286, R295). -/
theorem evHaulOpComplete_of (hk : isHaul o = true) (hheld : engineHeld s o = false) (hdone : dataDone s o b = true) (hok : (haulTrouble s o b).1 = none)
    (hsig : hremFn o = 0 ∨ ∃ a ∈ o.accs, a.act = 3) :
    evHaulOpComplete s =
      (let t := (haulTrouble s o b).2
       let p := planOf t o
       some (endHaul o ((opDesc o).getD (descOf [])) (if movesNothing o then t else performPlan p.2 o b p.1 false))) := by
  have hsignal : (hremFn o != 0 && !(o.accs.any (fun a => a.act == 3))) = false := by
    rcases hsig with h | ⟨a, hmem, hact⟩
    · simp [h]
    · have hany : o.accs.any (fun a => a.act == 3) = true := List.any_eq_true.mpr ⟨a, hmem, by simp [hact]⟩
      simp [hany]
  simp only [evHaulOpComplete, ho.opWithBlock, hk, hheld, hdone, hok, hsignal, Bool.not_true, Bool.or_self, Option.isSome_none, Bool.false_eq_true, if_false]

/-- Once HREM's data is there its signal leaves (R295). -/
theorem evHremSignal_of (hheld : engineHeld s o = false) (hdone : dataDone s o b = true) (hok : (haulTrouble s o b).1 = none) {ws : List Nat} {fn val : Nat}
    {ps : List Piece} {t : State} (hk : o.kind = .hrem ws fn val) (hfn : fn ≠ 0) (hnone : ∀ a ∈ o.accs, a.act ≠ 3) (hat : signalAt s o = (.ok ps, t)) :
    evHremSignal s = some (modOp o.oid (fun o => { o with accs := o.accs ++
      [{ act := 3, lane := 0, va := (opDesc o).elim 0 (fun d => d.aux), n := 8, pieces := ps, st := ps.map (fun _ => .todo), data := val }] }) t) := by
  have hsent : o.accs.any (fun a => a.act == 3) = false := List.any_eq_false.mpr (fun a hmem => by simp [hnone a hmem])
  have hasks : (hremFn o == 0) = false := by simp [hremFn, hk, hfn]
  simp only [evHremSignal, ho.opWithBlock, hasks, hheld, hdone, hsent, hok, hk, hat, Bool.not_true, Bool.or_self, Option.isSome_none, Bool.false_eq_true,
    if_false]

/-- A gather or scatter whose elements all have come performs them (R299). -/
theorem evGathScatComplete_of (hk : isGather o = true) (hheld : engineHeld s o = false) (hcome : farOpen s o = false)
    (hok : ∀ a ∈ o.accs, elemFault s o b a = none) : evGathScatComplete s = some (endOp o.oid (performElems s o false)) := by
  have hsound : o.accs.any (fun a => (elemFault s o b a).isSome) = false := List.any_eq_false.mpr (fun a hmem => by simp [hok a hmem])
  simp only [evGathScatComplete, ho.opWithBlock, hk, hheld, hcome, hsound, Bool.not_true, Bool.or_self, Bool.false_eq_true, if_false]

/-- An operation of the HL, GA or NT path that has met a fault ends in it: those of wagons and collectives have faults of their own. -/
theorem evHaulOpFault_engine {t : State} (hf : engineFault s o b = some t) : evHaulOpFault s = some t := by
  simp only [evHaulOpFault, ho.opWithBlock]
  split
  next hk => simp [engineFault, isHaul, isGather, hk] at hf
  next hk => simp [engineFault, isHaul, isGather, hk] at hf
  next => exact hf

theorem evHaulOpFault_wsend {f : XFault} (hk : o.kind = .wsend) (hf : wagonTrouble s o = some f) :
    evHaulOpFault s = some (endOp o.oid (recordFault o f { s with fresh := s.fresh + 1 })) := by
  simp only [evHaulOpFault, ho.opWithBlock, hk, hf, Option.map_some]

theorem evNtOpComplete_wsend (hk : o.kind = .wsend) (hover : o.isOpen = false) (hok : ∀ a ∈ o.accs, a.fkind = 0) :
    evNtOpComplete s = some (endOp o.oid s) := by
  have hsound : o.accs.any (fun a => a.fkind != 0) = false := List.any_eq_false.mpr (fun a hmem => by simp [hok a hmem])
  simp only [evNtOpComplete, ho.opWithBlock, hk, hover, hsound, Bool.or_self, Bool.false_eq_true, if_false]

theorem evNtOpComplete_wrecv {d : Nat} {taken : List (Nat × Nat)} {bad : List Nat} (hk : o.kind = .wrecv d taken bad) (hheld : engineHeld s o = false) :
    evNtOpComplete s = some (endOp o.oid (landTaken o d taken bad s)) := by
  simp only [evNtOpComplete, ho.opWithBlock, hk, hheld, Bool.false_eq_true, if_false]

section
variable {fn val : Nat} {a : Access} {p : Piece} (hk : o.kind = .hsig fn val) (ha : o.accs.head? = some a) (hpiece : a.pieces.head? = some p)
include hk ha hpiece

/-- A signal to a peer completes with its home's acknowledgement. -/
theorem evNtOpComplete_hsigFar (hfar : isFar s p = true) (hover : o.isOpen = false) (hok : a.fkind = 0) : evNtOpComplete s = some (endOp o.oid s) := by
  simp only [evNtOpComplete, ho.opWithBlock, hk, ha, hpiece, hfar, hover, hok, bne_self_eq_false, Bool.or_self, Bool.false_eq_true, if_true, if_false]

/-- A signal here writes its value after its own release. -/
theorem evNtOpComplete_hsigHere (hfar : isFar s p = false) (hheld : engineHeld s o = false) (hok : inFaulted s p.pa = false) :
    evNtOpComplete s =
      (let s1 := opRelease s o
       let t := signalHere s1 o p fn val
       some (endOp o.oid (noteWrite s1 { t with past := s1.past, relAt := s1.relAt } o 0 (p.kind == .un) (fn != 0) p.pa
         ((List.range 8).map (fun i => memByte t (p.pa + i)))))) := by
  simp only [evNtOpComplete, ho.opWithBlock, hk, ha, hpiece, hfar, hheld, hok, Bool.or_self, Bool.false_eq_true, if_false]

end

end

section
variable {s : State} {o : Op} {b : Block}

theorem engineFault_haul {f : Trouble} (hk : isHaul o = true) (hheld : engineHeld s o = false) (hf : (haulTrouble s o b).1 = some f) :
    engineFault s o b =
      (let p := planOf (haulTrouble s o b).2 o
       some (endFaulted o f (if movesNothing o then p.2 else performPlan p.2 o b p.1 true))) := by
  simp only [engineFault, hheld, hk, hf, Option.map_some, Bool.false_eq_true, if_true, if_false]

theorem engineFault_gather {f : Trouble} (hk : isGather o = true) (hheld : engineHeld s o = false) (hf : o.accs.findSome? (elemFault s o b) = some f) :
    engineFault s o b = some (endFaulted o f (performElems s o true)) := by
  simp only [engineFault, hheld, isHaul_of_isGather hk, hk, hf, Option.map_some, Bool.false_eq_true, if_true, if_false]

theorem engineFault_hsig {fn val : Nat} {f : XFault} (hk : o.kind = .hsig fn val) (hheld : engineHeld s o = false) (hf : sigFault s o = some f) :
    engineFault s o b = some (endFaulted o (f, none) s) := by
  simp only [engineFault, isHaul, isGather, hheld, hk, hf, Option.map_some, Bool.false_eq_true, if_false]

/-- The one access of a signal whose region no longer serves it meets FKIND 2 (R364). -/
theorem sigFault_faulted {a : Access} {p : Piece} (hp : a.pieces = [p]) (hok : a.fkind = 0) (hregion : inFaulted s p.pa = true) (ha : o.accs = [a]) :
    sigFault s o = some (2, (a.va + p.off) % 2 ^ 64) := by
  simp [sigFault, ha, hp, hok, hregion]

end

/-- The head of a trigger queue whose test has held fires (R298). -/
theorem evHtrigFire_met {s : State} {g : Group} {e : Trig} {rest : List Trig} {b : Block} (hg : mfind s.ev.a s.groups = some g) (hq : g.trigq = e :: rest)
    (hb : getBlock s g.bid = some b) (hplace : b.place = .resident) (hmet : e.met = true) (hcnt : getCnt g .hl < 255) (hlive : g.retired = false) :
    evHtrigFire s = some (trigNote g.bid (addOp (setGroup { g with trigq := rest } s)
      { oid := 0, gid := g.gid, bid := g.bid, part := partOf s g, seq := e.seq, path := .hl, pc := e.pc
        kind := .haul 0 e.desc e.fn e.ty 0, service := e.service, fenced := e.fenced
        toks := e.toks.filter (fun t => encloses t.scope t.seat (seatOf s g.gid) && encloses 1 (seatOf s g.gid) t.seat) })) := by
  simp only [evHtrigFire, hg, hq, hb, hplace, hmet, decide_eq_true hcnt, hlive, beq_self_eq_true, Bool.not_false, Bool.and_self, if_true]

end Sys2Proof.Machine

namespace Sys2Proof.Settled
open Sys2Proof.Machine

/-- Settles O42: each event of an engine or NT operation by what it answers where it can happen. -/
theorem engineEvents : Obligations.EngineEvents := by
  refine fun s hp => ⟨fun o b ho => ⟨fun hk hheld hdone hok => ⟨fun hsig => ?_, fun ws fn val ps t hkind hfn hnone hat => ?_⟩,
    fun hk hheld hcome hok => ?_, fun f hheld hk hf => ?_, fun f hheld hk hf => ?_, fun hk => ⟨fun hover hok => ?_, fun f hf => ?_⟩,
    fun d taken bad hk hheld => ?_, fun fn val a p hk ha hpiece => ⟨fun hfar hover hok => ?_, fun hfar hheld hok => ?_,
      fun hheld => ⟨fun f hf => ?_, fun hone hok hregion haccs => ?_⟩⟩⟩,
    fun g e rest b hg hq hb hplace hmet hcnt hlive => ?_⟩
  · exact hp.happens rfl (evHaulOpComplete_of ho hk hheld hdone hok hsig)
  · exact hp.happens rfl (evHremSignal_of ho hheld hdone hok hkind hfn hnone hat)
  · exact hp.happens rfl (evGathScatComplete_of ho hk hheld hcome hok)
  · exact hp.happens rfl (evHaulOpFault_engine ho (engineFault_haul hk hheld hf))
  · exact hp.happens rfl (evHaulOpFault_engine ho (engineFault_gather hk hheld hf))
  · exact hp.happens rfl (evNtOpComplete_wsend ho hk hover hok)
  · exact hp.happens rfl (evHaulOpFault_wsend ho hk hf)
  · exact hp.happens rfl (evNtOpComplete_wrecv ho hk hheld)
  · exact hp.happens rfl (evNtOpComplete_hsigFar ho hk ha hpiece hfar hover hok)
  · exact hp.happens rfl (evNtOpComplete_hsigHere ho hk ha hpiece hfar hheld hok)
  · exact hp.happens rfl (evHaulOpFault_engine ho (engineFault_hsig hk hheld hf))
  · exact sigFault_faulted hone hok hregion haccs
  · exact hp.happens rfl (evHtrigFire_met hg hq hb hplace hmet hcnt hlive)

end Sys2Proof.Settled
end

section
namespace Sys2Proof.Machine

/-! RTRAV and TEXF (spec/19 R311 to R322). -/

/-- Where no lane's sources are poisoned the RY path gets every enabled lane, with its destinations pending (R312). -/
theorem renderOp_clean {x : Ctx} (hc : Calm x) (he : enLanes x ≠ []) {n : Nat} {bad : Nat → Bool} (kind : List Nat → OpKind)
    (hbad : ∀ l, bad l = false) :
    renderOp x n bad kind =
      .ok (pump (addOp (setGroup ((enLanes x).foldl (fun g l => pendReg x.r.d n l g) x.g) x.s) (opOf x .ry (kind (enLanes x))))) {} := by
  have hlane : (enLanes x).isEmpty = false := List.isEmpty_eq_false_iff.mpr he
  have hre (ls : List Nat) : reissue x ls = ls := by simp [reissue, hc.inReplay]
  have hdead : (enLanes x).filter bad = [] := List.filter_eq_nil_iff.mpr (fun l _ => by simp [hbad l])
  have hgo : (enLanes x).filter (fun l => !bad l) = enLanes x := List.filter_eq_self.mpr (fun l _ => by simp [hbad l])
  simp only [renderOp, hre, hdead, hgo, hlane, ppLanes_clean x hc.clean, List.append_nil, List.foldl_nil, List.isEmpty_nil, Bool.and_false, Bool.not_true,
    Bool.false_eq_true, if_false, if_true]

section
variable {x : Ctx} (hc : Calm x) (he : enLanes x ≠ [])
include hc he

theorem bodyRtrav_calm :
    bodyRtrav x = .ok (pump (addOp (setGroup ((enLanes x).foldl (fun g l => pendReg x.r.d 8 l g) x.g) x.s) (opOf x .ry (.rtrav x.r.fn x.r.d (srcB x x.lo).1
      ((enLanes x).map (fun l => (l, (List.range 8).map (fun k => (readSrc x tyU32 (x.r.a + k) x.r.ra l).1)))))))) {} := by
  have hlane : (enLanes x).isEmpty = false := List.isEmpty_eq_false_iff.mpr he
  have hray : ∀ l, ((List.range 8).map (fun k => readSrc x tyU32 (x.r.a + k) x.r.ra l)).any (fun w => w.2) = false :=
    fun l => by simp only [List.any_map, Function.comp_def, readSrc_clean x hc.clean, any_false]
  simp only [bodyRtrav, hlane, srcB_clean x hc.clean, renderOp_clean hc he _ hray, List.map_map, Function.comp_def, Bool.false_and, Bool.false_eq_true,
    if_false]

/-- TEXF whose surface record passes the checks of R321. -/
theorem bodyTexf_fits {surf : List Nat} (hsurf : (List.range 8).map (fun k => getReg x.g (x.r.c + k) 0) = surf) (hgood : surfBad (wordsNum surf) = none) :
    bodyTexf x = .ok (pump (addOp (setGroup ((enLanes x).foldl (fun g l => pendReg x.r.d 4 l g) x.g) x.s) (opOf x .ry (.texf x.r.d surf
      ((enLanes x).map (fun l => (l, (srcA x l).1, (srcB x l).1))))))) {} := by
  have hlane : (enLanes x).isEmpty = false := List.isEmpty_eq_false_iff.mpr he
  have hcoord : ∀ l, ((srcA x l).2 || (srcB x l).2) = false := fun l => by rw [srcA_clean x hc.clean, srcB_clean x hc.clean]; rfl
  simp only [bodyTexf, hlane, getPoison_clean x.g hc.clean, List.any_map, List.map_map, Function.comp_def, any_false, hsurf, hgood,
    renderOp_clean hc he _ hcoord, Bool.false_and, Bool.false_eq_true, if_false]

end

end Sys2Proof.Machine

namespace Sys2Proof.Settled
open Sys2Proof.Machine

/-- Settles O33: RTRAV and TEXF are one load of the RY path, with their own registers and kind. -/
theorem renderStarts : Obligations.RenderStarts := by
  intro i s x hx hg hc he
  obtain rfl := hx.st
  cases i
  case rtrav f => exact hx.endsWith hg (bodyRtrav_calm hc he)
  case texf f => exact fun hgood => hx.endsWith hg (bodyTexf_fits hc he rfl hgood)
  all_goals trivial

end Sys2Proof.Settled
end

section
namespace Sys2Proof.Machine

/-! Wagons and their bays (spec/19 R323 to R330). -/

/-- An instruction whose effect is a uniform result ends as `EndsWith` says. -/
theorem Issues.endsResult {i : Instr} {s : State} {x : Ctx} (hx : Issues i s x) (hg : Goes x) {u : State} {v : Nat} (hb : bodyOf i x = ntResult x u v) :
    ∀ t o, ntResult x u v = .ok t o → EndsWith i s x t o :=
  fun _ _ hr => hx.endsWith hg (hb.trans hr)

section
variable {x : Ctx} (hc : Calm x) (he : enLanes x ≠ [])
include hc he

/-- WSEND to targets free of reserved bits spends its credits and sends its wagons (R327). -/
theorem bodyWsend_targets (ht : ∀ l ∈ enLanes x, targetOk ((srcB x l).1 % 2 ^ 32) = true) :
    bodyWsend x =
      (let c := wagonCredits x x.s
       let accs := ((c.2.filter (fun e => e.2)).map (fun e => e.1)).map (wagonOf x x.s)
       let g := c.2.foldl (fun g e => writeDst x g x.r.d 1 e.1 (if e.2 then 1 else 0) false) x.g
       let s1 := setGroup g (setPart x.part c.1 x.s)
       let s2 := addOp s1 { opOf x .nt .wsend with accs := accs }
       .ok (pump (if accs.isEmpty then endOp s1.nextOp s2 else s2)) {}) := by
  have hbare : isBare x = false := by
    rw [← Bool.not_eq_true]
    exact fun h => he (isBare_enLanes h)
  have hpoison : (enLanes x).filter (fun l => (srcB x l).2 || (groupVal x x.r.a x.r.ra l 16).2) = [] :=
    List.filter_eq_nil_iff.mpr (fun l _ => by simp [srcB_clean x hc.clean, groupVal_clean hc])
  have hodd : (enLanes x).filter (fun l => !targetOk ((srcB x l).1 % 2 ^ 32)) = [] := List.filter_eq_nil_iff.mpr (fun l hl => by rw [ht l hl]; decide)
  simp only [bodyWsend, hbare, hpoison, hodd, ppLanes_clean x hc.clean, hc.inReplay, List.append_nil, List.isEmpty_nil, Bool.not_true, Bool.false_eq_true,
    if_false]
  rfl

/-- WRECV of a channel that there is takes that channel's wagons for its lanes (R328 to R330). -/
theorem bodyWrecv_channel {w : Nat} (hw : (uB x).1 % 2 ^ 32 = w) (hlt : w < 64) :
    bodyWrecv x =
      (let ch := bayOf x x.s w
       let ws := (ch.map (fun c => c.wagons)).getD []
       let got := ((List.range (enLanes x).length).zip (enLanes x)).map (fun e => (e.2, ws[e.1]?))
       let taken := got.filterMap (fun e => e.2.map (fun v => (e.1, v)))
       let s1 := if taken.isEmpty then x.s
         else modPart x.part (fun p => { p with chans := mmodify w (fun c => { c with wagons := c.wagons.drop taken.length, toks := c.toks.drop taken.length }) p.chans }) x.s
       let s2 := taken.foldl (fun t e => sendCredits x.part x.cls (e.2.2 % 2 ^ 16) w 1 false t) s1
       let bad := (taken.filter (fun e => decide (2 ^ 16 ≤ e.2.2))).map (fun e => e.1)
       let s3 := bad.foldl (fun t _ => softError t 9 (some x.part) (coreUnit ((ch.map (fun c => c.core)).getD 0)) 0) s2
       let ts := ((ch.map (fun c => c.toks)).getD []).take taken.length
       let g := (enLanes x).foldl (fun g l => pendReg x.r.d 16 l g) x.g
       .ok (pump (addOp (meet (setGroup g s3) (opOf x .nt .done) (ts.foldl joinToks []))
         (opOf x .nt (.wrecv x.r.d (got.map (fun e => (e.1, (e.2.map (fun v => v.1)).getD 0))) bad)))) {}) := by
  simp only [bodyWrecv, hc.uB, engineOnce_calm hc he, hw, if_neg (Nat.not_le.mpr hlt)]
  rfl

end

/-- An engine instruction whose operands are neither poisoned nor odd goes on to its effect. -/
theorem engineOnce_form {x : Ctx} (hc : Calm x) (he : enLanes x ≠ []) {p odd : Bool} {k : Res} (hp : p = false) (hodd : odd = false) :
    engineOnce x p (if odd then trapAll x .operandForm else k) = k := by
  rw [hp, hodd]
  exact engineOnce_calm hc he k

/-- A channel that is in the bay is one that the partition owns. -/
theorem bayOf_owned {x : Ctx} {chan : Nat} {c : Chan} (h : bayOf x x.s chan = some c) : bit (getPart x.s x.part).wchan chan = true := by
  unfold bayOf at h
  split at h
  · assumption
  · cases h

/-! WBAY, function by function, with operands of the form that R326 asks. -/

section
variable {x : Ctx} (hc : Calm x) (he : enLanes x ≠ []) {w : Nat} (hw : (uB x).1 % 2 ^ 32 = w)
include hc he hw

/-- OPEN binds a channel that the partition owns to an intake bank of the core. -/
theorem bodyWbay_open {k : Nat} (hk : (uC x).1 % 2 ^ 32 = k) (hfn : x.r.fn = 0) (hlt : w < 64) (hbank : k < 32) :
    bodyWbay x =
      (let bk := getBank (getCore x.s x.b.core) k
       if !bit (getPart x.s x.part).wchan w then ntResult x x.s 1
       else if (bayOf x x.s w).isSome || bk.mode != 2 || bk.state != 0 || bk.intake.isSome then ntResult x x.s 2
       else ntResult x (modCore x.b.core (fun c => { c with banks := minsert k { getBank c k with intake := some w } c.banks })
         (modPart x.part (fun p => { p with chans := minsert w { core := x.b.core, bank := k } p.chans }) x.s)) 0) := by
  subst hw hk
  have hodd : (decide (64 ≤ (uB x).1 % 2 ^ 32) || decide (32 ≤ (uC x).1 % 2 ^ 32) || false) = false := by simp; omega
  unfold bodyWbay
  rw [hfn]
  exact engineOnce_form hc he (Bool.or_eq_false_iff.mpr ⟨hc.uB, hc.uC⟩) hodd

/-- GRANT adds credits to an open channel, at most 1024 in all, and sends them (R325). -/
theorem bodyWbay_grant {k : Nat} (hk : (uC x).1 % 2 ^ 32 = k) (hfn : x.r.fn = 1) (ht : targetOk w = true) (hpos : 1 ≤ k) (hmax : k ≤ 1024) :
    bodyWbay x =
      (if !bit (getPart x.s x.part).wchan (bits w 16 6) then ntResult x x.s 1
       else match bayOf x x.s (bits w 16 6) with
         | none => ntResult x x.s 2
         | some c =>
           if 1024 < c.total + k then ntResult x x.s 3
           else ntResult x (sendCredits x.part x.cls (bits w 0 9) (bits w 16 6) k false
             (modPart x.part (fun p => { p with chans := minsert (bits w 16 6) { c with total := c.total + k } p.chans }) x.s)) 0) := by
  subst hw hk
  have hodd : (!targetOk ((uB x).1 % 2 ^ 32) || false || ((uC x).1 % 2 ^ 32 == 0 || decide (1024 < (uC x).1 % 2 ^ 32))) = false := by
    rw [ht]; simp; omega
  unfold bodyWbay
  rw [hfn]
  exact engineOnce_form hc he (Bool.or_eq_false_iff.mpr ⟨hc.uB, hc.uC⟩) hodd

/-- CLOSE frees the bank of a channel without credits out and without wagons. -/
theorem bodyWbay_close (hfn : x.r.fn = 2) (hlt : w < 64) :
    bodyWbay x =
      (if !bit (getPart x.s x.part).wchan w then ntResult x x.s 1
       else match bayOf x x.s w with
         | none => ntResult x x.s 2
         | some c =>
           if c.total ≠ 0 ∨ !c.wagons.isEmpty then ntResult x x.s 4
           else ntResult x (modCore c.core (fun r => { r with banks := minsert c.bank { getBank r c.bank with intake := none } r.banks })
             (modPart x.part (fun p => { p with chans := merase w p.chans }) x.s)) 0) := by
  subst hw
  have hodd : (decide (64 ≤ (uB x).1 % 2 ^ 32) || false || false) = false := by simp; omega
  unfold bodyWbay
  rw [hfn]
  exact engineOnce_form hc he (Bool.or_eq_false_iff.mpr ⟨hc.uB, rfl⟩) hodd

/-- RETURN gives back every credit held for the target, and answers how many they were (R325). -/
theorem bodyWbay_return (hfn : x.r.fn = 3) (ht : targetOk w = true) :
    bodyWbay x =
      (let held := creditsOf (getPart x.s x.part) (bits w 0 9) (bits w 16 6)
       let s1 := modPart x.part (setCredits (bits w 0 9) (bits w 16 6) 0) x.s
       ntResult x (if held = 0 then s1 else sendCredits x.part x.cls (bits w 0 9) (bits w 16 6) held true s1) held) := by
  subst hw
  have hodd : (!targetOk ((uB x).1 % 2 ^ 32) || false || false) = false := by rw [ht]; rfl
  unfold bodyWbay
  rw [hfn]
  exact engineOnce_form hc he (Bool.or_eq_false_iff.mpr ⟨hc.uB, rfl⟩) hodd

/-- CREDIT answers how many credits are held for the target. -/
theorem bodyWbay_credit (hfn : x.r.fn = 4) (ht : targetOk w = true) :
    bodyWbay x = ntResult x x.s (creditsOf (getPart x.s x.part) (bits w 0 9) (bits w 16 6)) := by
  subst hw
  have hodd : (!targetOk ((uB x).1 % 2 ^ 32) || false || false) = false := by rw [ht]; rfl
  unfold bodyWbay
  rw [hfn]
  exact engineOnce_form hc he (Bool.or_eq_false_iff.mpr ⟨hc.uB, rfl⟩) hodd

/-- DEPTH answers how many wagons stand in the channel. -/
theorem bodyWbay_depth (hfn : x.r.fn = 5) (hlt : w < 64) :
    bodyWbay x = ntResult x x.s (((bayOf x x.s w).map (fun c => c.wagons.length)).getD 0) := by
  subst hw
  have hodd : (decide (64 ≤ (uB x).1 % 2 ^ 32) || false || false) = false := by simp; omega
  unfold bodyWbay
  rw [hfn]
  exact engineOnce_form hc he (Bool.or_eq_false_iff.mpr ⟨hc.uB, rfl⟩) hodd

end

end Sys2Proof.Machine

namespace Sys2Proof.Settled
open Sys2Proof.Machine

/-- Settles O34: WSEND and WRECV by what they leave, WBAY by its function and by how its channel stands. -/
theorem wagons : Obligations.Wagons := by
  intro i s x hx hg hc he
  obtain rfl := hx.st
  cases i
  case wsend f => exact fun ht => hx.endsWith hg (bodyWsend_targets hc he ht)
  case wrecv f => exact fun hlt => hx.endsWith hg (bodyWrecv_channel hc he rfl hlt)
  case wbay f =>
    refine ⟨fun hfn hlt hk => ?_, fun hfn ht hpos hmax => ?_, fun hfn hlt => ?_, fun hfn ht => ?_, fun hfn ht => ?_, fun hfn hlt => ?_⟩
    · have hopen := bodyWbay_open hc he rfl rfl hfn hlt hk
      refine ⟨fun hown => hx.endsResult hg (hopen.trans (if_pos (congrArg not hown))), fun hown hbay hmode hstate hfree => ?_⟩
      refine hx.endsResult hg (hopen.trans ?_)
      simp only [hown, hbay, hmode, hstate, hfree]
      rfl
    · have hgrant := bodyWbay_grant hc he rfl rfl hfn ht hpos hmax
      refine ⟨fun hown => hx.endsResult hg (hgrant.trans (if_pos (congrArg not hown))), fun hown hbay => ?_, fun c hbay => ?_⟩
      · rw [if_neg (by simpa using hown), hbay] at hgrant
        exact hx.endsResult hg hgrant
      · rw [if_neg (by rw [bayOf_owned hbay]; decide), hbay] at hgrant
        exact ⟨fun hover => hx.endsResult hg (hgrant.trans (if_pos hover)), fun hfit => hx.endsResult hg (hgrant.trans (if_neg (Nat.not_lt.mpr hfit)))⟩
    · have hclose := bodyWbay_close hc he rfl hfn hlt
      refine ⟨fun hown => hx.endsResult hg (hclose.trans (if_pos (congrArg not hown))), fun hown hbay => ?_, fun c hbay => ?_⟩
      · rw [if_neg (by simpa using hown), hbay] at hclose
        exact hx.endsResult hg hclose
      · rw [if_neg (by rw [bayOf_owned hbay]; decide), hbay] at hclose
        exact ⟨fun hbusy => hx.endsResult hg (hclose.trans (if_pos (by simpa using hbusy))),
          fun htotal hempty => hx.endsResult hg (hclose.trans (if_neg (by simp [htotal, hempty])))⟩
    · exact hx.endsResult hg (bodyWbay_return hc he rfl hfn ht)
    · exact hx.endsResult hg (bodyWbay_credit hc he rfl hfn ht)
    · exact hx.endsResult hg (bodyWbay_depth hc he rfl hfn hlt)
  all_goals trivial

end Sys2Proof.Settled
end

section
namespace Sys2Proof.Machine

/-! Collectives and Landau jobs as they stand at issue (spec/19 R335 to R341). -/

section
variable {x : Ctx} (hc : Calm x) (he : enLanes x ≠ [])
include hc he

/-- COLL whose record is well formed and whose staging and object lie in pad leaves its operation (R341). -/
theorem bodyColl_fits {ws : List Nat} (hws : (recWords x x.r.b 4).1 = ws) {obj : Nat} (hobj : (uC x).1 % 2 ^ 32 = obj) (hmbz : (collRec ws).mbz = false)
    (hme : (collRec ws).me < (collRec ws).n) (halign : obj % 16 = 0) (hstage : padIn x.b ((collRec ws).stage : Int) 73728 = true)
    (hpad : padIn x.b (obj : Int) 16 = true) :
    bodyColl x = .ok (pump (addOp x.s (opOf x .nt (.coll (x.r.a - 936) x.r.fn obj ws [] [] [])))) {} := by
  have hodd : ¬ ((collRec ws).n ≤ (collRec ws).me ∨ obj % 16 ≠ 0) := by omega
  simp only [bodyColl, recWords_clean hc, hc.uC, hws, hobj, Bool.or_self, engineOnce_calm hc he, hmbz, hstage, hpad, if_neg hodd, Bool.not_true,
    Bool.false_eq_true, if_false]

/-- CMPJ that has read its record queues its job, or answers the first reason of R336 why it does not. -/
theorem bodyCmpj_read {v : Nat} {u : State} (hread : readAtIssue x .nt (uB x).1 64 = (.ok v, u)) :
    bodyCmpj x =
      (let p := getPart u x.part
       if 64 ≤ (openJobs p).length then ntResult x u (2 ^ 31 + 1)
       else match recRefused (jobRec v) (uB x).1 with
         | some c => ntResult x u (2 ^ 31 + c)
         | none =>
           if (jobRec v).ports &&& u.fab.ethUp = 0 then ntResult x u (2 ^ 31 + 5)
           else if !landauEn u x.part then ntResult x u (2 ^ 31 + 6)
           else
             let j : Job := { handle := p.nextHandle, gid := x.g.gid, oid := u.nextOp, pc := x.pc, record := v, watch := bufLines x (jobRec v) u }
             let s1 := setPart x.part { p with nextHandle := (p.nextHandle + 1) % 2 ^ 16
                                               jobs := p.jobs.filter (fun e => e.handle != p.nextHandle) ++ [j] } u
             .ok (pump (addOp (modGroup x.g.gid (fun g => writeDst x g x.r.d 1 0 p.nextHandle false) s1) (opOf x .nt (.job x.part p.nextHandle)))) {}) := by
  have hB : srcB x x.lo = uB x := rfl
  simp only [bodyCmpj, hB, hc.uB, engineOnce_calm hc he, hread] <;> rfl

/-- CMPQ of a handle that names no job. -/
theorem bodyCmpq_none (hj : getJob x.s x.part ((uB x).1 % 2 ^ 16) = none) : bodyCmpq x = ntResult x x.s 0xFFFFFFFF := by
  simp only [bodyCmpq, hc.uB, engineOnce_calm hc he, hj]

/-- CMPQ answers its job's state; CANCEL ends a job that is queued and marks one that runs (R340). -/
theorem bodyCmpq_job {j : Job} (hj : getJob x.s x.part ((uB x).1 % 2 ^ 16) = some j) :
    bodyCmpq x = ntResult x (if x.r.fn = 0 then x.s
      else if j.phase = 0 then (match findOp x.s j.oid with | some o => endJob o j 5 x.s | none => x.s)
      else if j.running then modJob x.part j.handle (fun j => { j with cancel := true }) x.s
      else x.s) (jobState j) := by
  simp only [bodyCmpq, hc.uB, engineOnce_calm hc he, hj] <;> rfl

end

end Sys2Proof.Machine

namespace Sys2Proof.Settled
open Sys2Proof.Machine

/-- Settles O35: COLL by what it leaves, CMPJ by the first reason to refuse its record, CMPQ by its job's phase. -/
theorem collectivesAndJobs : Obligations.CollectivesAndJobs := by
  intro i s x hx hg hc he
  obtain rfl := hx.st
  cases i
  case coll f => exact fun hmbz hme halign hstage hpad => hx.endsWith hg (bodyColl_fits hc he rfl rfl hmbz hme halign hstage hpad)
  case cmpj f =>
    refine fun v u hread => ?_
    have hbody := bodyCmpj_read hc he hread
    refine ⟨fun hfull => hx.endsResult hg (hbody.trans (if_pos hfull)), fun hroom c hrec => ?_, fun hroom hrec => ?_⟩
    · refine hx.endsResult hg (hbody.trans ((if_neg (Nat.not_le.mpr hroom)).trans ?_))
      rw [hrec]
    · have hjob := hbody.trans (if_neg (Nat.not_le.mpr hroom))
      rw [hrec] at hjob
      refine ⟨fun hport => hx.endsResult hg (hjob.trans (if_pos hport)), fun hport hoff => ?_, fun hport hon => ?_⟩
      · exact hx.endsResult hg (hjob.trans ((if_neg hport).trans (if_pos (congrArg not hoff))))
      · exact hx.endsWith hg (hjob.trans ((if_neg hport).trans (if_neg (by rw [hon]; decide))))
  case cmpq f =>
    refine ⟨fun hj => hx.endsResult hg (bodyCmpq_none hc he hj), fun j hj => ?_⟩
    have hbody := bodyCmpq_job hc he hj
    refine ⟨fun hfn => ?_, fun hfn hphase o ho => ?_, fun hfn hphase hrun => ?_, fun hfn hphase hrun => ?_⟩
    · rw [if_pos hfn] at hbody
      exact hx.endsResult hg hbody
    · rw [if_neg hfn, if_pos hphase, ho] at hbody
      exact hx.endsResult hg hbody
    · rw [if_neg hfn, if_neg hphase, if_pos hrun] at hbody
      exact hx.endsResult hg hbody
    · rw [if_neg hfn, if_neg hphase, if_neg (by simp [hrun])] at hbody
      exact hx.endsResult hg hbody
  all_goals trivial

end Sys2Proof.Settled
end

section
namespace Sys2Proof.Machine

/-! Every step keeps the canonical form of memory (log 4). Memory is written only byte by byte (`memPut`), by the fill of a dump
(`memFill`), by the move of a frame (`shiftFrame`) and by removing what passes a test, and each of these keeps the form (Laws/Mem). The
rest composes them. There is one lemma for each function of the model that answers a state, in the order of the model's files: `f_mem`
where `f` leaves memory as it was, `f_wf` where it may write and keeps the form. A proof splits its function's branches and cites the
lemmas of the functions that it calls, so that no function is unfolded twice. -/

/-- A list of steps keeps the form where each step does. -/
theorem foldl_wf {α : Type} {f : State → α → State} (hf : ∀ t a, Memory.wf t.mem → Memory.wf (f t a).mem) (as : List α) {s : State}
    (h : Memory.wf s.mem) : Memory.wf (as.foldl f s).mem :=
  List.foldlRecOn (motive := fun t => Memory.wf t.mem) as f h (fun t ht a _ => hf t a ht)

/-- The same for steps that gather a result beside the state. -/
theorem foldl_snd_wf {α β : Type} {f : β × State → α → β × State} (hf : ∀ q a, Memory.wf q.2.mem → Memory.wf (f q a).2.mem) (as : List α)
    {q : β × State} (h : Memory.wf q.2.mem) : Memory.wf (as.foldl f q).2.mem :=
  List.foldlRecOn (motive := fun q => Memory.wf q.2.mem) as f h (fun q hq a _ => hf q a hq)

theorem foldl_mem {α : Type} {f : State → α → State} (hf : ∀ t a, (f t a).mem = t.mem) (as : List α) (s : State) : (as.foldl f s).mem = s.mem :=
  List.foldlRecOn (motive := fun t => t.mem = s.mem) as f rfl (fun t ht a _ => (hf t a).trans ht)

theorem foldl_snd_mem {α β : Type} {f : β × State → α → β × State} (hf : ∀ q a, (f q a).2.mem = q.2.mem) (as : List α) (q : β × State) :
    (as.foldl f q).2.mem = q.2.mem :=
  List.foldlRecOn (motive := fun r => r.2.mem = q.2.mem) as f rfl (fun r hr a _ => (hf r a).trans hr)

theorem ite_wf {c : Prop} [Decidable c] {s t : State} (hs : Memory.wf s.mem) (ht : Memory.wf t.mem) : Memory.wf (if c then s else t).mem := by
  split
  · exact hs
  · exact ht

theorem ite_mem {c : Prop} [Decidable c] {s t u : State} (hs : s.mem = u.mem) (ht : t.mem = u.mem) : (if c then s else t).mem = u.mem := by
  split
  · exact hs
  · exact ht

theorem getD_wf {r : Option State} {s : State} (h : Memory.wf s.mem) (hr : ∀ t, r = some t → Memory.wf t.mem) : Memory.wf (r.getD s).mem := by
  cases r with
  | none => exact h
  | some t => exact hr t rfl

/-- The state that an instruction's own effect answers, if it answers one, has its memory in canonical form. -/
def Res.wf : Res → Prop
  | .ok s _ | .trapIn s _ => Memory.wf s.mem
  | .trap _ | .hold | .park => True

theorem rasLog_wf {kind sev : Nat} {part : Option Nat} {unit addr : Nat} {s : State} (h : Memory.wf s.mem) :
    Memory.wf (rasLog kind sev part unit addr s).mem := (rasLog_report kind sev part unit addr s).form h

/-! ### The functions of Machine/Ops.lean -/

@[simp] theorem partIrq_mem (p bitNo : Nat) (s : State) : (partIrq p bitNo s).mem = s.mem := by
  simp only [partIrq, raiseIrq_mem]
  exact foldl_mem (fun _ _ => by rfl) _ _

theorem softError_wf {s : State} {kind : Nat} {part : Option Nat} {unit addr : Nat} (h : Memory.wf s.mem) :
    Memory.wf (softError s kind part unit addr).mem := (softError_report s kind part unit addr).form h

theorem writeDump_wf {cause partMask : Nat} {s : State} (h : Memory.wf s.mem) : Memory.wf (writeDump cause partMask s).mem :=
  ite_wf h (memFill_wf _ _ _ h)

theorem fatalOf_wf {kind p unit addr : Nat} {s : State} (h : Memory.wf s.mem) : Memory.wf (fatalOf kind p unit addr s).mem := by
  unfold fatalOf
  grind [rasLog_wf, writeDump_wf, partIrq_mem, modPart_mem]

theorem partFatal_wf {p core : Nat} {s : State} (h : Memory.wf s.mem) : Memory.wf (partFatal p core s).mem := fatalOf_wf h

theorem takeTrap_wf {s : State} {g : Group} {pc : Nat} {t : TrapInfo} (h : Memory.wf s.mem) : Memory.wf (takeTrap s g pc t).mem :=
  ite_wf (partFatal_wf h) h

/-! ### The functions of Machine/Line.lean -/

theorem lineError_wf {s : State} {part : Option Nat} {pa : Nat} (h : Memory.wf s.mem) : Memory.wf (lineError part pa s).mem :=
  (lineError_fetch part pa s).form h

theorem takeRegion_wf {r : Nat} {s : State} (h : Memory.wf s.mem) : Memory.wf (takeRegion r s).mem := (takeRegion_only r s).form h

theorem poolNote_wf {s : State} {pa : Nat} (h : Memory.wf s.mem) : Memory.wf (poolNote s pa).mem := (poolNote_only s pa).form h

@[simp] theorem retag_mem (s : State) (line : Nat) (cmp : Bool) : (retag s line cmp).mem = s.mem := by
  unfold retag
  split <;> rfl

theorem claimHalf_wf {s : State} {pa n : Nat} (h : Memory.wf s.mem) : Memory.wf (claimHalf s pa n).mem := (claimHalf_only s pa n).form h

@[simp] theorem setDir_mem (s : State) (line : Nat) (d : DirEnt) : (setDir s line d).mem = s.mem := rfl

theorem l1Lost_wf {s : State} {line : Nat} (h : Memory.wf s.mem) : Memory.wf (l1Lost s line).mem := by
  unfold l1Lost
  grind [softError_wf]

theorem recallOwner_wf {s : State} {line : Nat} {core : Option Nat} (h : Memory.wf s.mem) : Memory.wf (recallOwner s line core).mem :=
  (recallOwner_only s line core).form h

theorem l2Mend_wf {s : State} {line : Nat} (h : Memory.wf s.mem) : Memory.wf (l2Mend s line).mem := by
  unfold l2Mend
  split
  · exact h
  · exact rasLog_wf h

theorem homeRead_wf {s : State} {pa n : Nat} (h : Memory.wf s.mem) : Memory.wf (homeRead s pa n).2.mem := (homeRead_only s pa n).form h

theorem homeWrite_wf {s : State} {part : Option Nat} {pa : Nat} {bs : List Nat} {cmp whole : Bool} (h : Memory.wf s.mem) :
    Memory.wf (homeWrite s part pa bs cmp whole).mem := by
  unfold homeWrite
  extract_lets s1
  have h1 : Memory.wf s1.mem := claimHalf_wf h
  refine ite_wf (lineError_wf h1) ?_
  rw [retag_mem]
  exact foldl_wf (fun _ _ => memPut_wf _ _ _) _ h1

@[simp] theorem drainQueues_mem (cls : Nat) (s : State) : (drainQueues cls s).mem = s.mem := by
  unfold drainQueues
  exact foldl_mem (fun _ _ => by rfl) _ _

@[simp] theorem queuePackets_mem (ps : List Packet) (s : State) : (queuePackets ps s).mem = s.mem := by
  unfold queuePackets
  grind [foldl_mem, drainQueues_mem]

@[simp] theorem errCount_mem (field n : Nat) (s : State) : (errCount field n s).mem = s.mem := rfl

/-! ### The functions of Machine/Xlate.lean -/

@[simp] theorem peerRead_mem (s : State) (part pa n : Nat) : (peerRead s part pa n).2.mem = s.mem := by
  unfold peerRead
  grind [queuePackets_mem]

theorem walk_wf {s : State} {part va : Nat} (h : Memory.wf s.mem) : Memory.wf (walk s part va).2.mem := (walk_only s part va).form h

theorem xlatePiece_wf {s : State} {core part : Nat} {service : Bool} {need : Need} {mc : Bool} {va n off : Nat} (h : Memory.wf s.mem) :
    Memory.wf (xlatePiece s core part service need mc va n off).2.mem := (xlatePiece_only s core part service need mc va n off).form h

theorem xlateVa_wf {s : State} {core part : Nat} {service : Bool} {need : Need} {mc : Bool} {va n : Nat} (h : Memory.wf s.mem) :
    Memory.wf (xlateVa s core part service need mc va n).2.mem := (xlateVa_only s core part service need mc va n).form h

theorem xlateX_wf {s : State} {core part : Nat} {service : Bool} {need : Need} {mc : Bool} {xr : XReg} {o : Int} {n : Nat} (h : Memory.wf s.mem) :
    Memory.wf (xlateX s core part service need mc xr o n).2.mem := (xlateX_only s core part service need mc xr o n).form h

theorem fetchBytes_wf {n : Nat} {s : State} {g : Group} {va : Nat} (h : Memory.wf s.mem) : Memory.wf (fetchBytes n s g va).2.mem :=
  (fetchBytes_only n s g va).form h

/-! ### The functions of Machine/Operands.lean -/

theorem trapAll_wf {x : Ctx} {c : Cause} : (trapAll x c).wf := trivial

theorem trapLanes_wf {c : Cause} {ls : List Nat} : (trapLanes c ls).wf := trivial

@[simp] theorem slotTick_mem (g : Group) (n : Nat) (s : State) : (slotTick g n s).mem = s.mem := rfl

@[simp] theorem idleTick_mem (s : State) : (idleTick s).mem = s.mem := rfl

theorem recapture_wf {s : State} {gid : Nat} (h : Memory.wf s.mem) : Memory.wf (recapture s gid).mem := by
  unfold recapture
  grind [setGroup_mem]

theorem laneOp_wf {x : Ctx} {n : Nat} {sr : Bool} {f : Nat → Nat × Bool} (h : Memory.wf x.s.mem) : (laneOp x n sr f).wf := h

theorem finishIssue_wf {x : Ctx} {s : State} {o : Out} (h : Memory.wf s.mem) : Memory.wf (finishIssue x s o).mem := by
  unfold finishIssue
  grind [slotTick_mem, setGroup_mem, recapture_wf]

theorem trapNow_wf {x : Ctx} {t : TrapInfo} (h : Memory.wf x.s.mem) : Memory.wf (trapNow x t).mem := takeTrap_wf h

theorem settleRes_wf {x : Ctx} {res : Res} (h : res.wf) : (settleRes x res).wf := by
  unfold settleRes
  grind [Res.wf]

/-! ### The functions of Machine/Int.lean -/

theorem intLane_wf {n : Nat} {f : Ctx → Nat → Nat → Nat → Nat} {x : Ctx} (h : Memory.wf x.s.mem) : (intLane n f x).wf := laneOp_wf h

theorem bodyMov_wf {x : Ctx} (h : Memory.wf x.s.mem) : (bodyMov x).wf := by
  unfold bodyMov
  grind [Res.wf, trapLanes_wf, setGroup_mem, intLane_wf]

/-! ### The functions of Machine/Home.lean -/

@[simp] theorem poolMark_mem (s : State) (gid pa : Nat) : (poolMark s gid pa).mem = s.mem := by
  unfold poolMark
  grind

@[simp] theorem poolClean_mem (s : State) (gid : Nat) : (poolClean s gid).mem = s.mem := rfl

theorem giveBack_wf {s : State} {line core : Nat} (h : Memory.wf s.mem) : Memory.wf (giveBack s line core).mem := ite_wf (l1Lost_wf h) h

theorem l1Leave_wf {s : State} {p : Nat → Nat → L1Line → Bool} (h : Memory.wf s.mem) : Memory.wf (l1Leave s p).mem :=
  foldl_wf (fun _ _ => giveBack_wf) _ h

theorem l1Place_wf {s : State} {core line : Nat} (h : Memory.wf s.mem) : Memory.wf (l1Place s core line).2.mem := by
  unfold l1Place
  grind [l1Leave_wf]

theorem l1Mend_wf {s : State} {core line : Nat} (h : Memory.wf s.mem) : Memory.wf (l1Mend s core line).mem := by
  unfold l1Mend
  grind [rasLog_wf]

theorem l1Fill_wf {s0 : State} {core line mask : Nat} (h : Memory.wf s0.mem) : Memory.wf (l1Fill s0 core line mask).mem := by
  unfold l1Fill
  grind [l1Mend_wf, l1Place_wf]

@[simp] theorem l1Apply_mem (s : State) (u : Upd) : (l1Apply s u).mem = s.mem := rfl

@[simp] theorem l1Drop_mem (s : State) (line : Nat) (p : Nat → Bool) : (l1Drop s line p).mem = s.mem := rfl

@[simp] theorem sendUpdates_mem (s : State) (oid pa : Nat) (bs : List Nat) : (sendUpdates s oid pa bs).mem = s.mem := rfl

theorem takeOwner_wf {s0 : State} {line core : Nat} {noal : Bool} (h : Memory.wf s0.mem) : Memory.wf (takeOwner s0 line core noal).mem := by
  unfold takeOwner
  grind [l1Lost_wf, recallOwner_wf, l1Drop_mem, setDir_mem, l1Fill_wf]

theorem recallFor_wf {s : State} {line : Nat} (h : Memory.wf s.mem) : Memory.wf (recallFor s line).mem := by
  unfold recallFor
  split
  · exact recallOwner_wf h
  · exact h

theorem drayLine_wf {s : State} {pa v : Nat} (h : Memory.wf s.mem) : Memory.wf (drayLine s pa v).mem := by
  unfold drayLine
  grind [retag_mem, memSet_wf, l1Drop_mem, recallOwner_wf, claimHalf_wf]

theorem drayTag_wf {s : State} {key : Nat} (h : Memory.wf s.mem) : Memory.wf (drayTag s key).mem := drayLine_wf h

theorem drayFrame_wf {s : State} {key : Nat} {f : DrayFrame} (h : Memory.wf s.mem) : Memory.wf (drayFrame s key f).mem := ite_wf (drayTag_wf h) h

@[simp] theorem drayPick_mem (s : State) (part page : Nat) : (drayPick s part page).2.mem = s.mem := by
  unfold drayPick
  grind

theorem drayPut_wf {s : State} {part line v : Nat} (h : Memory.wf s.mem) : Memory.wf (drayPut s part line v).mem := by
  unfold drayPut
  grind [drayPick_mem, drayLine_wf, drayFrame_wf]

theorem drayClear_wf {s : State} {p : Nat → Nat → Bool} (h : Memory.wf s.mem) : Memory.wf (drayClear s p).mem := by
  refine foldl_wf (fun t e ht => ?_) _ h
  dsimp only
  split
  · exact ht
  · exact drayFrame_wf ht

theorem drayDrop_wf {s : State} {part line : Nat} (h : Memory.wf s.mem) : Memory.wf (drayDrop s part line).mem :=
  foldl_wf (fun _ _ => drayFrame_wf) _ h

theorem drayWrite_wf {s : State} {part pa : Nat} {bs : List Nat} (h : Memory.wf s.mem) : Memory.wf (drayWrite s part pa bs).mem :=
  foldl_wf (fun _ _ ht => memSet_wf _ _ _ _ ht) _ h

@[simp] theorem publishOwn_mem (s : State) (oid core pa : Nat) (bs : List Nat) : (publishOwn s oid core pa bs).mem = s.mem := by
  unfold publishOwn
  dsimp only
  split <;> rfl

/-! ### The functions of Machine/Past.lean -/

@[simp] theorem carry_mem (s : State) (rmw : Bool) (ts : List Tok) (ks : List Nat) : (carry s rmw ts ks).mem = s.mem := by
  unfold carry
  split <;> rfl

@[simp] theorem readAsOne_mem (s : State) (o : Op) (lanes : List Nat) (ks : List (Nat × Nat)) : (readAsOne s o lanes ks).2.mem = s.mem := by
  unfold readAsOne
  dsimp only
  split <;> rfl

@[simp] theorem readPast_mem (s : State) (o : Op) (lanes : List Nat) (whole : Bool) (ks : List (Nat × Nat)) :
    (readPast s o lanes whole ks).2.mem = s.mem := by
  unfold readPast
  grind [foldl_snd_mem, readAsOne_mem]

@[simp] theorem readOver_mem (s : State) (o : Op) (lanes : List Nat) (whole : Bool) (pa n v : Nat) :
    (readOver s o lanes whole pa n v).2.mem = s.mem := by
  unfold readOver
  grind [readPast_mem]

@[simp] theorem notePast_mem (s : State) (o : Op) (lane : Nat) (un : Bool) (ks : List (Nat × Nat)) : (notePast s o lane un ks).mem = s.mem := rfl

@[simp] theorem releasePast_mem (s : State) (gid : Nat) (tok : Option Tok) (p : Past → Bool) : (releasePast s gid tok p).mem = s.mem := rfl

@[simp] theorem acquired_mem (s : State) (gid scope : Nat) (ts : List Tok) : (acquired s gid scope ts).mem = s.mem := by
  unfold acquired
  dsimp only
  split <;> rfl

@[simp] theorem meet_mem (s : State) (o : Op) (ts : List Tok) : (meet s o ts).mem = s.mem := by
  unfold meet
  grind [acquired_mem]

theorem homePieces_wf {o : Op} {va : Nat} {ps : List Piece} {s : State} (h : Memory.wf s.mem) : Memory.wf (homePieces o va ps s).2.mem := by
  unfold homePieces
  grind [foldl_snd_wf, peerRead_mem, homeRead_wf, recallOwner_wf, readOver_mem, lineError_wf]

@[simp] theorem xfenceMark_mem (p q : Nat) (s : State) (g : Group) : (xfenceMark p q s g).mem = s.mem := rfl

/-! ### The functions of Machine/Order.lean -/

@[simp] theorem addOp_mem (s : State) (o : Op) : (addOp s o).mem = s.mem := by
  unfold addOp
  split <;> rfl

@[simp] theorem releaseDone_mem (s : State) (gid seq born scope : Nat) : (releaseDone s gid seq born scope).mem = s.mem := by
  unfold releaseDone
  split <;> rfl

@[simp] theorem opRelease_mem (s : State) (o : Op) : (opRelease s o).mem = s.mem := by
  unfold opRelease
  grind [releaseDone_mem]

@[simp] theorem fenceRelease_mem (s : State) (o : Op) : (fenceRelease s o).mem = s.mem := by
  unfold fenceRelease
  grind [releasePast_mem, modGroup_mem, opRelease_mem]

@[simp] theorem fenceAcquire_mem (s : State) (o : Op) : (fenceAcquire s o).mem = s.mem := by
  unfold fenceAcquire
  grind [acquired_mem]

@[simp] theorem fenceEnd_mem (s0 : State) (o : Op) : (fenceEnd s0 o).mem = s0.mem := by
  unfold fenceEnd
  grind [fenceAcquire_mem, fenceRelease_mem, modGroup_mem]

@[simp] theorem endFences_mem (fuel : Nat) (s : State) : (endFences fuel s).mem = s.mem := by
  induction fuel generalizing s with
  | zero => rfl
  | succ fuel ih =>
    unfold endFences
    grind [fenceEnd_mem]

@[simp] theorem fallOps_mem (fuel : Nat) (s : State) : (fallOps fuel s).mem = s.mem := by
  induction fuel generalizing s with
  | zero => rfl
  | succ fuel ih =>
    unfold fallOps
    grind [modGroup_mem]

@[simp] theorem trimFences_mem (s : State) : (trimFences s).mem = s.mem := rfl

@[simp] theorem sweepOps_mem (s : State) : (sweepOps s).mem = s.mem := by
  unfold sweepOps
  grind [fallOps_mem, trimFences_mem, endFences_mem]

@[simp] theorem tellFences_mem (s : State) (o : Op) : (tellFences s o).mem = s.mem := by
  unfold tellFences
  split <;> rfl

@[simp] theorem endOp_mem (oid : Nat) (s : State) : (endOp oid s).mem = s.mem := by
  unfold endOp
  grind [sweepOps_mem, modOp_mem, tellFences_mem]

theorem ownPoison_wf {s : State} {o : Op} {lane fkind addr : Nat} {noRepl : Bool} {keep : List Nat} (h : Memory.wf s.mem) :
    Memory.wf (ownPoison s o lane fkind addr noRepl keep).mem := ite_wf (partFatal_wf h) h

@[simp] theorem landReg_mem (gid code n lane val : Nat) (p : Bool) (s : State) : (landReg gid code n lane val p s).mem = s.mem := rfl

theorem trigNote_wf {s : State} {bid : Nat} (h : Memory.wf s.mem) : Memory.wf (trigNote bid s).mem := (trigNote_only bid s).form h

@[simp] theorem stageTouch_mem (bid off n : Nat) (s : State) : (stageTouch bid off n s).mem = s.mem := rfl

@[simp] theorem padTouch_mem (s : State) (o : Op) (k : Nat) : (padTouch s o k).mem = s.mem := by
  unfold padTouch
  grind [stageTouch_mem]

theorem padDone_wf {s t : State} {o : Op} {lane : Nat} {rmw : Bool} {rs : List (Nat × Nat)} (h : Memory.wf t.mem) :
    Memory.wf (padDone s t o lane rmw rs).mem := (padDone_only s t o lane rmw rs).form h

@[simp] theorem noteWrite_mem (s0 s : State) (o : Op) (lane : Nat) (un rmw : Bool) (pa : Nat) (bs : List Nat) :
    (noteWrite s0 s o lane un rmw pa bs).mem = s.mem := by
  rw [noteWrite_only rfl]

/-! ### The functions of Machine/Scene.lean -/

theorem readFor_wf {s : State} {o : Op} {va : Nat} {p : Piece} (h : Memory.wf s.mem) : Memory.wf (readFor s o va p).2.mem := by
  unfold readFor
  grind [foldl_snd_wf, homeRead_wf, recallOwner_wf, readOver_mem, lineError_wf]

theorem readPieces_wf {s : State} {o : Op} {va : Nat} {ps : List Piece} (h : Memory.wf s.mem) : Memory.wf (readPieces s o va ps).2.mem := by
  unfold readPieces
  grind [foldl_snd_wf, readFor_wf]

theorem readWith_wf {note : List Piece → Op → Op} {s : State} {o : Op} {va n : Nat} (h : Memory.wf s.mem) :
    Memory.wf (readWith note s o va n).2.mem := by
  unfold readWith
  grind [xlateVa_wf, readPieces_wf, modOp_mem]

theorem readVa_wf {s : State} {o : Op} {va n : Nat} (h : Memory.wf s.mem) : Memory.wf (readVa s o va n).2.mem := readWith_wf h

theorem readRec_wf {s : State} {o : Op} {va n : Nat} (h : Memory.wf s.mem) : Memory.wf (readRec s o va n).2.mem := readWith_wf h

theorem leafHits_wf {o : Op} {r : Ray} {base : Nat} (ks : List Nat) {cs : List Cand} {s : State} (h : Memory.wf s.mem) :
    Memory.wf (leafHits o r base ks cs s).2.mem := by
  induction ks generalizing cs s with
  | nil => exact h
  | cons k ks ih =>
    unfold leafHits
    grind [readRec_wf]

theorem childHits_wf {o : Op} {r : Ray} {org : V3} {at_ nd c : Nat} {inner : Nat → List Cand → State → Found} {cs : List Cand} {s : State}
    (hi : ∀ a cs s, Memory.wf s.mem → Memory.wf (inner a cs s).2.mem) (h : Memory.wf s.mem) :
    Memory.wf (childHits o r org at_ nd c inner cs s).2.mem := by
  unfold childHits
  grind [leafHits_wf, readRec_wf]

theorem nodeHits_wf {o : Op} {r : Ray} (fuel : Nat) {a : Nat} {cs : List Cand} {s : State} (h : Memory.wf s.mem) :
    Memory.wf (nodeHits o r fuel a cs s).2.mem := by
  induction fuel generalizing a cs s with
  | zero => exact h
  | succ fuel ih =>
    have hq := readRec_wf (o := o) (va := a) (n := 128) h
    unfold nodeHits
    split
    · exact h
    · dsimp only
      split
      · exact hq
      · split
        · exact hq
        · split
          · exact hq
          · refine foldl_snd_wf (fun q c hq => ?_) _ hq
            split
            · exact hq
            · exact childHits_wf (fun _ _ _ => ih) hq

theorem traverse_wf {s : State} {o : Op} {fn root : Nat} {ws : List Nat} (h : Memory.wf s.mem) : Memory.wf (traverse s o fn root ws).2.mem := by
  have hf := fun r : Ray => nodeHits_wf (o := o) (r := r) 64 (a := root) (cs := []) h
  unfold traverse
  grind

theorem texels_wf {o : Op} {f : Surf} (ts : List ((Int × Int) × Nat)) {s : State} (h : Memory.wf s.mem) : Memory.wf (texels o f ts s).2.mem := by
  induction ts generalizing s with
  | nil => exact h
  | cons t ts ih =>
    unfold texels
    grind [readRec_wf]

theorem sample_wf {s : State} {o : Op} {f : Surf} {u v : Nat} (h : Memory.wf s.mem) : Memory.wf (sample s o f u v).2.mem := by
  unfold sample
  grind [texels_wf]

theorem renderLanes_wf {s : State} {o : Op} (h : Memory.wf s.mem) : Memory.wf (renderLanes s o).2.mem := by
  unfold renderLanes
  grind [foldl_snd_wf, traverse_wf, sample_wf]

/-! ### The functions of Machine/Engine.lean -/

theorem chunkLocs_wf {core : Nat} {o : Op} {mc : Bool} {va k : Nat} (ns : List Need) {s : State} (h : Memory.wf s.mem) :
    Memory.wf (chunkLocs core o mc va k ns s).2.mem := by
  induction ns generalizing s with
  | nil => exact h
  | cons n ns ih =>
    unfold chunkLocs
    grind [xlateVa_wf]

theorem endsLocs_wf {core : Nat} {o : Op} {mc : Bool} {needs : List Need} {e : Ends} {s : State} (h : Memory.wf s.mem) :
    Memory.wf (endsLocs core o mc needs e s).2.mem := by
  unfold endsLocs
  grind [foldl_snd_wf, chunkLocs_wf]

theorem planOf_wf {s : State} {o : Op} (h : Memory.wf s.mem) : Memory.wf (planOf s o).2.mem := by
  unfold planOf
  grind [foldl_snd_wf, endsLocs_wf]

@[simp] theorem copyWrites_mem (s : State) (o : Op) (b : Block) (pl : Plan) : (copyWrites s o b pl).2.mem = s.mem := by
  unfold copyWrites
  grind

theorem claimLocs_wf {s : State} {ls : List Loc} (h : Memory.wf s.mem) : Memory.wf (claimLocs s ls).mem := by
  unfold claimLocs
  grind [foldl_wf, recallOwner_wf, claimHalf_wf]

theorem lineWrite_wf {s : State} {part line : Nat} {bs : List (Nat × Nat)} {cmp : Bool} (h : Memory.wf s.mem) :
    Memory.wf (lineWrite s part line bs cmp).mem := by
  unfold lineWrite
  extract_lets whole s1 s2 s3
  have h1 : Memory.wf s1.mem := recallOwner_wf (foldl_wf (fun _ _ => claimHalf_wf) _ h)
  have h2 : Memory.wf s2.mem := foldl_wf (fun _ _ => memPut_wf _ _ _) _ h1
  have h3 : Memory.wf s3.mem := by rw [retag_mem]; exact h2
  refine ite_wf (lineError_wf h1) ?_
  rw [forgetPast_mem]
  exact foldl_wf (fun _ _ => drayWrite_wf) _ h3

@[simp] theorem noteLocs_mem (s t : State) (o : Op) (b : Block) (un : Bool) (ws : Writes) : (noteLocs s t o b un ws).mem = t.mem := by
  unfold noteLocs
  grind [notePast_mem]

theorem writeLocs_wf {s : State} {o : Op} {rmw : Bool} {ws : Writes} (h : Memory.wf s.mem) : Memory.wf (writeLocs s o rmw ws).mem := by
  unfold writeLocs
  grind [foldl_wf, modBlock_mem, poolMark_mem, lineWrite_wf, noteLocs_mem, trigNote_wf, carry_mem]

@[simp] theorem viewOf_mem (s : State) (o : Op) (b : Block) (ls : List Loc) : (viewOf s o b ls).2.2.mem = s.mem := by
  unfold viewOf
  split
  · rfl
  · extract_lets us r
    refine List.foldlRecOn (motive := fun q : Op × Block × State => q.2.2.mem = s.mem) _ _ (readPast_mem ..) (fun q hq e _ => ?_)
    dsimp only
    split <;> exact hq

@[simp] theorem padView_mem (s : State) (o : Op) (b : Block) (rs : List (Nat × Nat)) : (padView s o b rs).2.mem = s.mem := by
  unfold padView
  grind [viewOf_mem]

theorem stepReady_wf {s : State} {o : Op} {dst : List Loc} (h : Memory.wf s.mem) : Memory.wf (stepReady s o dst).mem := by
  unfold stepReady
  grind [takeOwner_wf, claimHalf_wf, claimLocs_wf]

theorem stepInto_wf {s : State} {o : Op} {ws : Writes} (h : Memory.wf s.mem) : Memory.wf (stepInto s o ws).mem := by
  unfold stepInto
  grind [publishOwn_mem, poolMark_mem, homeWrite_wf, drayDrop_wf, setDir_mem, noteWrite_mem, writeLocs_wf]

theorem reduceStep_wf {s0 : State} {b0 : Block} {o : Op} {s : State} {e : List Loc × List Loc} (h : Memory.wf s.mem) :
    Memory.wf (reduceStep s0 b0 o s e).mem := by
  unfold reduceStep
  grind [stepReady_wf, stepInto_wf]

@[simp] theorem oneOfEach_mem (s : State) (ws : Writes) : (oneOfEach s ws).2.mem = s.mem := by
  unfold oneOfEach
  dsimp only
  split <;> rfl

theorem xposeAll_wf {s : State} {o : Op} {b : Block} {d : Desc} {f : FmtBlk} {src : List Loc} {ok : Loc → Bool} (h : Memory.wf s.mem) :
    Memory.wf (xposeAll s o b d f src ok).2.mem := by
  unfold xposeAll
  grind [foldl_wf, softError_wf, oneOfEach_mem]

@[simp] theorem keepSome_mem (s : State) (ws : Writes) : (keepSome s ws).2.mem = s.mem := rfl

@[simp] theorem recordFault_mem (o : Op) (f : XFault) (s : State) : (recordFault o f s).mem = s.mem := rfl

theorem reportAt_wf {o : Op} {s : State} {l : Option Loc} (h : Memory.wf s.mem) : Memory.wf (reportAt o s l).mem := by
  unfold reportAt
  grind [softError_wf, lineError_wf]

theorem endFaulted_wf {o : Op} {t : Trouble} {s : State} (h : Memory.wf s.mem) : Memory.wf (endFaulted o t s).mem := by
  simpa [endFaulted] using reportAt_wf h

@[simp] theorem doneRelease_mem (scope : Nat) (o : Op) (s : State) : (doneRelease scope o s).1.mem = s.mem := rfl

theorem endHaul_wf {o : Op} {d : Desc} {s : State} (h : Memory.wf s.mem) : Memory.wf (endHaul o d s).mem := by
  unfold endHaul
  grind [endFaulted_wf, endOp_mem, doneRelease_mem, padDone_wf, setBlock_mem, carry_mem]

@[simp] theorem farWrites_mem (s : State) (o : Op) (b : Block) (pl : Plan) : (farWrites s o b pl).2.mem = s.mem := by
  unfold farWrites
  grind [copyWrites_mem]

theorem turnNext_wf {s : State} {o : Op} {b : Block} {pl : Plan} (h : Memory.wf s.mem) : Memory.wf (turnNext s o b pl).2.mem := by
  unfold turnNext
  grind [viewOf_mem, claimLocs_wf, farWrites_mem, writeLocs_wf, reduceStep_wf]

theorem farNext_wf {s : State} {o : Op} {b : Block} (h : Memory.wf s.mem) : Memory.wf (farNext s o b).2.mem := by
  unfold farNext
  grind [planOf_wf, turnNext_wf, viewOf_mem, claimLocs_wf, farWrites_mem]

theorem performPlan_wf {s : State} {o0 : Op} {b0 : Block} {whole : Plan} {faulted : Bool} (h : Memory.wf s.mem) :
    Memory.wf (performPlan s o0 b0 whole faulted).mem := by
  unfold performPlan
  grind [foldl_wf, viewOf_mem, claimLocs_wf, xposeAll_wf, keepSome_mem, writeLocs_wf, copyWrites_mem, reduceStep_wf]

/-! ### The functions of Machine/Landau.lean -/

@[simp] theorem modJob_mem (part handle : Nat) (f : Job → Job) (s : State) : (modJob part handle f s).mem = s.mem := rfl

theorem freeBytes_wf {o : Op} {va : Nat} (n : Nat) {s : State} (h : Memory.wf s.mem) : Memory.wf (freeBytes s o va n).mem := by
  induction n generalizing s with
  | zero => exact h
  | succ n ih =>
    unfold freeBytes
    grind [foldl_wf, xlateVa_wf, lineWrite_wf]

theorem writePiece_wf {s : State} {o : Op} {ts : List Tok} {p : Piece} {v : Nat} (h : Memory.wf s.mem) : Memory.wf (writePiece s o ts p v).mem := by
  simpa [writePiece] using lineWrite_wf h

theorem writeVa_wf {s : State} {o : Op} {ts : List Tok} {va n v : Nat} (h : Memory.wf s.mem) : Memory.wf (writeVa s o ts va n v).2.mem := by
  unfold writeVa
  grind [foldl_snd_wf, xlateVa_wf, writePiece_wf]

@[simp] theorem settlePid_mem (part : Nat) (s : State) : (settlePid part s).mem = s.mem := rfl

theorem freeLines_wf {o : Op} {r : JobRec} {rs : List (Nat × Nat)} {s : State} (h : Memory.wf s.mem) : Memory.wf (freeLines o r rs s).mem := by
  unfold freeLines
  grind [foldl_wf, freeBytes_wf]

@[simp] theorem doneFault_mem (o : Op) (j : Job) (f : XFault) (s : State) : (doneFault o j f s).mem = s.mem := by
  unfold doneFault
  grind [settlePid_mem, endOp_mem, recordFault_mem, modJob_mem]

theorem endJobNow_wf {o : Op} {j : Job} {err : Nat} {s : State} (h : Memory.wf s.mem) : Memory.wf (endJobNow o j err s).mem := by
  unfold endJobNow
  grind [freeBytes_wf, freeLines_wf, modJob_mem, doneRelease_mem, poolClean_mem, writeVa_wf, doneFault_mem, settlePid_mem, endOp_mem, modOp_mem]

theorem endJob_wf {o : Op} {j : Job} {err : Nat} {s : State} (h : Memory.wf s.mem) : Memory.wf (endJob o j err s).mem := ite_wf h (endJobNow_wf h)

theorem keptLine_wf {s : State} {o : Op} {j : Job} {line : Nat} (h : Memory.wf s.mem) : Memory.wf (keptLine s o j line).2.mem := by
  unfold keptLine
  grind [foldl_snd_wf, xlateVa_wf]

theorem scratchFault_wf {o : Op} {r : JobRec} {s : State} (h : Memory.wf s.mem) : Memory.wf (scratchFault o r s).2.mem := by
  unfold scratchFault
  grind [foldl_snd_wf, xlateVa_wf]

theorem readBuf_wf {o : Op} {r : JobRec} {s : State} (h : Memory.wf s.mem) : Memory.wf (readBuf o r s).2.mem := by
  unfold readBuf
  grind [foldl_snd_wf, readVa_wf]

theorem jobAdvance_wf {s : State} {o : Op} {j : Job} (h : Memory.wf s.mem) : Memory.wf (jobAdvance s o j).mem := by
  unfold jobAdvance
  grind [foldl_snd_wf, endJob_wf, readBuf_wf, modOp_mem, scratchFault_wf, modJob_mem, keptLine_wf, writeVa_wf, doneFault_mem, endOp_mem]

theorem jobRun_wf {oid : Nat} (fuel : Nat) {s : State} (h : Memory.wf s.mem) : Memory.wf (jobRun s oid fuel).mem := by
  induction fuel generalizing s with
  | zero => exact h
  | succ fuel ih =>
    unfold jobRun
    grind [jobAdvance_wf]

/-! ### The functions of Machine/Coll.lean -/

@[simp] theorem combineTree_mem (s : State) (o : Op) (b : Block) (t fn tree : Nat) (r : CollRec) (got : List (Nat × List Nat)) :
    (combineTree s o b t fn tree r got).2.mem = s.mem := by
  unfold combineTree
  split <;> rfl

theorem collAdvance_wf {s : State} {o : Op} {b : Block} (h : Memory.wf s.mem) : Memory.wf (collAdvance s o b).mem := by
  unfold collAdvance
  split
  · rename_i t fn obj ws ranks got up _
    split
    · exact h
    · extract_lets r
      split
      · grind [readVa_wf, modOp_mem]
      · split
        · exact h
        · exact foldl_wf (fun s tree hs => by grind [combineTree_mem, modOp_mem]) _ h
  · exact h

@[simp] theorem landWagon_mem (part chan wagon src : Nat) (ts : List Tok) (s : State) : (landWagon part chan wagon src ts s).mem = s.mem := rfl

@[simp] theorem creditArrives_mem (from_ chan n : Nat) (s : State) : (creditArrives from_ chan n s).mem = s.mem := by
  unfold creditArrives
  split <;> rfl

@[simp] theorem returnArrives_mem (chan k : Nat) (s : State) : (returnArrives chan k s).mem = s.mem := by
  unfold returnArrives
  split <;> rfl

@[simp] theorem sendCredits_mem (part cls pkg chan n : Nat) (back : Bool) (s : State) : (sendCredits part cls pkg chan n back s).mem = s.mem := by
  unfold sendCredits
  grind [returnArrives_mem, creditArrives_mem, queuePackets_mem]

theorem sendWagons_wf {s : State} {o : Op} {cls : Nat} (h : Memory.wf s.mem) : Memory.wf (sendWagons s o cls).mem := by
  unfold sendWagons
  grind [foldl_wf, modOp_mem, landWagon_mem, opRelease_mem, errCount_mem, queuePackets_mem]

/-! ### The functions of Machine/Fabric.lean -/

theorem haulStart_wf (fuel : Nat) {s : State} {oid : Nat} (h : Memory.wf s.mem) : Memory.wf (haulStart fuel s oid).mem := by
  induction fuel generalizing s with
  | zero => exact h
  | succ fuel ih =>
    unfold haulStart
    grind [farNext_wf, modOp_mem]

theorem engineStart_wf {s : State} {oid : Nat} (h : Memory.wf s.mem) : Memory.wf (engineStart s oid).mem := by
  unfold engineStart
  grind [haulStart_wf, modOp_mem, renderLanes_wf, collAdvance_wf, jobRun_wf, sendWagons_wf]

@[simp] theorem markParts_mem (oid : Nat) (t : AccSt) (ps : List (Nat × Nat)) (s : State) : (markParts oid t ps s).mem = s.mem := rfl

@[simp] theorem mcSettle_mem (tag : Nat) (s : State) : (mcSettle tag s).mem = s.mem := by
  unfold mcSettle
  grind [markParts_mem]

@[simp] theorem mcAnswer_mem (tag q span : Nat) (s : State) : (mcAnswer tag q span s).mem = s.mem := by
  unfold mcAnswer
  grind [mcSettle_mem]

theorem deviceWrite_wf {pa n v : Nat} {s : State} (h : Memory.wf s.mem) : Memory.wf (deviceWrite pa n v s).mem := lineWrite_wf h

theorem physWrite_wf {pa n v : Nat} {s : State} (h : Memory.wf s.mem) : Memory.wf (physWrite pa n v s).mem := by
  unfold physWrite
  split
  · exact deviceWrite_wf h
  · exact memSet_wf _ _ _ _ (recallOwner_wf (poolNote_wf h))
  · exact memSet_wf _ _ _ _ (recallOwner_wf (poolNote_wf h))
  · exact h

theorem shadowAdd_wf {e : TlbEnt} {s : State} (h : Memory.wf s.mem) : Memory.wf (shadowAdd e s).mem := by
  unfold shadowAdd
  grind [physWrite_wf]

theorem tlbEvict_wf {p : TlbEnt → Bool} {s : State} (h : Memory.wf s.mem) : Memory.wf (tlbEvict p s).mem := foldl_wf (fun _ _ => shadowAdd_wf) _ h

theorem nackLog_wf {group root span reason offset : Nat} {s : State} (h : Memory.wf s.mem) :
    Memory.wf (nackLog group root span reason offset s).mem := by
  unfold nackLog
  grind [errCount_mem, deviceWrite_wf]

theorem sendGroup_wf {s : State} {o : Op} {key line : Nat} {xs : List Send} (h : Memory.wf s.mem) : Memory.wf (sendGroup s o key line xs).mem := by
  unfold sendGroup
  grind [foldl_wf, queuePackets_mem, opRelease_mem, drayWrite_wf, drayDrop_wf, mcAnswer_mem, nackLog_wf, markParts_mem]

theorem pumpOp_wf {s : State} {oid : Nat} (h : Memory.wf s.mem) : Memory.wf (pumpOp s oid).mem := by
  unfold pumpOp
  grind [foldl_wf, sendGroup_wf]

theorem collTouch_wf {s : State} (h : Memory.wf s.mem) : Memory.wf (collTouch s).mem := by
  unfold collTouch
  grind [foldl_wf, stageTouch_mem]

theorem pump_wf {s : State} (h : Memory.wf s.mem) : Memory.wf (pump s).mem :=
  foldl_wf (fun _ _ ht => pumpOp_wf (engineStart_wf ht)) _ (collTouch_wf h)

/-! ### The functions of Machine/Lane.lean -/

theorem descCheck_wf {x : Ctx} {k : Nat → Res} (hk : ∀ d, (k d).wf) : (descCheck x k).wf := by
  unfold descCheck
  grind [trapLanes_wf]

theorem bodyQblk_wf {x : Ctx} (h : Memory.wf x.s.mem) : (bodyQblk x).wf := by
  unfold bodyQblk
  grind [Res.wf, descCheck_wf, setGroup_mem]

theorem bodyDqblk_wf {x : Ctx} (h : Memory.wf x.s.mem) : (bodyDqblk x).wf := by
  unfold bodyDqblk
  grind [Res.wf, descCheck_wf, laneOp_wf]

/-! ### The functions of Machine/Mem.lean -/

theorem xlateWhere_wf {x : Ctx} {s : State} {need : Need} {mc : Bool} {w : Where} {n : Nat} (h : Memory.wf s.mem) :
    Memory.wf (xlateWhere x s need mc w n).2.mem := by
  unfold xlateWhere
  grind [xlateX_wf, xlateVa_wf]

theorem xlateLanes_wf {x : Ctx} {need : Need} {mc : Bool} {n : Nat} (ws : List Where) {s : State} (h : Memory.wf s.mem) :
    Memory.wf (xlateLanes x need mc n ws s).2.mem := by
  induction ws generalizing s with
  | nil => exact h
  | cons w ws ih =>
    unfold xlateLanes
    grind [xlateWhere_wf]

theorem padExtent_wf {x : Ctx} {ws : List Where} {n : Nat} {r : Res} (e : padExtent x ws n = some r) : r.wf := by
  unfold padExtent at e
  grind [Res.wf]

theorem dataBreak_wf {x : Ctx} {kind : Nat} {ws : List Where} {n : Nat} {r : Res} (e : dataBreak x kind ws n = some r) : r.wf := by
  unfold dataBreak at e
  grind [Res.wf]

theorem landLoad_wf {s : State} {o : Op} {k v fkind addr : Nat} (h : Memory.wf s.mem) : Memory.wf (landLoad s o k v fkind addr).mem := by
  unfold landLoad
  grind [modOp_mem, padTouch_mem, landReg_mem, partFatal_wf, ownPoison_wf]

@[simp] theorem endIfRead_mem (oid : Nat) (s : State) : (endIfRead oid s).mem = s.mem := by
  unfold endIfRead
  grind [endOp_mem]

theorem takePresent_wf {x : Ctx} {oid : Nat} {s : State} (h : Memory.wf s.mem) : Memory.wf (takePresent x oid s).mem := by
  unfold takePresent
  grind [foldl_wf, landLoad_wf, softError_wf, meet_mem, endIfRead_mem]

theorem bareOp_wf {x : Ctx} (h : Memory.wf x.s.mem) : (bareOp x).wf := by
  unfold bareOp
  grind [Res.wf, pump_wf, sweepOps_mem, addOp_mem]

theorem loadBody_wf {n bytes ty : Nat} {x : Ctx} (h : Memory.wf x.s.mem) : (loadBody n bytes ty x).wf := by
  unfold loadBody
  grind [Res.wf, bareOp_wf, dataBreak_wf, padExtent_wf, xlateLanes_wf, setGroup_mem, addOp_mem, pump_wf, takePresent_wf]

theorem bodyLd_wf {x : Ctx} (h : Memory.wf x.s.mem) : (bodyLd x).wf := loadBody_wf h

theorem bodyLdp_wf {x : Ctx} (h : Memory.wf x.s.mem) : (bodyLdp x).wf := loadBody_wf h

@[simp] theorem shuffle_mem (α : Type) (s : State) (xs : List α) : (shuffle s xs).2.mem = s.mem := by
  unfold shuffle
  split <;> rfl

@[simp] theorem unWinners_mem (s : State) (accs : List Access) : (unWinners s accs).2.mem = s.mem := by
  unfold unWinners
  grind [shuffle_mem]

theorem reachChecks_wf {x : Ctx} {need : Need} {mc atomic : Bool} {n : Nat} {mask : List Nat → LaneMask} {ws : List Where}
    {k : State → List (Where × List Piece) → Res} (h : Memory.wf x.s.mem) (hk : ∀ s es, Memory.wf s.mem → (k s es).wf) :
    (reachChecks x need mc atomic n mask ws k).wf := by
  unfold reachChecks
  grind [Res.wf, xlateLanes_wf]

theorem storeChecks_wf {x : Ctx} {need : Need} {mc atomic : Bool} {n : Nat} {val : Nat → Nat × Bool} {k : State → List Access → Res} {cmp : Nat → Nat}
    (h : Memory.wf x.s.mem) (hk : ∀ s as, Memory.wf s.mem → (k s as).wf) : (storeChecks x need mc atomic n val k cmp).wf := by
  unfold storeChecks
  grind [Res.wf, dataBreak_wf, padExtent_wf, trapLanes_wf, reachChecks_wf]

theorem putPads_wf {oid : Nat} {step : State → Op → Nat → Access → State} {s : State}
    (hs : ∀ s o k a, Memory.wf s.mem → Memory.wf (step s o k a).mem) (h : Memory.wf s.mem) : Memory.wf (putPads oid step s).mem := by
  unfold putPads
  exact foldl_wf (fun t k ht => by grind) _ h

@[simp] theorem accDone_mem (oid k : Nat) (s : State) : (accDone oid k s).mem = s.mem := rfl

theorem padWrite_wf {s : State} {o : Op} {lane : Nat} {rmw : Bool} {off n v : Nat} (h : Memory.wf s.mem) :
    Memory.wf (padWrite s o lane rmw off n v).mem := padDone_wf h

theorem padStore_wf {s : State} {o : Op} {k : Nat} {a : Access} (h : Memory.wf s.mem) : Memory.wf (padStore s o k a).mem := by
  unfold padStore
  grind [accDone_mem, padWrite_wf, opRelease_mem]

@[simp] theorem endIfPad_mem (oid : Nat) (s : State) : (endIfPad oid s).mem = s.mem := by
  unfold endIfPad
  grind [endOp_mem]

theorem storeBody_wf {bytes : Nat} {val : Nat → Nat × Bool} {x : Ctx} (h : Memory.wf x.s.mem) : (storeBody bytes val x).wf := by
  unfold storeBody
  grind [Res.wf, storeChecks_wf, bareOp_wf, addOp_mem, pump_wf, endIfPad_mem, putPads_wf, padStore_wf]

theorem bodySt_wf {x : Ctx} (h : Memory.wf x.s.mem) : (bodySt x).wf := storeBody_wf h

theorem bodyStp_wf {x : Ctx} (h : Memory.wf x.s.mem) : (bodyStp x).wf := storeBody_wf h

theorem landAtom_wf {s : State} {o : Op} {k old fkind addr : Nat} {noRepl : Bool} (h : Memory.wf s.mem) :
    Memory.wf (landAtom s o k old fkind addr noRepl).mem := by
  unfold landAtom
  grind [modOp_mem, padTouch_mem, modGroup_mem, landReg_mem, ownPoison_wf]

theorem padAtom_wf {s : State} {o : Op} {k : Nat} {a : Access} (h : Memory.wf s.mem) : Memory.wf (padAtom s o k a).mem := by
  unfold padAtom
  grind [landAtom_wf, softError_wf, meet_mem, opRelease_mem, padWrite_wf]

theorem atomBody_wf {fn : Nat} {path : Path} {ret : Option (Nat × Nat)} {wide : Bool} {bytes : Nat} {val : Nat → Nat × Bool} {cmp : Nat → Nat}
    {x : Ctx} (h : Memory.wf x.s.mem) : (atomBody fn path ret wide bytes val cmp x).wf := by
  unfold atomBody
  grind [Res.wf, storeChecks_wf, bareOp_wf, setGroup_mem, addOp_mem, putPads_wf, padAtom_wf, pump_wf, endIfRead_mem, endIfPad_mem]

theorem atomFn_wf {fn : Nat} {path : Path} {ret : Bool} {x : Ctx} (h : Memory.wf x.s.mem) : (atomFn fn path ret x).wf := by
  unfold atomFn
  grind [Res.wf, atomBody_wf]

theorem bodyAtom_wf {x : Ctx} (h : Memory.wf x.s.mem) : (bodyAtom x).wf := atomFn_wf h

theorem bodyAtomn_wf {x : Ctx} (h : Memory.wf x.s.mem) : (bodyAtomn x).wf := atomFn_wf h

theorem bodyAtomp_wf {x : Ctx} (h : Memory.wf x.s.mem) : (bodyAtomp x).wf := atomFn_wf h

theorem bodyAtomw_wf {x : Ctx} (h : Memory.wf x.s.mem) : (bodyAtomw x).wf := by
  unfold bodyAtomw
  grind [Res.wf, atomBody_wf]

theorem haulFault_wf {x : Ctx} {paths : List Path} {r : Res} (e : haulFault x paths = some r) : r.wf := by
  unfold haulFault at e
  grind [Res.wf]

theorem bodyFence_wf {x : Ctx} (h : Memory.wf x.s.mem) : (bodyFence x).wf := by
  unfold bodyFence
  grind [Res.wf, trapLanes_wf, setGroup_mem, addOp_mem, pump_wf, sweepOps_mem]

theorem bodyXfence_wf {x : Ctx} (h : Memory.wf x.s.mem) : (bodyXfence x).wf := by
  unfold bodyXfence
  grind [Res.wf, haulFault_wf, xfenceMark_mem]

theorem bodyXlt_wf {x : Ctx} (h : Memory.wf x.s.mem) : (bodyXlt x).wf := by
  unfold bodyXlt
  grind [Res.wf, trapAll_wf, setGroup_mem, addOp_mem]

theorem bodyPref_wf {x : Ctx} (h : Memory.wf x.s.mem) : (bodyPref x).wf := by
  unfold bodyPref
  grind [Res.wf, padExtent_wf, xlateLanes_wf, addOp_mem, pump_wf, endIfRead_mem]

theorem rangePieces_wf {x : Ctx} {w : Where} (fuel : Nat) {at_ n : Nat} {s : State} (h : Memory.wf s.mem) :
    Memory.wf (rangePieces x w fuel at_ n s).2.mem := by
  induction fuel generalizing at_ n s with
  | zero => exact h
  | succ fuel ih =>
    unfold rangePieces
    grind [xlatePiece_wf]

theorem cacheBody_wf {inv : Bool} {x : Ctx} (h : Memory.wf x.s.mem) : (cacheBody inv x).wf := by
  unfold cacheBody
  extract_lets ls ws len pz n r
  have hr : Memory.wf r.2.mem := by
    unfold r
    split
    · exact h
    · refine foldl_snd_wf (fun q w hq => ?_) _ h
      exact rangePieces_wf _ hq
  clear_value r
  grind [Res.wf, trapLanes_wf, addOp_mem]

theorem bodyCflush_wf {x : Ctx} (h : Memory.wf x.s.mem) : (bodyCflush x).wf := cacheBody_wf h

theorem bodyCinv_wf {x : Ctx} (h : Memory.wf x.s.mem) : (bodyCinv x).wf := cacheBody_wf h

/-! ### The functions of Machine/Ctl.lean -/

theorem ctlPoison_wf {x : Ctx} {p : Bool} {k : Res} (hk : k.wf) : (ctlPoison x p k).wf := by
  unfold ctlPoison
  grind [trapLanes_wf, trapAll_wf]

theorem branchTo_wf {x : Ctx} {tgt : Nat → Nat × Bool} {leaves link : Bool} (h : Memory.wf x.s.mem) : (branchTo x tgt leaves link).wf := by
  unfold branchTo
  grind [Res.wf, trapAll_wf, trapLanes_wf, setGroup_mem]

theorem bodyBra_wf {x : Ctx} (h : Memory.wf x.s.mem) : (bodyBra x).wf := branchTo_wf h

theorem bodyCall_wf {x : Ctx} (h : Memory.wf x.s.mem) : (bodyCall x).wf := branchTo_wf h

theorem bodyBrx_wf {x : Ctx} (h : Memory.wf x.s.mem) : (bodyBrx x).wf := branchTo_wf h

theorem bodyRet_wf {x : Ctx} (h : Memory.wf x.s.mem) : (bodyRet x).wf := branchTo_wf h

theorem walkBody_wf (fuel : Nat) {s u : State} {g : Group} {at_ stop : Nat} {f : XFault} (h : Memory.wf s.mem)
    (e : walkBody fuel s g at_ stop = .fetch f u) : Memory.wf u.mem := by
  induction fuel generalizing s at_ with
  | zero =>
    unfold walkBody at e
    grind
  | succ fuel ih =>
    unfold walkBody at e
    grind [fetchBytes_wf]

theorem bodyLoop_wf {x : Ctx} (h : Memory.wf x.s.mem) : (bodyLoop x).wf := by
  unfold bodyLoop
  grind [Res.wf, trapAll_wf, walkBody_wf, fetchBytes_wf, setGroup_mem]

@[simp] theorem barDone_mem (s : State) (b : Block) (n : Nat) (bar : Bar) : (barDone s b n bar).mem = s.mem := by
  unfold barDone
  grind [foldl_mem, modGroup_mem, acquired_mem, modBlock_mem]

@[simp] theorem barsAgain_mem (s : State) (bid : Nat) : (barsAgain s bid).mem = s.mem := by
  unfold barsAgain
  grind [foldl_mem, barDone_mem]

@[simp] theorem joinAgain_mem (s : State) (bid : Nat) : (joinAgain s bid).mem = s.mem := by
  unfold joinAgain
  grind [foldl_mem, modGroup_mem, acquired_mem, modBlock_mem]

@[simp] theorem afterExit_mem (s : State) (gid : Nat) : (afterExit s gid).mem = s.mem := by
  unfold afterExit
  grind [setGroup_mem, joinAgain_mem, barsAgain_mem]

theorem bodyExit_wf {x : Ctx} (h : Memory.wf x.s.mem) : (bodyExit x).wf := by
  unfold bodyExit
  grind [Res.wf, haulFault_wf, ctlPoison_wf, afterExit_mem, setGroup_mem]

theorem codeTrap_wf {c : Cause} {x : Ctx} (h : Memory.wf x.s.mem) : (codeTrap c x).wf := by
  unfold codeTrap
  grind [Res.wf, trapLanes_wf]

theorem bodyTrap_wf {x : Ctx} (h : Memory.wf x.s.mem) : (bodyTrap x).wf := codeTrap_wf h

theorem bodyBrk_wf {x : Ctx} (h : Memory.wf x.s.mem) : (bodyBrk x).wf := codeTrap_wf h

theorem bodyWaitc_wf {x : Ctx} (h : Memory.wf x.s.mem) : (bodyWaitc x).wf := by
  unfold bodyWaitc
  grind [Res.wf, haulFault_wf, ctlPoison_wf, setGroup_mem]

theorem bodyTwait_wf {x : Ctx} (h : Memory.wf x.s.mem) : (bodyTwait x).wf := by
  unfold bodyTwait
  grind [Res.wf, ctlPoison_wf, setGroup_mem]

theorem groupWide_wf {x : Ctx} {k : LaneMask → Res} (h : Memory.wf x.s.mem) (hk : ∀ m, (k m).wf) : (groupWide x k).wf := by
  unfold groupWide
  grind [Res.wf]

theorem bodyBar_wf {x : Ctx} (h : Memory.wf x.s.mem) : (bodyBar x).wf := by
  unfold bodyBar
  grind [Res.wf, haulFault_wf, ctlPoison_wf, trapAll_wf, groupWide_wf, releaseDone_mem, setGroup_mem, modBlock_mem, barDone_mem]

theorem padWord_wf {x : Ctx} {n : Nat} {other reads : Bool} {k : Nat → Res} (h : Memory.wf x.s.mem) (hk : ∀ off, (k off).wf) :
    (padWord x n other reads k).wf := by
  unfold padWord
  grind [Res.wf, trapLanes_wf, trapAll_wf, softError_wf]

theorem padObject_wf {x : Ctx} {n : Nat} {other reads : Bool} {k : Nat → Res} (h : Memory.wf x.s.mem) (hk : ∀ off, (k off).wf) :
    (padObject x n other reads k).wf := by
  unfold padObject
  split
  · exact h
  · exact padWord_wf h (fun off => by split; exacts [h, hk off])

theorem syncTrap_wf {x : Ctx} : (syncTrap x).wf := trivial

theorem putWord_wf {x : Ctx} {off n v : Nat} (h : Memory.wf x.s.mem) : Memory.wf (putWord x off n v).mem := padWrite_wf h

theorem postWord_wf {x : Ctx} {off n v : Nat} (h : Memory.wf x.s.mem) : Memory.wf (postWord x off n v).mem := padWrite_wf h

@[simp] theorem tookWord_mem (s : State) (gid bid off n : Nat) : (tookWord s gid bid off n).mem = s.mem := ite_mem rfl rfl

theorem bodyAbinit_wf {x : Ctx} (h : Memory.wf x.s.mem) : (bodyAbinit x).wf := by
  unfold bodyAbinit
  grind [Res.wf, padObject_wf, putWord_wf, syncTrap_wf]

theorem bodyAbarv_wf {x : Ctx} (h : Memory.wf x.s.mem) : (bodyAbarv x).wf := by
  unfold bodyAbarv
  grind [Res.wf, padObject_wf, syncTrap_wf, postWord_wf, modGroup_mem]

theorem bodyAbexp_wf {x : Ctx} (h : Memory.wf x.s.mem) : (bodyAbexp x).wf := by
  unfold bodyAbexp
  grind [Res.wf, padObject_wf, syncTrap_wf, putWord_wf]

theorem bodyAbwait_wf {x : Ctx} (h : Memory.wf x.s.mem) : (bodyAbwait x).wf := by
  unfold bodyAbwait
  grind [Res.wf, haulFault_wf, padWord_wf, tookWord_mem, syncTrap_wf, setGroup_mem]

theorem bodyStgw_wf {x : Ctx} (h : Memory.wf x.s.mem) : (bodyStgw x).wf := by
  unfold bodyStgw
  grind [Res.wf, haulFault_wf, padWord_wf, tookWord_mem, syncTrap_wf, setGroup_mem]

theorem bodyStgp_wf {x : Ctx} (h : Memory.wf x.s.mem) : (bodyStgp x).wf := by
  unfold bodyStgp
  grind [Res.wf, padObject_wf, postWord_wf, syncTrap_wf]

theorem bodyJoin_wf {x : Ctx} (h : Memory.wf x.s.mem) : (bodyJoin x).wf := by
  unfold bodyJoin
  grind [Res.wf, trapAll_wf, haulFault_wf, groupWide_wf, setGroup_mem, modBlock_mem, joinAgain_mem]

theorem bodyRalloc_wf {x : Ctx} (h : Memory.wf x.s.mem) : (bodyRalloc x).wf := by
  unfold bodyRalloc
  grind [Res.wf, ctlPoison_wf, trapAll_wf, groupWide_wf, setGroup_mem, modCore_mem]

theorem bodyRfree_wf {x : Ctx} (h : Memory.wf x.s.mem) : (bodyRfree x).wf := by
  unfold bodyRfree
  grind [Res.wf, ctlPoison_wf, trapAll_wf, groupWide_wf, setGroup_mem]

/-! ### The functions of Machine/EvMem.lean -/

theorem fetchTo_wf {s : State} {o : Op} {core : Nat} {p : Piece} (h : Memory.wf s.mem) : Memory.wf (fetchTo s o core p).mem := by
  unfold fetchTo
  grind [l1Fill_wf, drayPut_wf]

theorem readPart_wf {s : State} {o : Op} {core : Nat} {lanes : List Nat} {a : Access} {j : Nat} {p : Piece} (h : Memory.wf s.mem) :
    Memory.wf (readPart s o core lanes a j p).2.mem := by
  unfold readPart
  grind [readOver_mem, meet_mem, recallOwner_wf, homeRead_wf, l1Mend_wf, lineError_wf, fetchTo_wf]

theorem readParts_wf {s : State} {o : Op} {core : Nat} {lanes : List Nat} {a : Access} (h : Memory.wf s.mem) :
    Memory.wf (readParts s o core lanes a).2.mem := by
  unfold readParts
  grind [foldl_snd_wf, readPart_wf]

theorem readTogether_wf {s : State} {o : Op} {ms : List (Nat × Access)} (h : Memory.wf s.mem) : Memory.wf (readTogether s o ms).2.mem := by
  unfold readTogether
  grind [foldl_snd_wf, readParts_wf, modOp_mem]

theorem readOnePart_wf {s : State} {o : Op} {k : Nat} {p : Piece} {t : State} (h : Memory.wf s.mem) (e : readOnePart s o k p = some t) :
    Memory.wf t.mem := by
  unfold readOnePart at e
  grind [readTogether_wf, landLoad_wf]

theorem memAtom_wf {s : State} {o : Op} {k : Nat} {a : Access} {near : Bool} {t : State} (h : Memory.wf s.mem)
    (e : memAtom s o k a near = some t) : Memory.wf t.mem := by
  unfold memAtom at e
  grind [landAtom_wf, claimHalf_wf, takeOwner_wf, recallOwner_wf, setDir_mem, homeRead_wf, lineError_wf, meet_mem, opRelease_mem, noteWrite_mem,
    publishOwn_mem, poolMark_mem, homeWrite_wf, drayDrop_wf]

theorem padLater_wf {s : State} {o : Op} {k : Nat} {a : Access} {t : State} (h : Memory.wf s.mem) (e : padLater s o k a = some t) :
    Memory.wf t.mem := by
  unfold padLater at e
  grind [landLoad_wf, softError_wf, meet_mem, padAtom_wf, padStore_wf]

theorem evicted_wf {s : State} (h : Memory.wf s.mem) : Memory.wf (evicted s).mem := ite_wf h (tlbEvict_wf h)

theorem evLoadDataReturn_wf {s t : State} (h : Memory.wf s.mem) (e : evLoadDataReturn s = some t) : Memory.wf t.mem := by
  unfold evLoadDataReturn at e
  extract_lets u at e
  have hu : Memory.wf u.mem := evicted_wf h
  clear_value u
  split at e
  · cases e
  split at e
  · cases e
  obtain ⟨v, hv, rfl⟩ := Option.map_eq_some_iff.mp e
  rw [endIfRead_mem]
  split at hv
  · grind [landLoad_wf, readOnePart_wf, padLater_wf, readTogether_wf]
  · grind [landLoad_wf, readOnePart_wf, padLater_wf, readTogether_wf]
  · grind [padLater_wf, memAtom_wf]
  · cases hv

theorem applyPart_wf {s : State} {o : Op} {whole : Bool} {a : Access} {p : Piece} (h : Memory.wf s.mem) :
    Memory.wf (applyPart s o whole a p).mem := by
  unfold applyPart
  grind [poolMark_mem, recallOwner_wf, opRelease_mem, homeWrite_wf, noteWrite_mem, drayWrite_wf, publishOwn_mem, sendUpdates_mem]

theorem applyParts_wf {s : State} {o : Op} {parts : List (Nat × Nat)} (h : Memory.wf s.mem) : Memory.wf (applyParts s o parts).mem := by
  unfold applyParts
  grind [foldl_wf, applyPart_wf]

theorem evHomeStoreApply_wf {s t : State} (h : Memory.wf s.mem) (e : evHomeStoreApply s = some t) : Memory.wf t.mem := by
  unfold evHomeStoreApply at e
  repeat' split at e
  all_goals grind [Option.map_eq_some_iff, padLater_wf, memAtom_wf, endIfPad_mem, modOp_mem, markParts_mem, applyParts_wf]

theorem evSharerUpdate_wf {s : State} {t : State} (h : Memory.wf s.mem) (e : evSharerUpdate s = some t) : Memory.wf t.mem := by
  unfold evSharerUpdate at e
  grind [l1Apply_mem]

theorem evStoreComplete_wf {s : State} {t : State} (h : Memory.wf s.mem) (e : evStoreComplete s = some t) : Memory.wf t.mem := by
  unfold evStoreComplete at e
  grind [endOp_mem]

theorem claimWords_wf {s : State} {line mask : Nat} (h : Memory.wf s.mem) : Memory.wf (claimWords s line mask).mem := by
  unfold claimWords
  grind [claimHalf_wf]

theorem evL1Fill_wf {s : State} {t : State} (h : Memory.wf s.mem) (e : evL1Fill s = some t) : Memory.wf t.mem := by
  unfold evL1Fill at e
  grind [l1Fill_wf, claimWords_wf, recallOwner_wf]

theorem evOwnershipRecall_wf {s : State} {t : State} (h : Memory.wf s.mem) (e : evOwnershipRecall s = some t) : Memory.wf t.mem := by
  unfold evOwnershipRecall at e
  grind [recallFor_wf, recallOwner_wf]

theorem evFarAtomic_wf {s : State} {t : State} (h : Memory.wf s.mem) (e : evFarAtomic s = some t) : Memory.wf t.mem := by
  unfold evFarAtomic at e
  grind [Option.bind_eq_some_iff, Option.map_eq_some_iff, endIfRead_mem, memAtom_wf]

theorem evDirectoryRebuild_wf {s : State} {t : State} (h : Memory.wf s.mem) (e : evDirectoryRebuild s = some t) : Memory.wf t.mem := by
  unfold evDirectoryRebuild at e
  grind [l1Drop_mem, claimHalf_wf, setDir_mem, fatalOf_wf, rasLog_wf]

@[simp] theorem dropRanges_mem (s : State) (rs : List (Nat × Nat)) (p : Nat → Bool) : (dropRanges s rs p).mem = s.mem := rfl

@[simp] theorem dropFetch_mem (s : State) (rs : List (Nat × Nat)) (p : Nat → Bool) : (dropFetch s rs p).mem = s.mem := rfl

theorem dropDray_wf {s : State} {part : Nat} {rs : List (Nat × Nat)} (h : Memory.wf s.mem) : Memory.wf (dropDray s part rs).mem := drayClear_wf h

@[simp] theorem spoilFills_mem (s : State) (hit : Nat → Bool) (part : Option Nat) : (spoilFills s hit part).mem = s.mem := rfl

theorem cacheAct_wf {s : State} {o : Op} {fn : Nat} {rs : List (Nat × Nat)} {inv : Bool} (h : Memory.wf s.mem) :
    Memory.wf (cacheAct s o fn rs inv).mem := by
  unfold cacheAct
  grind [dropFetch_mem, dropRanges_mem, spoilFills_mem, dropDray_wf]

theorem evSvOperationComplete_wf {s : State} {t : State} (h : Memory.wf s.mem) (e : evSvOperationComplete s = some t) : Memory.wf t.mem := by
  unfold evSvOperationComplete at e
  grind [endOp_mem, modGroup_mem, walk_wf, cacheAct_wf]

/-! ### The functions of Machine/Haul.lean -/

theorem engineOnce_wf {x : Ctx} {p : Bool} {k : Res} (h : Memory.wf x.s.mem) (hk : k.wf) : (engineOnce x p k).wf := by
  unfold engineOnce
  grind [Res.wf, bareOp_wf, ctlPoison_wf]

theorem padTrap_wf {x : Ctx} {off : Int} : (padTrap x off).wf := trivial

theorem descTrap_wf {x : Ctx} {use : HaulUse} {d : Desc} {w bytes : Nat} {ends : List Ends} {sd : Bool} {trig : Option Nat} {r : Res}
    (e : descTrap x use d w bytes ends sd trig = some r) : r.wf := by
  unfold descTrap at e
  extract_lets auxBad off sNums dNums nums sp dp at e
  obtain ⟨-, e⟩ | ⟨-, e⟩ := ite_eq_iff.mp e
  · obtain rfl := Option.some.inj e
    trivial
  obtain ⟨-, e⟩ | ⟨-, e⟩ := ite_eq_iff.mp e
  · obtain rfl := Option.some.inj e
    trivial
  cases ho : ends.findSome? (endsOut x.b) with
  | some o =>
    rw [ho] at e
    obtain rfl := Option.some.inj e
    trivial
  | none =>
    rw [ho] at e
    obtain ⟨o, -, rfl⟩ := Option.map_eq_some_iff.mp e
    trivial

theorem startHaul_wf {x : Ctx} {path : Path} {kind : OpKind} (h : Memory.wf x.s.mem) : (startHaul x path kind).wf := by
  unfold startHaul
  grind [Res.wf, addOp_mem, pump_wf, endHaul_wf]

theorem bodyHcopy_wf {x : Ctx} (h : Memory.wf x.s.mem) : (bodyHcopy x).wf := by
  unfold bodyHcopy
  grind [Res.wf, engineOnce_wf, descTrap_wf, startHaul_wf]

theorem bodyHfill_wf {x : Ctx} (h : Memory.wf x.s.mem) : (bodyHfill x).wf := by
  unfold bodyHfill
  grind [Res.wf, engineOnce_wf, descTrap_wf, startHaul_wf]

theorem bodyHxpose_wf {x : Ctx} (h : Memory.wf x.s.mem) : (bodyHxpose x).wf := by
  unfold bodyHxpose
  grind [Res.wf, engineOnce_wf, trapAll_wf, descTrap_wf, padTrap_wf, startHaul_wf]

theorem bodyHrem_wf {x : Ctx} (h : Memory.wf x.s.mem) : (bodyHrem x).wf := by
  unfold bodyHrem
  grind [Res.wf, engineOnce_wf, descTrap_wf, startHaul_wf]

theorem bodyHsig_wf {x : Ctx} (h : Memory.wf x.s.mem) : (bodyHsig x).wf := by
  unfold bodyHsig
  grind [Res.wf, engineOnce_wf, trapLanes_wf, reachChecks_wf, pump_wf, addOp_mem]

theorem bodyHtrig_wf {x : Ctx} (h : Memory.wf x.s.mem) : (bodyHtrig x).wf := by
  unfold bodyHtrig
  grind [Res.wf, engineOnce_wf, descTrap_wf, trigNote_wf, setGroup_mem]

theorem gatherBody_wf {x : Ctx} {w : Nat} {need : Need} {red : Bool} {act : Nat} {kind : Nat → OpKind} (h : Memory.wf x.s.mem) :
    (gatherBody x w need red act kind).wf := by
  unfold gatherBody
  grind [Res.wf, trapLanes_wf, reachChecks_wf, unWinners_mem, pump_wf, addOp_mem]

theorem bodyGath_wf {x : Ctx} (h : Memory.wf x.s.mem) : (bodyGath x).wf := gatherBody_wf h

theorem bodyScat_wf {x : Ctx} (h : Memory.wf x.s.mem) : (bodyScat x).wf := gatherBody_wf h

/-! ### The functions of Machine/EvHaul.lean -/

theorem signalAt_wf {s : State} {o : Op} (h : Memory.wf s.mem) : Memory.wf (signalAt s o).2.mem := by
  unfold signalAt
  grind [planOf_wf, xlateVa_wf]

theorem haulTrouble_wf {s : State} {o : Op} {b : Block} (h : Memory.wf s.mem) : Memory.wf (haulTrouble s o b).2.mem := by
  unfold haulTrouble
  grind [planOf_wf, signalAt_wf]

theorem evHaulOpComplete_wf {s : State} {t : State} (h : Memory.wf s.mem) (e : evHaulOpComplete s = some t) : Memory.wf t.mem := by
  unfold evHaulOpComplete at e
  grind [haulTrouble_wf, planOf_wf, endHaul_wf, performPlan_wf]

theorem evHremSignal_wf {s : State} {t : State} (h : Memory.wf s.mem) (e : evHremSignal s = some t) : Memory.wf t.mem := by
  unfold evHremSignal at e
  grind [haulTrouble_wf, signalAt_wf, modOp_mem]

theorem elemRead_wf {s : State} {o : Op} {b : Block} {a : Access} (h : Memory.wf s.mem) : Memory.wf (elemRead s o b a).2.mem := by
  unfold elemRead
  grind [foldl_snd_wf, readOver_mem, homeRead_wf, recallOwner_wf]

theorem elemWrites_wf {s : State} {o : Op} {b : Block} {a : Access} (h : Memory.wf s.mem) : Memory.wf (elemWrites s o b a).2.mem := by
  unfold elemWrites
  grind [elemRead_wf, readOver_mem]

theorem performElems_wf {s : State} {o : Op} {faulted : Bool} (h : Memory.wf s.mem) : Memory.wf (performElems s o faulted).mem := by
  unfold performElems
  grind [foldl_wf, elemWrites_wf, stepReady_wf, keepSome_mem, stepInto_wf, writeLocs_wf, claimLocs_wf]

theorem evGathScatComplete_wf {s : State} {t : State} (h : Memory.wf s.mem) (e : evGathScatComplete s = some t) : Memory.wf t.mem := by
  unfold evGathScatComplete at e
  grind [endOp_mem, performElems_wf]

theorem engineFault_wf {s : State} {o : Op} {b : Block} {t : State} (h : Memory.wf s.mem) (e : engineFault s o b = some t) : Memory.wf t.mem := by
  unfold engineFault at e
  grind [Option.bind_eq_some_iff, Option.map_eq_some_iff, haulTrouble_wf, planOf_wf, endFaulted_wf, performPlan_wf, performElems_wf]

theorem evHtrigFire_wf {s : State} {t : State} (h : Memory.wf s.mem) (e : evHtrigFire s = some t) : Memory.wf t.mem := by
  unfold evHtrigFire at e
  grind [trigNote_wf, addOp_mem, setGroup_mem]

/-! ### The functions of Machine/Net.lean -/

theorem ntResult_wf {x : Ctx} {s : State} {w : Nat} (h : Memory.wf s.mem) : (ntResult x s w).wf := by
  unfold ntResult
  grind [Res.wf, modGroup_mem, pump_wf, endOp_mem, addOp_mem]

theorem bodyWsend_wf {x : Ctx} (h : Memory.wf x.s.mem) : (bodyWsend x).wf := by
  unfold bodyWsend
  grind [Res.wf, bareOp_wf, trapLanes_wf, setGroup_mem, setPart_mem, addOp_mem, pump_wf, endOp_mem]

theorem bodyWrecv_wf {x : Ctx} (h : Memory.wf x.s.mem) : (bodyWrecv x).wf := by
  unfold bodyWrecv
  extract_lets c ls chan p ch ws got taken s1 s2 bad s3 ts g
  refine engineOnce_wf h ?_
  by_cases hc : 64 ≤ c.1 % 2 ^ 32
  · rw [if_pos hc]; trivial
  · rw [if_neg hc]
    have h1 : Memory.wf s1.mem := by unfold s1; split <;> exact h
    have h2 : Memory.wf s2.mem := foldl_wf (fun t e ht => by simpa using ht) _ h1
    have h3 : Memory.wf s3.mem := foldl_wf (fun t _ ht => softError_wf ht) _ h2
    clear_value s3
    exact pump_wf (by simpa using h3)

theorem bodyWbay_wf {x : Ctx} (h : Memory.wf x.s.mem) : (bodyWbay x).wf := by
  unfold bodyWbay
  grind [Res.wf, engineOnce_wf, trapAll_wf, modPart_mem, modCore_mem, ntResult_wf, sendCredits_mem]

theorem bodyColl_wf {x : Ctx} (h : Memory.wf x.s.mem) : (bodyColl x).wf := by
  unfold bodyColl
  grind [Res.wf, engineOnce_wf, trapAll_wf, padTrap_wf, pump_wf, addOp_mem]

theorem readAtIssue_wf {x : Ctx} {path : Path} {va n : Nat} (h : Memory.wf x.s.mem) : Memory.wf (readAtIssue x path va n).2.mem := by
  unfold readAtIssue
  grind [xlateVa_wf, homePieces_wf]

theorem recordTrap_wf {x : Ctx} {a : Nat} {e : XFault} {s : State} (hx : Memory.wf x.s.mem) (h : Memory.wf s.mem) : (recordTrap x a e s).wf := by
  unfold recordTrap
  grind [Res.wf]

theorem bodyCmpj_wf {x : Ctx} (h : Memory.wf x.s.mem) : (bodyCmpj x).wf := by
  unfold bodyCmpj
  grind [Res.wf, engineOnce_wf, readAtIssue_wf, recordTrap_wf, ntResult_wf, setPart_mem, modGroup_mem, pump_wf, addOp_mem]

theorem bodyCmpq_wf {x : Ctx} (h : Memory.wf x.s.mem) : (bodyCmpq x).wf := by
  unfold bodyCmpq
  grind [Res.wf, engineOnce_wf, ntResult_wf, endJob_wf, modJob_mem]

/-! ### The functions of Machine/EvNet.lean -/

theorem signalHere_wf {s : State} {o : Op} {p : Piece} {fn val : Nat} (h : Memory.wf s.mem) : Memory.wf (signalHere s o p fn val).mem := by
  unfold signalHere
  grind [poolMark_mem, lineWrite_wf, recallOwner_wf, homeRead_wf, lineError_wf]

theorem landTaken_wf {o : Op} {d : Nat} {taken : List (Nat × Nat)} {bad : List Nat} {s : State} (h : Memory.wf s.mem) :
    Memory.wf (landTaken o d taken bad s).mem := by
  unfold landTaken
  grind [foldl_wf, landReg_mem, ownPoison_wf]

theorem evNtOpComplete_wf {s : State} {t : State} (h : Memory.wf s.mem) (e : evNtOpComplete s = some t) : Memory.wf t.mem := by
  unfold evNtOpComplete at e
  repeat' split at e
  all_goals grind [Option.map_eq_some_iff, endOp_mem, opRelease_mem, signalHere_wf, noteWrite_mem, landTaken_wf]

theorem collTrouble_wf {s : State} {o : Op} {lone : Bool} (h : Memory.wf s.mem) : Memory.wf (collTrouble s o lone).2.mem := by
  unfold collTrouble
  grind [readVa_wf]

@[simp] theorem collLost_mem (o : Op) (s : State) : (collLost o s).mem = s.mem := by
  unfold collLost
  split <;> rfl

theorem evHaulOpFault_wf {s : State} {t : State} (h : Memory.wf s.mem) (e : evHaulOpFault s = some t) : Memory.wf t.mem := by
  unfold evHaulOpFault at e
  grind [Option.bind_eq_some_iff, Option.map_eq_some_iff, endOp_mem, recordFault_mem, collTrouble_wf, collLost_mem, engineFault_wf]

theorem evCollChildArrive_wf {s : State} {t : State} (h : Memory.wf s.mem) (e : evCollChildArrive s = some t) : Memory.wf t.mem := by
  unfold evCollChildArrive at e
  grind [modOp_mem, trigNote_wf, modBlock_mem]

theorem collArrive_wf {o : Op} {obj : Nat} {s : State} (h : Memory.wf s.mem) : Memory.wf (collArrive o obj s).mem := by
  unfold collArrive
  grind [padWrite_wf, releaseDone_mem]

theorem collEnd_wf {o : Op} {obj : Nat} {s : State} (h : Memory.wf s.mem) : Memory.wf (collEnd o obj s).mem := by
  unfold collEnd
  grind [endFaulted_wf, endOp_mem, collArrive_wf]

@[simp] theorem unlessTouched_mem (o : Op) (ws : List Nat) (s : State) : (unlessTouched o ws s).2.mem = s.mem := by
  unfold unlessTouched
  split <;> rfl

theorem evCollComplete_wf {s : State} {t : State} (h : Memory.wf s.mem) (e : evCollComplete s = some t) : Memory.wf t.mem := by
  unfold evCollComplete at e
  grind [unlessTouched_mem, collEnd_wf, setBlock_mem]

theorem evLandauJobStart_wf {s : State} {t : State} (h : Memory.wf s.mem) (e : evLandauJobStart s = some t) : Memory.wf t.mem := by
  unfold evLandauJobStart at e
  grind [Option.bind_eq_some_iff, Option.map_eq_some_iff, modJob_mem, endJob_wf]

theorem evUetMessage_wf {s : State} {t : State} (h : Memory.wf s.mem) (e : evUetMessage s = some t) : Memory.wf t.mem := by
  unfold evUetMessage at e
  grind [Option.bind_eq_some_iff, Option.map_eq_some_iff, endJob_wf, modJob_mem]

theorem evLandauTimeout_wf {s : State} {t : State} (h : Memory.wf s.mem) (e : evLandauTimeout s = some t) : Memory.wf t.mem := by
  unfold evLandauTimeout at e
  grind [endJob_wf]

theorem evUetLinkError_wf {s : State} {t : State} (h : Memory.wf s.mem) (e : evUetLinkError s = some t) : Memory.wf t.mem := by
  unfold evUetLinkError at e
  grind [Option.bind_eq_some_iff, Option.map_eq_some_iff, endJob_wf]

/-! ### The functions of Machine/EvFabric.lean -/

theorem onPacket_wf {k : Nat} {s t : State} {f : Packet → Option State} (h : Memory.wf s.mem) (hf : ∀ p, f p = some t → Memory.wf t.mem)
    (e : onPacket k s f = some t) : Memory.wf t.mem := by
  unfold onPacket at e
  grind [errCount_mem]

@[simp] theorem answer_mem (s : State) (p : Packet) (kind data : Nat) (refused : Bool) (reason : Nat) :
    (answer s p kind data refused reason).mem = s.mem := by
  unfold answer
  grind [queuePackets_mem]

@[simp] theorem refuse_mem (s : State) (p : Packet) (kind : Nat) : (refuse s p kind).mem = s.mem := by
  unfold refuse
  grind [answer_mem, errCount_mem]

theorem evRead_wf {s : State} {t : State} (h : Memory.wf s.mem) (e : evRead s = some t) : Memory.wf t.mem := by
  unfold evRead at e
  grind [onPacket_wf, refuse_mem, homeRead_wf, recallOwner_wf, answer_mem, lineError_wf]

theorem evWrite_wf {s : State} {t : State} (h : Memory.wf s.mem) (e : evWrite s = some t) : Memory.wf t.mem := by
  unfold evWrite at e
  grind [onPacket_wf, refuse_mem, answer_mem, lineWrite_wf]

theorem evAtomicReq_wf {s : State} {t : State} (h : Memory.wf s.mem) (e : evAtomicReq s = some t) : Memory.wf t.mem := by
  unfold evAtomicReq at e
  grind [onPacket_wf, refuse_mem, homeRead_wf, recallOwner_wf, answer_mem, lineError_wf, lineWrite_wf, queuePackets_mem]

theorem evSignal_wf {s : State} {t : State} (h : Memory.wf s.mem) (e : evSignal s = some t) : Memory.wf t.mem := by
  unfold evSignal at e
  grind [onPacket_wf, refuse_mem, answer_mem, signalHere_wf]

theorem evWagon_wf {s : State} {t : State} (h : Memory.wf s.mem) (e : evWagon s = some t) : Memory.wf t.mem := by
  unfold evWagon at e
  grind [onPacket_wf, answer_mem, landWagon_mem, errCount_mem]

theorem evCredit_wf {s : State} {t : State} (h : Memory.wf s.mem) (e : evCredit s = some t) : Memory.wf t.mem := by
  unfold evCredit at e
  grind [onPacket_wf, returnArrives_mem, creditArrives_mem]

@[simp] theorem echoMark_mem (pkg cls : Nat) (s : State) : (echoMark pkg cls s).mem = s.mem := ite_mem rfl rfl

theorem evRateIncrease_wf {s : State} {t : State} (h : Memory.wf s.mem) (e : evRateIncrease s = some t) : Memory.wf t.mem := by
  unfold evRateIncrease at e
  grind

@[simp] theorem failParts_mem (oid fk : Nat) (ps : List (Nat × Nat)) (s : State) : (failParts oid fk ps s).mem = s.mem := rfl

theorem partsLost_wf {o : Op} {fk : Nat} {maybe : Bool} {ps : List (Nat × Nat)} {s : State} (h : Memory.wf s.mem) :
    Memory.wf (partsLost o fk maybe ps s).mem := by
  unfold partsLost
  grind [foldl_wf, endIfRead_mem, landLoad_wf, landAtom_wf, markParts_mem, failParts_mem]

theorem refusedHere_wf {o : Op} {ps : List (Nat × Nat)} {s : State} (h : Memory.wf s.mem) : Memory.wf (refusedHere o ps s).mem := by
  unfold refusedHere
  grind [partIrq_mem, errCount_mem, partsLost_wf]

theorem bringParts_wf {o : Op} {line data : Nat} {whole : Bool} {ps : List (Nat × Nat)} {s : State} (h : Memory.wf s.mem) :
    Memory.wf (bringParts o line data whole ps s).mem := ite_wf (drayPut_wf h) h

theorem onResponse_wf {s t : State} {p : Packet} {f : State → Op → Nat → List (Nat × Nat) → State}
    (hf : ∀ s o l ks, Memory.wf s.mem → Memory.wf (f s o l ks).mem) (h : Memory.wf s.mem) (e : onResponse s p f = some t) : Memory.wf t.mem := by
  unfold onResponse at e
  grind [echoMark_mem, partIrq_mem, errCount_mem]

theorem evReadData_wf {s : State} {t : State} (h : Memory.wf s.mem) (e : evReadData s = some t) : Memory.wf t.mem := by
  unfold evReadData at e
  grind [onPacket_wf, onResponse_wf, partsLost_wf, refusedHere_wf, bringParts_wf]

theorem evAtomicData_wf {s : State} {t : State} (h : Memory.wf s.mem) (e : evAtomicData s = some t) : Memory.wf t.mem := by
  unfold evAtomicData at e
  grind [foldl_wf, onPacket_wf, onResponse_wf, partsLost_wf, refusedHere_wf, endIfRead_mem, landAtom_wf]

theorem evAcknowledgement_wf {s : State} {t : State} (h : Memory.wf s.mem) (e : evAcknowledgement s = some t) : Memory.wf t.mem := by
  unfold evAcknowledgement at e
  grind [onPacket_wf, mcAnswer_mem, echoMark_mem, onResponse_wf, partsLost_wf, refusedHere_wf, markParts_mem]

theorem evBranchNack_wf {s : State} {t : State} (h : Memory.wf s.mem) (e : evBranchNack s = some t) : Memory.wf t.mem := by
  unfold evBranchNack at e
  grind [onPacket_wf, mcAnswer_mem, nackLog_wf]

theorem evMulticastWrite_wf {s : State} {t : State} (h : Memory.wf s.mem) (e : evMulticastWrite s = some t) : Memory.wf t.mem := by
  unfold evMulticastWrite at e
  grind [onPacket_wf, queuePackets_mem, lineWrite_wf, answer_mem]

theorem evMulticastCopyDrop_wf {s : State} {t : State} (h : Memory.wf s.mem) (e : evMulticastCopyDrop s = some t) : Memory.wf t.mem := by
  unfold evMulticastCopyDrop at e
  grind [mcAnswer_mem, nackLog_wf, queuePackets_mem]

theorem fencePkg_wf {q : Nat} {s : State} (h : Memory.wf s.mem) : Memory.wf (fencePkg q s).mem := by
  unfold fencePkg
  grind [foldl_wf, partsLost_wf, modOp_mem, mcAnswer_mem, nackLog_wf]

theorem evFabMembers_wf {s : State} {t : State} (h : Memory.wf s.mem) (e : evFabMembers s = some t) : Memory.wf t.mem := by
  unfold evFabMembers at e
  grind [foldl_wf, fencePkg_wf]

theorem evPeerUnreachable_wf {s : State} {t : State} (h : Memory.wf s.mem) (e : evPeerUnreachable s = some t) : Memory.wf t.mem := by
  unfold evPeerUnreachable at e
  grind [fencePkg_wf]

@[simp] theorem requeue_mem (moves : Packet → Bool) (s : State) : (requeue moves s).mem = s.mem := by
  unfold requeue
  grind [queuePackets_mem]

theorem evNgaubPortDown_wf {s : State} {t : State} (h : Memory.wf s.mem) (e : evNgaubPortDown s = some t) : Memory.wf t.mem := by
  unfold evNgaubPortDown at e
  grind [requeue_mem]

@[simp] theorem reachAgain_mem (s : State) : (reachAgain s).mem = s.mem := by
  unfold reachAgain
  grind [requeue_mem]

theorem evNgaubPortUp_wf {s : State} {t : State} (h : Memory.wf s.mem) (e : evNgaubPortUp s = some t) : Memory.wf t.mem := by
  unfold evNgaubPortUp at e
  grind [reachAgain_mem]

theorem evFabClass_wf {s : State} {t : State} (h : Memory.wf s.mem) (e : evFabClass s = some t) : Memory.wf t.mem := by
  unfold evFabClass at e
  grind

theorem landSome_wf {s : State} {rs : List Nat} (h : Memory.wf s.mem) : Memory.wf (landSome s rs).mem := by
  unfold landSome
  grind [foldl_wf, memPut_wf, memSet_wf]

theorem haulSome_wf {s : State} {rs : List Nat} (h : Memory.wf s.mem) : Memory.wf (haulSome s rs).mem := by
  unfold haulSome
  grind [foldl_wf, planOf_wf, copyWrites_mem, keepSome_mem, memPut_wf]

theorem dirtyLost_wf {s : State} {rs : List Nat} (h : Memory.wf s.mem) : Memory.wf (dirtyLost s rs).mem := by
  unfold dirtyLost
  grind [foldl_wf, memPut_wf]

theorem dropRegions_wf {s : State} {rs : List Nat} (h : Memory.wf s.mem) : Memory.wf (dropRegions s rs).mem := by
  unfold dropRegions
  grind [spoilFills_mem, dirtyLost_wf, haulSome_wf, landSome_wf, drayClear_wf]

theorem linkLost_wf {link : Nat} {s : State} (h : Memory.wf s.mem) : Memory.wf (linkLost link s).mem := by
  unfold linkLost
  grind [foldl_wf, dropRegions_wf, partIrq_mem]

theorem onLinkLoss_wf {s : State} {t : State} (h : Memory.wf s.mem) (e : onLinkLoss s = some t) : Memory.wf t.mem := by
  unfold onLinkLoss at e
  grind [linkLost_wf]

theorem evPoolLinkTrained_wf {s : State} {t : State} (h : Memory.wf s.mem) (e : evPoolLinkTrained s = some t) : Memory.wf t.mem := by
  unfold evPoolLinkTrained at e
  grind

theorem evPoolRsync_wf {s : State} {t : State} (h : Memory.wf s.mem) (e : evPoolRsync s = some t) : Memory.wf t.mem := by
  unfold evPoolRsync at e
  grind [takeRegion_wf, dropRegions_wf]

theorem evPoolBackInvalidate_wf {s : State} {t : State} (h : Memory.wf s.mem) (e : evPoolBackInvalidate s = some t) : Memory.wf t.mem := by
  unfold evPoolBackInvalidate at e
  grind [poolNote_wf, spoilFills_mem, drayClear_wf, l1Drop_mem, recallOwner_wf, forgetPast_mem, memSet_wf]

@[simp] theorem ptpStat_mem (s : State) (locked : Bool) (port steps : Nat) (off : Int) : (ptpStat s locked port steps off).mem = s.mem := by
  unfold ptpStat
  rfl

@[simp] theorem ptpSend_mem (m : PtpMsg) (s : State) : (ptpSend m s).mem = s.mem := rfl

@[simp] theorem ptpMeasure_mem (s : State) (off : Int) : (ptpMeasure s off).mem = s.mem := by
  unfold ptpMeasure
  grind [ptpStat_mem]

@[simp] theorem ptpSynced_mem (s : State) (at_ : Nat) (origin : Int) : (ptpSynced s at_ origin).mem = s.mem := by
  unfold ptpSynced
  grind [ptpMeasure_mem, ptpSend_mem]

@[simp] theorem ptpDelay_mem (t1 t2 t3 t4 corr : Int) (s : State) : (ptpDelay t1 t2 t3 t4 corr s).mem = s.mem := rfl

@[simp] theorem ptpFollow_mem (s : State) (m : PtpMsg) : (ptpFollow s m).mem = s.mem := by
  unfold ptpFollow
  grind [ptpSynced_mem, ptpMeasure_mem, ptpDelay_mem]

theorem evPtpEventMessage_wf {s : State} {t : State} (h : Memory.wf s.mem) (e : evPtpEventMessage s = some t) : Memory.wf t.mem := by
  unfold evPtpEventMessage at e
  grind [ptpSend_mem, ptpFollow_mem]

theorem evPtpSyncLoss_wf {s : State} {t : State} (h : Memory.wf s.mem) (e : evPtpSyncLoss s = some t) : Memory.wf t.mem := by
  unfold evPtpSyncLoss at e
  grind

theorem evPtpCfg_wf {s : State} {t : State} (h : Memory.wf s.mem) (e : evPtpCfg s = some t) : Memory.wf t.mem := by
  unfold evPtpCfg at e
  grind

/-! ### The functions of Machine/Issue.lean -/

theorem fetchAt_wf {s : State} {g : Group} {pc : Nat} (h : Memory.wf s.mem) : Memory.wf (fetchAt s g pc).2.mem := (fetchAt_only s g pc).form h

theorem nextIssue_wf {s : State} {g : Group} {p : Pick} (h : Memory.wf s.mem) (e : nextIssue s g = some p) : Memory.wf p.st.mem :=
  (nextIssue_only s g p e).form h

@[simp] theorem endWait_mem (gid : Nat) (s : State) : (endWait gid s).mem = s.mem := by
  unfold endWait
  grind [tookWord_mem, modGroup_mem]

@[simp] theorem restSlots_mem (s : State) (ready : List (Group × Pick)) (n : Nat) (t : State) : (restSlots s ready n t).mem = t.mem := rfl

theorem fetchTrap_wf {s : State} {g : Group} {pc : Nat} {lanes : List Nat} {e : XFault} (h : Memory.wf s.mem) :
    Memory.wf (fetchTrap s g pc lanes e).mem := by
  unfold fetchTrap
  grind [trapNow_wf]

/-! ### The functions of Machine/Matrix.lean -/

theorem bodyMloop_wf {x : Ctx} (h : Memory.wf x.s.mem) : (bodyMloop x).wf := by
  unfold bodyMloop
  grind [Res.wf, engineOnce_wf, trapAll_wf, padTrap_wf, addOp_mem]

theorem bodyMzero_wf {x : Ctx} (h : Memory.wf x.s.mem) : (bodyMzero x).wf := by
  unfold bodyMzero
  grind [Res.wf, engineOnce_wf, addOp_mem]

theorem tileLanes_wf {x : Ctx} {bad : Nat → Bool} {k : List Nat → Nat → Res} (h : Memory.wf x.s.mem) (hk : ∀ ls c, (k ls c).wf) :
    (tileLanes x bad k).wf := by
  unfold tileLanes
  grind [Res.wf, trapLanes_wf, trapAll_wf]

theorem bodyMtrd_wf {x : Ctx} (h : Memory.wf x.s.mem) : (bodyMtrd x).wf := by
  unfold bodyMtrd
  grind [Res.wf, tileLanes_wf, addOp_mem, setGroup_mem]

theorem bodyMtwr_wf {x : Ctx} (h : Memory.wf x.s.mem) : (bodyMtwr x).wf := by
  unfold bodyMtwr
  grind [Res.wf, tileLanes_wf, addOp_mem]

theorem tilePad_wf {x : Ctx} {kind : Nat} (h : Memory.wf x.s.mem) : (tilePad x kind).wf := by
  unfold tilePad
  grind [Res.wf, engineOnce_wf, trapAll_wf, padTrap_wf, addOp_mem]

theorem bodyMldt_wf {x : Ctx} (h : Memory.wf x.s.mem) : (bodyMldt x).wf := tilePad_wf h

theorem bodyMstt_wf {x : Ctx} (h : Memory.wf x.s.mem) : (bodyMstt x).wf := tilePad_wf h

/-! ### The functions of Machine/EvMatrix.lean -/

theorem reportPad_wf {s : State} {o : Op} {b : Block} {errs : List Nat} (h : Memory.wf s.mem) : Memory.wf (reportPad s o b errs).mem :=
  foldl_wf (fun _ _ => softError_wf) _ h

theorem evMloopKstep_wf {s : State} {t : State} (h : Memory.wf s.mem) (e : evMloopKstep s = some t) : Memory.wf t.mem := by
  unfold evMloopKstep at e
  grind [padView_mem, reportPad_wf, modOp_mem, setBlock_mem]

theorem evMloopComplete_wf {s : State} {t : State} (h : Memory.wf s.mem) (e : evMloopComplete s = some t) : Memory.wf t.mem := by
  unfold evMloopComplete at e
  grind [endOp_mem]

theorem tileDo_wf {s : State} {o : Op} {b : Block} (h : Memory.wf s.mem) : Memory.wf (tileDo s o b).mem := by
  unfold tileDo
  grind [foldl_wf, setBlock_mem, landReg_mem, padView_mem, reportPad_wf, padDone_wf]

theorem evTileOpComplete_wf {s : State} {t : State} (h : Memory.wf s.mem) (e : evTileOpComplete s = some t) : Memory.wf t.mem := by
  unfold evTileOpComplete at e
  grind [endOp_mem, tileDo_wf]

@[simp] theorem writeDbgCtl_mem (core v : Nat) (s : State) : (writeDbgCtl core v s).mem = s.mem := by
  unfold writeDbgCtl
  split <;> rfl

theorem evMgo_wf {s : State} {t : State} (h : Memory.wf s.mem) (e : evMgo s = some t) : Memory.wf t.mem := by
  unfold evMgo at e
  grind [writeDbgCtl_mem]

/-! ### The functions of Machine/Launch.lean -/

@[simp] theorem newId_mem (s : State) : (newId s).2.mem = s.mem := rfl

theorem distRead_wf {s : State} {part va n : Nat} (h : Memory.wf s.mem) : Memory.wf (distRead s part va n).2.mem := by
  unfold distRead
  grind [xlateVa_wf, homePieces_wf]

@[simp] theorem peerWrite_mem (q pa n v part : Nat) (s : State) : (peerWrite q pa n v part s).mem = s.mem := by
  unfold peerWrite
  grind [queuePackets_mem]

theorem distWrite_wf {s : State} {part va n v : Nat} {t : State} (h : Memory.wf s.mem) (e : distWrite s part va n v = some t) : Memory.wf t.mem := by
  unfold distWrite at e
  grind [foldl_wf, xlateVa_wf, lineWrite_wf, peerWrite_mem, physWrite_wf]

theorem ownRead_wf {s : State} {part pa n : Nat} (h : Memory.wf s.mem) : Memory.wf (ownRead s part pa n).2.mem := by
  unfold ownRead
  grind [homeRead_wf, recallOwner_wf]

theorem ownWrite_wf {part pa n v : Nat} {s : State} (h : Memory.wf s.mem) : Memory.wf (ownWrite part pa n v s).mem := ite_wf (deviceWrite_wf h) h

theorem launchGrid_wf {s : State} {part : Nat} {r : LaunchRec} (h : Memory.wf s.mem) : Memory.wf (launchGrid s part r).2.mem := by
  unfold launchGrid
  grind [distRead_wf]

@[simp] theorem markPlaced_mem (s : State) (gr : Grid) : (markPlaced s gr).mem = s.mem := by
  unfold markPlaced
  split <;> rfl

@[simp] theorem startAcquire_mem (gid core : Nat) (ts : List Tok) (s : State) : (startAcquire gid core ts s).mem = s.mem := by
  unfold startAcquire
  grind [foldl_mem, acquired_mem]

@[simp] theorem placeBlock_mem (s : State) (gid core : Nat) : (placeBlock s gid core).mem = s.mem := by
  unfold placeBlock
  grind [foldl_mem, newId_mem, modPart_mem, setBlock_mem, markPlaced_mem, startAcquire_mem, setGroup_mem]

theorem placeAll_mem (fuel : Nat) {s t : State} {gid : Nat} (e : placeAll fuel s gid = some t) : t.mem = s.mem := by
  induction fuel generalizing s with
  | zero =>
    unfold placeAll at e
    grind
  | succ fuel ih =>
    unfold placeAll at e
    grind [placeBlock_mem]

@[simp] theorem startGrid_mem (s : State) (g0 : Grid) : (startGrid s g0).2.mem = s.mem := by
  unfold startGrid
  grind [newId_mem, setGrid_mem, placeAll_mem]

theorem signalToken_wf {part t : Nat} {ts : List Tok} {s : State} (h : Memory.wf s.mem) : Memory.wf (signalToken part t ts s).mem := by
  unfold signalToken
  grind [ownRead_wf, carry_mem, ownWrite_wf, lineError_wf]

@[simp] theorem notePre_mem (part : Nat) (s : State) : (notePre part s).mem = s.mem := by
  unfold notePre
  split <;> rfl

@[simp] theorem newOrder_mem (part : Nat) (s : State) : (newOrder part s).2.mem = s.mem := rfl

theorem spawnGrid_wf {x : Ctx} {s : State} {v : Nat} (h : Memory.wf s.mem) : Memory.wf (spawnGrid x s v).2.mem := by
  unfold spawnGrid
  grind [launchGrid_wf, newOrder_mem, startGrid_mem, modBlock_mem, modGrid_mem]

theorem bodySpawn_wf {x : Ctx} (h : Memory.wf x.s.mem) : (bodySpawn x).wf := by
  unfold bodySpawn
  grind [Res.wf, trapAll_wf, ctlPoison_wf, groupWide_wf, readAtIssue_wf, recordTrap_wf, spawnGrid_wf, releaseDone_mem, sweepOps_mem, addOp_mem,
    notePre_mem, modGroup_mem]

/-! ### The functions of Machine/EvLaunch.lean -/

theorem writeStatus_wf {part pa code : Nat} {gone : List Nat} {ts : List Tok} {s : State} (h : Memory.wf s.mem) :
    Memory.wf (writeStatus part pa code gone ts s).mem := by
  unfold writeStatus
  grind [foldl_wf, carry_mem, poolClean_mem, ownWrite_wf]

theorem distWrite_getD_wf {s u : State} {part at_ n v : Nat} (h : Memory.wf s.mem) (hu : Memory.wf u.mem) :
    Memory.wf ((distWrite s part at_ n v).getD u).mem := getD_wf hu fun _ e => distWrite_wf h e

theorem endDeadline_wf {part : Nat} {d : Deadline} {s : State} (h : Memory.wf s.mem) : Memory.wf (endDeadline part d s).mem := by
  unfold endDeadline
  grind [distWrite_getD_wf]

theorem recordRetired_wf {part : Nat} {dl : Option Deadline} {status : Nat} {sig : Option Nat} {gone : List Nat} {ts : List Tok} {s : State}
    (h : Memory.wf s.mem) : Memory.wf (recordRetired part dl status sig gone ts s).mem := by
  unfold recordRetired
  grind [endDeadline_wf, writeStatus_wf, signalToken_wf]

theorem settleRun_wf {rid : Nat} {s : State} (h : Memory.wf s.mem) : Memory.wf (settleRun rid s).mem := by
  unfold settleRun
  grind [distWrite_getD_wf, recordRetired_wf]

@[simp] theorem kidDone_mem (bid : Nat) (ts : List Tok) (s : State) : (kidDone bid ts s).mem = s.mem := by
  unfold kidDone
  grind [setBlock_mem, modPart_mem]

theorem settleGrid_wf (fuel : Nat) {gid : Nat} {s : State} (h : Memory.wf s.mem) : Memory.wf (settleGrid fuel gid s).mem := by
  induction fuel generalizing gid s with
  | zero => exact h
  | succ fuel ih =>
    unfold settleGrid
    split
    · exact h
    · split
      · exact h
      · rename_i g _ _
        extract_lets s1 ts s2 s3
        have h2 : Memory.wf s2.mem := by
          unfold s2
          split
          · exact recordRetired_wf h
          · exact h
        clear_value s2
        have h3 : Memory.wf s3.mem := by
          unfold s3
          split
          · exact settleRun_wf h2
          · exact h2
        clear_value s3
        split
        · exact ih (by simpa using h3)
        · exact h3

theorem settleBlock_wf {bid : Nat} {s : State} (h : Memory.wf s.mem) : Memory.wf (settleBlock bid s).mem := by
  unfold settleBlock
  grind [modPart_mem, settleGrid_wf, modGrid_mem]

@[simp] theorem settleResize_mem (fuel part : Nat) (s : State) : (settleResize fuel part s).mem = s.mem := by
  induction fuel generalizing s with
  | zero => rfl
  | succ fuel ih =>
    unfold settleResize
    grind [setPart_mem, partIrq_mem]

theorem evRallocGrant_wf {s : State} {t : State} (h : Memory.wf s.mem) (e : evRallocGrant s = some t) : Memory.wf t.mem := by
  unfold evRallocGrant at e
  grind [modCore_mem, settleResize_mem, notePre_mem, setGroup_mem]

theorem evRfreeReturn_wf {s : State} {t : State} (h : Memory.wf s.mem) (e : evRfreeReturn s = some t) : Memory.wf t.mem := by
  unfold evRfreeReturn at e
  grind [notePre_mem, modCore_mem, setGroup_mem]

theorem evGrowthDeadlockSpill_wf {s : State} {t : State} (h : Memory.wf s.mem) (e : evGrowthDeadlockSpill s = some t) : Memory.wf t.mem := by
  unfold evGrowthDeadlockSpill at e
  grind [Option.bind_eq_some_iff, Option.map_eq_some_iff, setBlock_mem]

@[simp] theorem retireRelease_mem (s : State) (g : Group) (grid : Nat) : (retireRelease s g grid).mem = s.mem := rfl

theorem evGroupRetire_wf {s : State} {t : State} (h : Memory.wf s.mem) (e : evGroupRetire s = some t) : Memory.wf t.mem := by
  unfold evGroupRetire at e
  grind [setGroup_mem, retireRelease_mem, modCore_mem, settleResize_mem, notePre_mem, settleBlock_wf]

theorem evBlockSave_wf {s : State} {t : State} (h : Memory.wf s.mem) (e : evBlockSave s = some t) : Memory.wf t.mem := by
  unfold evBlockSave at e
  grind [modCore_mem, setBlock_mem, modPart_mem, settleResize_mem, notePre_mem]

@[simp] theorem flushUpdates_mem (core : Nat) (s : State) : (flushUpdates core s).mem = s.mem := by
  unfold flushUpdates
  exact foldl_mem (fun _ _ => by rfl) _ _

theorem restoreBlock_wf {s : State} {b : Block} {core : Nat} (h : Memory.wf s.mem) : Memory.wf (restoreBlock s b core).mem := by
  unfold restoreBlock
  grind [foldl_wf, setBlock_mem, setGroup_mem, modCore_mem, acquired_mem, modPart_mem, trigNote_wf, flushUpdates_mem]

theorem evBlockRestore_wf {s : State} {t : State} (h : Memory.wf s.mem) (e : evBlockRestore s = some t) : Memory.wf t.mem := by
  unfold evBlockRestore at e
  grind [settleResize_mem, notePre_mem, restoreBlock_wf]

theorem evActiveSetEntry_wf {s : State} {t : State} (h : Memory.wf s.mem) (e : evActiveSetEntry s = some t) : Memory.wf t.mem := by
  unfold evActiveSetEntry at e
  grind [nextIssue_wf]

theorem evYieldExpire_wf {s : State} {t : State} (h : Memory.wf s.mem) (e : evYieldExpire s = some t) : Memory.wf t.mem := by
  unfold evYieldExpire at e
  grind [setGroup_mem]

theorem evTwaitResume_wf {s : State} {t : State} (h : Memory.wf s.mem) (e : evTwaitResume s = some t) : Memory.wf t.mem := by
  unfold evTwaitResume at e
  grind [setGroup_mem]

@[simp] theorem nextRecord_mem (part q : Nat) (s : State) : (nextRecord part q s).mem = s.mem := rfl

theorem refuseRecord_wf {part q pa code : Nat} {s : State} (h : Memory.wf s.mem) : Memory.wf (refuseRecord part q pa code s).mem := writeStatus_wf h

theorem takeGen_wf {s t : State} {part q pa addr params : Nat} {o : GraphObj} {gen : Nat} {cls sig : Option Nat} {dl : Option Deadline}
    {acq : List Tok}
    (h : Memory.wf s.mem) (e : takeGen s part q pa addr params o gen cls sig dl acq = some t) : Memory.wf t.mem := by
  unfold takeGen at e
  extract_lets dst src at e
  split at e
  · cases e
  · split at e
    · cases e
    · rename_i s1 h1
      obtain ⟨u, hu, hs1⟩ := Option.bind_eq_some_iff.mp h1
      have hw : Memory.wf s1.mem := distWrite_wf (distWrite_wf h hu) hs1
      cases e
      simpa using hw

theorem launchFrom_wf {s : State} {part q pa : Nat} {r : LaunchRec} {cls : Nat} {sig : Option Nat} {dl : Option Deadline} {acq : List Tok}
    (h : Memory.wf s.mem) : Memory.wf (launchFrom s part q pa r cls sig dl acq).mem := by
  unfold launchFrom
  grind [launchGrid_wf, refuseRecord_wf, newOrder_mem, startGrid_mem, nextRecord_mem]

theorem replayFrom_wf {s : State} {part q pa addr params : Nat} {cls sig : Option Nat} {dl : Option Deadline} {acq : List Tok} {t : State}
    (h : Memory.wf s.mem) (e : replayFrom s part q pa addr params cls sig dl acq = some t) : Memory.wf t.mem := by
  unfold replayFrom at e
  grind [refuseRecord_wf, takeGen_wf, nextRecord_mem]

theorem writeChoice_wf {s : State} {part : Nat} {c : Choice} (h : Memory.wf s.mem) : Memory.wf (writeChoice s part c).mem := distWrite_getD_wf h h

theorem startHead_wf {s : State} {part q : Nat} {r : Bool × State} (h : Memory.wf s.mem) (e : startHead s part q = some r) : Memory.wf r.2.mem := by
  unfold startHead at e
  repeat' split at e
  all_goals grind [Option.map_eq_some_iff, ownRead_wf, refuseRecord_wf, replayFrom_wf, writeChoice_wf, launchFrom_wf]

@[simp] theorem passTurn_mem (part q : Nat) (s t : State) : (passTurn part q s t).mem = t.mem := by
  unfold passTurn; split <;> rfl

theorem evBlockPlace_wf {s : State} {t : State} (h : Memory.wf s.mem) (e : evBlockPlace s = some t) : Memory.wf t.mem := by
  unfold evBlockPlace at e
  grind [settleResize_mem, notePre_mem, passTurn_mem, placeBlock_mem]

theorem oneQueue_wf {s t : State} {part q q' : Nat} {b : Bool} (h : Memory.wf s.mem) (e : oneQueue s part q = .start q' b t) : Memory.wf t.mem := by
  unfold oneQueue at e
  extract_lets kids at e
  repeat' split at e
  all_goals cases e
  exact startHead_wf h ‹_›

theorem queueAct_wf {s t : State} {part q : Nat} {pre : List (Nat × Nat)} {b : Bool} (qs : List Nat) (h : Memory.wf s.mem)
    (e : queueAct s part pre qs = .start q b t) : Memory.wf t.mem := by
  induction qs with
  | nil => cases e
  | cons q qs ih =>
    unfold queueAct at e
    grind [oneQueue_wf]

theorem distNext_wf {s t : State} {part q : Nat} {b : Bool} (h : Memory.wf s.mem) (e : distNext s part = .start q b t) : Memory.wf t.mem := by
  unfold distNext at e
  grind [queueAct_wf]

theorem evRecordStart_wf {s t : State} (h : Memory.wf s.mem) (e : evRecordStart s = some t) : Memory.wf t.mem := by
  unfold evRecordStart at e
  grind [distNext_wf, notePre_mem, passTurn_mem]

theorem evGraphReplayStart_wf {s t : State} (h : Memory.wf s.mem) (e : evGraphReplayStart s = some t) : Memory.wf t.mem := by
  unfold evGraphReplayStart at e
  grind [distNext_wf, notePre_mem]

theorem failRun_wf {rid code : Nat} {s : State} (h : Memory.wf s.mem) : Memory.wf (failRun rid code s).mem := by
  unfold failRun
  grind [settleRun_wf, writeStatus_wf]

theorem evGraphNodeStart_wf {s : State} {t : State} (h : Memory.wf s.mem) (e : evGraphNodeStart s = some t) : Memory.wf t.mem := by
  unfold evGraphNodeStart at e
  grind [failRun_wf, launchGrid_wf, startGrid_mem, notePre_mem, passTurn_mem]

theorem evTokenRecordFire_wf {s : State} {t : State} (h : Memory.wf s.mem) (e : evTokenRecordFire s = some t) : Memory.wf t.mem := by
  unfold evTokenRecordFire at e
  grind [signalToken_wf, nextRecord_mem, writeStatus_wf]

theorem evTokSignal_wf {s : State} {t : State} (h : Memory.wf s.mem) (e : evTokSignal s = some t) : Memory.wf t.mem := by
  unfold evTokSignal at e
  grind [signalToken_wf]

@[simp] theorem writeTail_mem (part q v vf : Nat) (s : State) : (writeTail part q v vf s).mem = s.mem := ite_mem rfl (setPart_mem _ _ _)

theorem evQueueTail_wf {s : State} {t : State} (h : Memory.wf s.mem) (e : evQueueTail s = some t) : Memory.wf t.mem := by
  unfold evQueueTail at e
  grind [writeTail_mem]

@[simp] theorem writeQueueCfg_mem (part q v0 : Nat) (s : State) : (writeQueueCfg part q v0 s).mem = s.mem := by
  unfold writeQueueCfg
  grind [setPart_mem, notePre_mem]

theorem evQueueCfg_wf {s : State} {t : State} (h : Memory.wf s.mem) (e : evQueueCfg s = some t) : Memory.wf t.mem := by
  unfold evQueueCfg at e
  grind [writeQueueCfg_mem]

/-! ### The functions of Machine/Render.lean -/

theorem renderOp_wf {x : Ctx} {n : Nat} {bad : Nat → Bool} {kind : List Nat → OpKind} (h : Memory.wf x.s.mem) : (renderOp x n bad kind).wf := by
  unfold renderOp
  grind [Res.wf, setGroup_mem, addOp_mem, endOp_mem, pump_wf]

theorem bodyRtrav_wf {x : Ctx} (h : Memory.wf x.s.mem) : (bodyRtrav x).wf := by
  unfold bodyRtrav
  grind [Res.wf, trapAll_wf, renderOp_wf]

theorem bodyTexf_wf {x : Ctx} (h : Memory.wf x.s.mem) : (bodyTexf x).wf := by
  unfold bodyTexf
  grind [Res.wf, trapAll_wf, renderOp_wf]

/-! ### The functions of Machine/EvRender.lean -/

theorem landRender_wf {o : Op} {d n : Nat} {rs : List (Nat × Except Halt (List Nat))} {s : State} (h : Memory.wf s.mem) :
    Memory.wf (landRender o d n rs s).mem := by
  unfold landRender
  grind [foldl_wf, landReg_mem, partFatal_wf, ownPoison_wf]

theorem renderDone_wf {s : State} {ok : OpKind → Option (Nat × Nat)} {t : State} (h : Memory.wf s.mem) (e : renderDone s ok = some t) :
    Memory.wf t.mem := by
  unfold renderDone at e
  grind [renderLanes_wf, endOp_mem, landRender_wf]

theorem evRtravComplete_wf {s : State} {t : State} (h : Memory.wf s.mem) (e : evRtravComplete s = some t) : Memory.wf t.mem := by
  unfold evRtravComplete at e
  grind [renderDone_wf]

theorem evTexfComplete_wf {s : State} {t : State} (h : Memory.wf s.mem) (e : evTexfComplete s = some t) : Memory.wf t.mem := by
  unfold evTexfComplete at e
  grind [renderDone_wf]

/-! ### The functions of Machine/HostSide.lean -/

theorem hostTake_wf {pa : Nat} {dirty : Option Nat} {s : State} (h : Memory.wf s.mem) : Memory.wf (hostTake pa dirty s).mem := recallOwner_wf h

theorem evHostRead_wf {s : State} {t : State} (h : Memory.wf s.mem) (e : evHostRead s = some t) : Memory.wf t.mem := by
  unfold evHostRead at e
  grind [l2Mend_wf, recallOwner_wf, lineError_wf, hostTake_wf]

theorem evHostWrite_wf {s : State} {t : State} (h : Memory.wf s.mem) (e : evHostWrite s = some t) : Memory.wf t.mem := by
  unfold evHostWrite at e
  grind [recallOwner_wf, hostTake_wf, deviceWrite_wf]

theorem writeWinBase_wf {v0 : Nat} {s : State} (h : Memory.wf s.mem) : Memory.wf (writeWinBase v0 s).mem := by
  unfold writeWinBase
  grind [foldl_wf, claimHalf_wf]

@[simp] theorem writeWinSize_mem (v : Nat) (s : State) : (writeWinSize v s).mem = s.mem := by
  unfold writeWinSize
  split <;> rfl

/-! ### The functions of Machine/Mgmt.lean -/

@[simp] theorem modBank_mem (core bank : Nat) (f : Bank → Bank) (s : State) : (modBank core bank f s).mem = s.mem := rfl

theorem dropWay_wf {core k : Nat} {s : State} (h : Memory.wf s.mem) : Memory.wf (dropWay core k s).mem := l1Leave_wf h

theorem bankWrite_wf {core v : Nat} {s : State} (h : Memory.wf s.mem) : Memory.wf (bankWrite core v s).mem := by
  unfold bankWrite
  grind [modCore_mem, modBank_mem, dropWay_wf]

@[simp] theorem endBankOps_mem (core bank : Nat) (s : State) : (endBankOps core bank s).mem = s.mem := by
  unfold endBankOps
  grind [foldl_mem, endOp_mem]

theorem tlbDrop_wf {part : Nat} {r : Nat × Nat} {s : State} (h : Memory.wf s.mem) : Memory.wf (tlbDrop part r s).mem := tlbEvict_wf h

@[simp] theorem tlbWrite_mem (part v : Nat) (oid : Option Nat) (s : State) : (tlbWrite part v oid s).mem = s.mem := by
  unfold tlbWrite
  split <;> rfl

@[simp] theorem dbgWrite_mem (core k v : Nat) (s : State) : (dbgWrite core k v s).mem = s.mem := rfl

@[simp] theorem setWays_mem (slice v : Nat) (s : State) : (setWays slice v s).mem = s.mem := rfl

@[simp] theorem wayGate_mem (slice w : Nat) (s : State) : (wayGate slice w s).mem = s.mem := by
  unfold wayGate
  dsimp only
  split <;> rfl

@[simp] theorem wayWake_mem (slice w : Nat) (s : State) : (wayWake slice w s).mem = s.mem := by
  unfold wayWake
  dsimp only
  split <;> rfl

@[simp] theorem wayWrite_mem (slice v : Nat) (s : State) : (wayWrite slice v s).mem = s.mem := by
  unfold wayWrite
  grind [foldl_mem, wayWake_mem, wayGate_mem]

theorem evLsBankSwitchDone_wf {s : State} {t : State} (h : Memory.wf s.mem) (e : evLsBankSwitchDone s = some t) : Memory.wf t.mem := by
  unfold evLsBankSwitchDone at e
  grind [modBank_mem, endBankOps_mem]

theorem evLsBankWakeDone_wf {s : State} {t : State} (h : Memory.wf s.mem) (e : evLsBankWakeDone s = some t) : Memory.wf t.mem := by
  unfold evLsBankWakeDone at e
  grind [endBankOps_mem, modBank_mem]

theorem evTlbInvComplete_wf {s : State} {t : State} (h : Memory.wf s.mem) (e : evTlbInvComplete s = some t) : Memory.wf t.mem := by
  unfold evTlbInvComplete at e
  grind [modPart_mem, tlbDrop_wf, endOp_mem]

@[simp] theorem drayWriteCfg_mem (part v : Nat) (s : State) : (drayWriteCfg part v s).mem = s.mem := by
  unfold drayWriteCfg
  split <;> rfl

/-! ### The functions of Machine/Resize.lean -/

@[simp] theorem clearPart_mem (part : Nat) (s : State) : (clearPart part s).mem = s.mem := rfl

@[simp] theorem goAct_mem (part : Nat) (grow : Bool) (s : State) : (goAct part grow s).mem = s.mem := by
  unfold goAct
  grind [setPart_mem, clearPart_mem]

theorem evGoResize_wf {s : State} {t : State} (h : Memory.wf s.mem) (e : evGoResize s = some t) : Memory.wf t.mem := by
  unfold evGoResize at e
  grind [goAct_mem, modPart_mem]

@[simp] theorem cancelAct_mem (part : Nat) (s : State) : (cancelAct part s).mem = s.mem := by
  unfold cancelAct
  grind [partIrq_mem, setPart_mem]

@[simp] theorem evdoneAct_mem (part : Nat) (s : State) : (evdoneAct part s).mem = s.mem := by
  unfold evdoneAct
  grind [settleResize_mem, setPart_mem]

theorem evPlanDone_wf {s : State} {t : State} (h : Memory.wf s.mem) (e : evPlanDone s = some t) : Memory.wf t.mem := by
  unfold evPlanDone at e
  grind [settleResize_mem, setPart_mem]

theorem evAdmit_wf {s : State} {t : State} (h : Memory.wf s.mem) (e : evAdmit s = some t) : Memory.wf t.mem := by
  unfold evAdmit at e
  grind [settleResize_mem, notePre_mem, setPart_mem]

theorem evShuntMove_wf {s : State} {t : State} (h : Memory.wf s.mem) (e : evShuntMove s = some t) : Memory.wf t.mem := by
  unfold evShuntMove at e
  grind [setBlock_mem]

theorem evRehashSweep_wf {s : State} {t : State} (h : Memory.wf s.mem) (e : evRehashSweep s = some t) : Memory.wf t.mem := by
  unfold evRehashSweep at e
  grind [setPart_mem]

theorem evRehashDone_wf {s : State} {t : State} (h : Memory.wf s.mem) (e : evRehashDone s = some t) : Memory.wf t.mem := by
  unfold evRehashDone at e
  grind [settleResize_mem, setPart_mem]

theorem copyFrame_wf {src dst : Nat} {s : State} (h : Memory.wf s.mem) : Memory.wf (copyFrame src dst s).mem :=
  shiftFrame_wf src dst _ _ (foldl_wf (fun _ _ => claimHalf_wf) _ h)

theorem evEvacFrameCopy_wf {s : State} {t : State} (h : Memory.wf s.mem) (e : evEvacFrameCopy s = some t) : Memory.wf t.mem := by
  unfold evEvacFrameCopy at e
  grind [modPart_mem, copyFrame_wf]

theorem scrubQuad_wf {part q : Nat} {s0 : State} (h : Memory.wf s0.mem) : Memory.wf (scrubQuad part q s0).mem := tlbEvict_wf h

theorem scrubGroup_wf {part n : Nat} {s : State} (h : Memory.wf s.mem) : Memory.wf (scrubGroup part n s).mem := mem_filter_wf _ _ h

@[simp] theorem scrubSlice_mem (part n : Nat) (s : State) : (scrubSlice part n s).mem = s.mem := rfl

theorem evScrubDone_wf {s : State} {t : State} (h : Memory.wf s.mem) (e : evScrubDone s = some t) : Memory.wf t.mem := by
  unfold evScrubDone at e
  grind [settleResize_mem, modPart_mem, scrubQuad_wf, scrubSlice_mem, scrubGroup_wf]

@[simp] theorem writeWchan_mem (part v0 : Nat) (s : State) : (writeWchan part v0 s).mem = s.mem := by
  unfold writeWchan
  dsimp only
  split <;> rfl

@[simp] theorem writePid_mem (part v : Nat) (s : State) : (writePid part v s).mem = s.mem := rfl

/-! ### The functions of Machine/Firmware.lean -/

theorem viaEvent_wf {f : State → Option State} {a : EvArgs} {s : State} (hf : ∀ t u, Memory.wf t.mem → f t = some u → Memory.wf u.mem)
    (h : Memory.wf s.mem) : Memory.wf (viaEvent f a s).mem := by
  unfold viaEvent
  cases e : f { s with ev := a } with
  | none => exact h
  | some u => exact hf { s with ev := a } u h e

@[simp] theorem mbxWrite_mem (off v : Nat) (s : State) : (mbxWrite off v s).mem = s.mem := by
  unfold mbxWrite
  grind

@[simp] theorem dataWrite_mem (off n v : Nat) (s : State) : (dataWrite off n v s).mem = s.mem := by
  unfold dataWrite
  split <;> rfl

theorem pkgWrite_wf {off v : Nat} {s : State} (h : Memory.wf s.mem) : Memory.wf (pkgWrite off v s).mem := by
  unfold pkgWrite
  refine ite_wf (viaEvent_wf (fun _ _ => evFabMembers_wf) h) ?_
  split
  · exact viaEvent_wf (fun _ _ => evFabClass_wf) h
  · exact h
  · exact h
  · exact h
  · exact h
  · exact viaEvent_wf (fun _ _ => evPoolRsync_wf) h
  · exact h
  · exact viaEvent_wf (fun _ _ => evPtpCfg_wf) h
  · exact h
  · exact writeWinBase_wf h
  · rw [writeWinSize_mem]; exact h
  · exact h

@[simp] theorem placeReg_mem (part base n : Nat) (f : Part → Part) (s : State) : (placeReg part base n f s).mem = s.mem := by
  unfold placeReg
  split <;> rfl

theorem coreWrite_wf {core r v : Nat} {s : State} (h : Memory.wf s.mem) : Memory.wf (coreWrite core r v s).mem := by
  unfold coreWrite
  grind [bankWrite_wf, dbgWrite_mem, writeDbgCtl_mem]

@[simp] theorem writeResize_mem (part v : Nat) (s : State) : (writeResize part v s).mem = s.mem := by
  unfold writeResize
  grind [modPart_mem, goAct_mem, cancelAct_mem, evdoneAct_mem]

theorem winWrite_wf {part off v : Nat} {s : State} (h : Memory.wf s.mem) : Memory.wf (winWrite part off v s).mem := by
  unfold winWrite
  extract_lets p up
  refine ite_wf h (ite_wf h (ite_wf h (ite_wf ?_ (ite_wf h (ite_wf ?_ (ite_wf ?_ (ite_wf (ite_wf (coreWrite_wf h) h) (ite_wf (ite_wf ?_ h) ?_))))))))
  · rw [writeResize_mem]; exact h
  · rw [writeQueueCfg_mem]; exact h
  · rw [writeTail_mem]; exact h
  · rw [wayWrite_mem]; exact h
  · split
    · exact h
    · rw [placeReg_mem]; exact h
    · rw [writeWchan_mem]; exact h
    · rw [placeReg_mem]; exact h
    · exact h
    · rw [writePid_mem]; exact h
    · exact h
    · rw [placeReg_mem]; exact h
    · exact h
    · rw [drayWriteCfg_mem]; exact h
    · rw [tlbWrite_mem]; exact h
    · exact ite_wf (signalToken_wf h) h
    · exact h
    · exact h

theorem mgmtWrite_wf {off v0 n : Nat} {s : State} (h : Memory.wf s.mem) : Memory.wf (mgmtWrite off v0 n s).mem := by
  unfold mgmtWrite
  grind [dataWrite_mem, pkgWrite_wf, mbxWrite_mem, winWrite_wf]

theorem vfWrite_wf {vf off v n : Nat} {s : State} (h : Memory.wf s.mem) : Memory.wf (vfWrite vf off v n s).mem := by
  unfold vfWrite
  grind [writeTail_mem, signalToken_wf]

theorem evMgmtRegisterWrite_wf {s : State} {t : State} (h : Memory.wf s.mem) (e : evMgmtRegisterWrite s = some t) : Memory.wf t.mem := by
  unfold evMgmtRegisterWrite at e
  grind [vfWrite_wf, mgmtWrite_wf]

theorem bootTail_wf {ver : Nat} {s : State} (h : Memory.wf s.mem) : Memory.wf (bootTail ver s).mem :=
  memSet_wf _ _ _ _ (mem_filter_wf _ _ h)

theorem bootRest_wf {ver : Nat} {s : State} (h : Memory.wf s.mem) : Memory.wf (bootRest ver s).mem := by
  unfold bootRest
  split
  · exact bootTail_wf h
  · exact h

theorem bootAll_wf {s : State} (h : Memory.wf s.mem) : Memory.wf (bootAll s).mem := by
  unfold bootAll
  split
  · exact bootRest_wf h
  · exact h

theorem evReset_wf {s t : State} (h : Memory.wf s.mem) (e : evReset s = some t) : Memory.wf t.mem := by
  obtain rfl := Option.some.inj e
  exact bootAll_wf (mem_filter_wf _ _ h)

theorem mbxFail_wf {s : State} {r : Nat} (h : Memory.wf s.mem) : Memory.wf (mbxFail s r).st.mem := by
  simpa [mbxFail] using h

@[simp] theorem mbxEnd_mem (o : MbxOut) : (mbxEnd o).mem = o.st.mem := rfl

theorem mailbox_wf {code : Nat} {permitted : Bool} {run : MbxOut} {s t : State} (hr : Memory.wf run.st.mem) (h : Memory.wf s.mem)
    (e : mailbox code permitted run s = some t) : Memory.wf t.mem := by
  unfold mailbox at e
  grind [mbxEnd_mem, mbxFail]

theorem mbxImgChunk_wf {s : State} (h : Memory.wf s.mem) : Memory.wf (mbxImgChunk s).st.mem := by
  unfold mbxImgChunk
  dsimp only
  split
  · exact h
  · exact mbxFail_wf h

theorem mbxImgRun_wf {s : State} (h : Memory.wf s.mem) : Memory.wf (mbxImgRun s).st.mem := by
  unfold mbxImgRun
  grind [mbxFail_wf, bootRest_wf]

theorem mbxImgFlash_wf {s : State} (h : Memory.wf s.mem) : Memory.wf (mbxImgFlash s).st.mem := by
  unfold mbxImgFlash
  grind [mbxFail_wf]

theorem mbxCfgWrite_wf {s : State} (h : Memory.wf s.mem) : Memory.wf (mbxCfgWrite s).st.mem := by
  unfold mbxCfgWrite
  grind [mbxFail_wf, bootTail_wf]

theorem mbxPwrLimit_wf {s : State} (h : Memory.wf s.mem) : Memory.wf (mbxPwrLimit s).st.mem := by
  unfold mbxPwrLimit
  dsimp only
  split
  · exact h
  · exact mbxFail_wf h

theorem onPart_wf {s : State} {f : Part → MbxOut} (h : Memory.wf s.mem) (hf : ∀ p, Memory.wf (f p).st.mem) : Memory.wf (onPart s f).st.mem := by
  unfold onPart
  grind [mbxFail]

theorem partDone_wf {s : State} {p : Part} (h : Memory.wf s.mem) : Memory.wf (partDone s p).st.mem := by
  simpa [partDone] using h

theorem mbxKeySet_wf {s : State} (h : Memory.wf s.mem) : Memory.wf (mbxKeySet s).st.mem := by
  unfold mbxKeySet
  grind [onPart_wf, mbxFail_wf, partDone_wf]

theorem mbxKeyClear_wf {s : State} (h : Memory.wf s.mem) : Memory.wf (mbxKeyClear s).st.mem := by
  unfold mbxKeyClear
  grind [onPart_wf, mbxFail_wf, partDone_wf]

theorem mbxLoadPolicy_wf {s : State} (h : Memory.wf s.mem) : Memory.wf (mbxLoadPolicy s).st.mem := by
  unfold mbxLoadPolicy
  grind [onPart_wf, mbxFail_wf, partDone_wf]

theorem mbxQuote_wf {s : State} (h : Memory.wf s.mem) : Memory.wf (mbxQuote s).st.mem := by
  unfold mbxQuote
  grind [onPart_wf]

theorem setLeaves_wf {g : Seg} {ex part : Nat} {ps : List (Nat × Nat)} {s : State} (h : Memory.wf s.mem) : Memory.wf (setLeaves g ex part ps s).mem :=
  foldl_wf (fun _ _ => physWrite_wf) _ h

theorem copySeg_wf {part base : Nat} {g : Seg} {ps : List (Nat × Nat)} {s : State} (h : Memory.wf s.mem) :
    Memory.wf (copySeg part base g ps s).mem :=
  foldl_wf (fun _ _ ht => foldl_wf (fun _ _ => lineWrite_wf) _ ht) _ (setLeaves_wf h)

theorem mbxLoad_wf {s : State} (h : Memory.wf s.mem) : Memory.wf (mbxLoad s).st.mem := by
  refine onPart_wf h (fun p => ?_)
  extract_lets part base len load pages
  split
  · exact h
  · cases segTable s part base len with
    | none => exact h
    | some gs => 
      dsimp -zeta only
      extract_lets idx s1 ar q s2
      have h1 : Memory.wf s1.mem := foldl_wf (fun t g ht => ite_wf ht (copySeg_wf ht)) _ h
      have h2 : Memory.wf s2.mem := h1
      clear_value s2 s1
      split
      · exact h
      · split
        · exact h1
        · exact foldl_wf (fun t g ht => ite_wf (setLeaves_wf ht) ht) _ h2

@[simp] theorem stopAll_mem (s : State) : (stopAll s).mem = s.mem := rfl

theorem evPackageFatalError_wf {s : State} {t : State} (h : Memory.wf s.mem) (e : evPackageFatalError s = some t) : Memory.wf t.mem := by
  unfold evPackageFatalError at e
  grind [writeDump_wf, rasLog_wf, stopAll_mem]

@[simp] theorem setClock_mem (power clock : Nat) (cap : Bool) (s : State) : (setClock power clock cap s).mem = s.mem := rfl

theorem evPowerLimitControl_wf {s : State} {t : State} (h : Memory.wf s.mem) (e : evPowerLimitControl s = some t) : Memory.wf t.mem := by
  unfold evPowerLimitControl at e
  grind [setClock_mem]

/-! ### The functions of Machine/Sys.lean -/

theorem csrAccess_wf {x : Ctx} {write : Bool} {val : Nat × Bool} {k : Csr → Res} (h : Memory.wf x.s.mem) (hk : ∀ c, (k c).wf) :
    (csrAccess x write val k).wf := by
  unfold csrAccess
  grind [Res.wf, trapAll_wf, ctlPoison_wf]

theorem bodyCsrr_wf {x : Ctx} (h : Memory.wf x.s.mem) : (bodyCsrr x).wf := by
  unfold bodyCsrr
  grind [Res.wf, csrAccess_wf, setGroup_mem]

@[simp] theorem svRuns_mem (x : Ctx) (what bank : Nat) (s : State) : (svRuns x what bank s).mem = s.mem := rfl

theorem csrWrite_wf {x : Ctx} {c : Csr} {v : Nat} (h : Memory.wf x.s.mem) : (csrWrite x c v).wf := by
  unfold csrWrite
  grind [Res.wf, setGroup_mem, dbgWrite_mem, writeDbgCtl_mem, svRuns_mem, bankWrite_wf, endOp_mem, tlbWrite_mem]

theorem bodyCsrw_wf {x : Ctx} (h : Memory.wf x.s.mem) : (bodyCsrw x).wf := by
  unfold bodyCsrw
  grind [Res.wf, csrAccess_wf, csrWrite_wf]

theorem skipTo_wf {g : Group} {len : Nat} {s : State} (h : Memory.wf s.mem) : Memory.wf (skipTo g len s).mem := ite_wf (recapture_wf h) h

theorem bodyEret_wf {x : Ctx} (h : Memory.wf x.s.mem) : (bodyEret x).wf := by
  unfold bodyEret
  grind [Res.wf, trapAll_wf, setGroup_mem, fetchAt_wf, skipTo_wf]

theorem bodyTime_wf {x : Ctx} (h : Memory.wf x.s.mem) : (bodyTime x).wf := by
  unfold bodyTime
  grind [Res.wf, ctlPoison_wf, setGroup_mem]

theorem bodySvc_wf {x : Ctx} (h : Memory.wf x.s.mem) : (bodySvc x).wf := by
  unfold bodySvc
  grind [Res.wf, ctlPoison_wf, takeTrap_wf]

/-! ### The functions of Machine/Schedule.lean -/

theorem enterDue_wf (fuel : Nat) {s : State} (h : Memory.wf s.mem) : Memory.wf (enterDue fuel s).mem := by
  induction fuel generalizing s with
  | zero => exact h
  | succ fuel ih =>
    unfold enterDue
    split
    · rename_i t ht
      obtain ⟨e, -, he⟩ := List.exists_of_findSome?_eq_some ht
      split at he
      · have hw : Memory.wf t.mem := evActiveSetEntry_wf (s := { s with ev := { a := e.1 } }) h he
        exact ih hw
      · cases he
    · exact h

/-! ### Instruction words: the effects, and the course of an issue around them -/

/-- Every word's own effect answers a canonical memory. A word that only computes in lanes answers the memory that it found. -/
theorem bodyOf_wf (i : Instr) {x : Ctx} (h : Memory.wf x.s.mem) : (bodyOf i x).wf := by
  cases i
  case mov | movExt => exact bodyMov_wf h
  case qblk => exact bodyQblk_wf h
  case dqblk => exact bodyDqblk_wf h
  case bra | braExt => exact bodyBra_wf h
  case brx => exact bodyBrx_wf h
  case call | callExt => exact bodyCall_wf h
  case ret | retExt => exact bodyRet_wf h
  case loopOp => exact bodyLoop_wf h
  case exitOp | exitOpExt => exact bodyExit_wf h
  case trap => exact bodyTrap_wf h
  case brk => exact bodyBrk_wf h
  case waitc => exact bodyWaitc_wf h
  case bar => exact bodyBar_wf h
  case abinit => exact bodyAbinit_wf h
  case abarv => exact bodyAbarv_wf h
  case abwait => exact bodyAbwait_wf h
  case abexp => exact bodyAbexp_wf h
  case stgw => exact bodyStgw_wf h
  case stgp => exact bodyStgp_wf h
  case spawn => exact bodySpawn_wf h
  case joinOp => exact bodyJoin_wf h
  case ralloc => exact bodyRalloc_wf h
  case rfree => exact bodyRfree_wf h
  case twait => exact bodyTwait_wf h
  case ld | ldExt => exact bodyLd_wf h
  case st | stExt => exact bodySt_wf h
  case ldp => exact bodyLdp_wf h
  case stp => exact bodyStp_wf h
  case atom => exact bodyAtom_wf h
  case atomn => exact bodyAtomn_wf h
  case atomw => exact bodyAtomw_wf h
  case atomp => exact bodyAtomp_wf h
  case fence => exact bodyFence_wf h
  case xfence => exact bodyXfence_wf h
  case xlt => exact bodyXlt_wf h
  case pref => exact bodyPref_wf h
  case cflush => exact bodyCflush_wf h
  case cinv => exact bodyCinv_wf h
  case hcopy => exact bodyHcopy_wf h
  case hxpose => exact bodyHxpose_wf h
  case hfill => exact bodyHfill_wf h
  case hrem => exact bodyHrem_wf h
  case hsig => exact bodyHsig_wf h
  case htrig => exact bodyHtrig_wf h
  case gath => exact bodyGath_wf h
  case scat => exact bodyScat_wf h
  case mloop => exact bodyMloop_wf h
  case mzero => exact bodyMzero_wf h
  case mtrd => exact bodyMtrd_wf h
  case mtwr => exact bodyMtwr_wf h
  case mldt => exact bodyMldt_wf h
  case mstt => exact bodyMstt_wf h
  case rtrav => exact bodyRtrav_wf h
  case texf => exact bodyTexf_wf h
  case wsend => exact bodyWsend_wf h
  case wrecv => exact bodyWrecv_wf h
  case wbay => exact bodyWbay_wf h
  case coll => exact bodyColl_wf h
  case cmpj => exact bodyCmpj_wf h
  case cmpq => exact bodyCmpq_wf h
  case csrr => exact bodyCsrr_wf h
  case csrw => exact bodyCsrw_wf h
  case eret => exact bodyEret_wf h
  case time => exact bodyTime_wf h
  case svc => exact bodySvc_wf h
  all_goals exact h

theorem runWord_wf {r : Raw} {body : Ctx → Res} {s t : State} (h : Memory.wf s.mem) (hb : ∀ x : Ctx, Memory.wf x.s.mem → (body x).wf)
    (e : runWord r body s = .next t) : Memory.wf t.mem := by
  unfold runWord at e
  split at e
  · cases e
  split at e
  · cases e
  split at e
  · cases e
  extract_lets i x at e
  have hx : Memory.wf x.s.mem := h
  have hres : (settleRes x (body x)).wf := settleRes_wf (hb x hx)
  clear_value x
  split at e
  · obtain rfl := Host.Outcome.next.inj e
    exact trapNow_wf hx
  split at e
  · obtain rfl := Host.Outcome.next.inj e
    exact trapNow_wf hx
  split at e
  · obtain rfl := Host.Outcome.next.inj e
    exact trapNow_wf hx
  split at e
  · obtain rfl := Host.Outcome.next.inj e
    exact trapNow_wf hx
  · rename_i s1 _ hs
    rw [hs] at hres
    obtain rfl := Host.Outcome.next.inj e
    exact trapNow_wf hres
  · obtain rfl := Host.Outcome.next.inj e
    exact h
  · obtain rfl := Host.Outcome.next.inj e
    exact finishIssue_wf h
  · rename_i s1 _ hs
    rw [hs] at hres
    split at e
    · obtain rfl := Host.Outcome.next.inj e
      exact h
    · obtain rfl := Host.Outcome.next.inj e
      exact finishIssue_wf hres

/-! ### Events -/

theorem eventOut_wf {s t : State} {r : Option State} (h : Memory.wf s.mem) (hr : ∀ u, r = some u → Memory.wf u.mem) (e : eventOut s r = .next t) :
    Memory.wf t.mem := by
  unfold eventOut at e
  split at e
  · obtain rfl := Host.Outcome.next.inj e
    exact ite_wf h (pump_wf (hr _ rfl))
  · obtain rfl := Host.Outcome.next.inj e
    exact h

/-- An event that, where it can happen, answers `u`. -/
theorem eventOut_ite_wf {s t u : State} {c : Prop} [Decidable c] (h : Memory.wf s.mem) (hu : Memory.wf u.mem)
    (e : eventOut s (if c then some u else none) = .next t) : Memory.wf t.mem :=
  eventOut_wf h (fun v hv => by split at hv <;> cases hv; exact hu) e

/-- An event that can always happen. -/
theorem eventOut_some_wf {s t u : State} (h : Memory.wf s.mem) (hu : Memory.wf u.mem) (e : eventOut s (some u) = .next t) : Memory.wf t.mem :=
  eventOut_wf h (fun _ hv => Option.some.inj hv ▸ hu) e

/-- A command of the mailbox. -/
theorem eventOut_mailbox_wf {code : Nat} {permitted : Bool} {run : MbxOut} {s t : State} (h : Memory.wf s.mem) (hr : Memory.wf run.st.mem)
    (e : eventOut s (mailbox code permitted run s) = .next t) : Memory.wf t.mem :=
  eventOut_wf h (fun _ => mailbox_wf hr h) e

theorem execEvent_wf {i : Instr} {s t : State} (hi : rawInstr i = none) (h : Memory.wf s.mem) (e : exec i s = .next t) : Memory.wf t.mem := by
  cases i
  case loadDataReturn => exact eventOut_wf h (fun _ => evLoadDataReturn_wf h) e
  case groupRetire => exact eventOut_wf h (fun _ => evGroupRetire_wf h) e
  case blockPlace => exact eventOut_wf h (fun _ => evBlockPlace_wf h) e
  case rallocGrant => exact eventOut_wf h (fun _ => evRallocGrant_wf h) e
  case rfreeReturn => exact eventOut_wf h (fun _ => evRfreeReturn_wf h) e
  case growthDeadlockSpill => exact eventOut_wf h (fun _ => evGrowthDeadlockSpill_wf h) e
  case blockSave => exact eventOut_wf h (fun _ => evBlockSave_wf h) e
  case blockRestore => exact eventOut_wf h (fun _ => evBlockRestore_wf h) e
  case activeSetEntry => exact eventOut_wf h (fun _ => evActiveSetEntry_wf h) e
  case yieldExpire => exact eventOut_wf h (fun _ => evYieldExpire_wf h) e
  case twaitResume => exact eventOut_wf h (fun _ => evTwaitResume_wf h) e
  case htrigFire => exact eventOut_wf h (fun _ => evHtrigFire_wf h) e
  case haulOpComplete => exact eventOut_wf h (fun _ => evHaulOpComplete_wf h) e
  case haulOpFault => exact eventOut_wf h (fun _ => evHaulOpFault_wf h) e
  case hremSignal => exact eventOut_wf h (fun _ => evHremSignal_wf h) e
  case ntOpComplete => exact eventOut_wf h (fun _ => evNtOpComplete_wf h) e
  case gathScatComplete => exact eventOut_wf h (fun _ => evGathScatComplete_wf h) e
  case mloopKstep => exact eventOut_wf h (fun _ => evMloopKstep_wf h) e
  case mloopComplete => exact eventOut_wf h (fun _ => evMloopComplete_wf h) e
  case tileOpComplete => exact eventOut_wf h (fun _ => evTileOpComplete_wf h) e
  case rtravComplete => exact eventOut_wf h (fun _ => evRtravComplete_wf h) e
  case texfComplete => exact eventOut_wf h (fun _ => evTexfComplete_wf h) e
  case homeStoreApply => exact eventOut_wf h (fun _ => evHomeStoreApply_wf h) e
  case sharerUpdate => exact eventOut_wf h (fun _ => evSharerUpdate_wf h) e
  case storeComplete => exact eventOut_wf h (fun _ => evStoreComplete_wf h) e
  case l1Fill => exact eventOut_wf h (fun _ => evL1Fill_wf h) e
  case ownershipRecall => exact eventOut_wf h (fun _ => evOwnershipRecall_wf h) e
  case farAtomic => exact eventOut_wf h (fun _ => evFarAtomic_wf h) e
  case directoryRebuild => exact eventOut_wf h (fun _ => evDirectoryRebuild_wf h) e
  case hostRead => exact eventOut_wf h (fun _ => evHostRead_wf h) e
  case hostWrite => exact eventOut_wf h (fun _ => evHostWrite_wf h) e
  case poolBackInvalidate => exact eventOut_wf h (fun _ => evPoolBackInvalidate_wf h) e
  case tlbInvComplete => exact eventOut_wf h (fun _ => evTlbInvComplete_wf h) e
  case lsBankSwitchDone => exact eventOut_wf h (fun _ => evLsBankSwitchDone_wf h) e
  case lsBankWakeDone => exact eventOut_wf h (fun _ => evLsBankWakeDone_wf h) e
  case fabMembers => exact eventOut_wf h (fun _ => evFabMembers_wf h) e
  case peerUnreachable => exact eventOut_wf h (fun _ => evPeerUnreachable_wf h) e
  case fabClass => exact eventOut_wf h (fun _ => evFabClass_wf h) e
  case read => exact eventOut_wf h (fun _ => evRead_wf h) e
  case readData => exact eventOut_wf h (fun _ => evReadData_wf h) e
  case write => exact eventOut_wf h (fun _ => evWrite_wf h) e
  case atomicReq => exact eventOut_wf h (fun _ => evAtomicReq_wf h) e
  case atomicData => exact eventOut_wf h (fun _ => evAtomicData_wf h) e
  case acknowledgement => exact eventOut_wf h (fun _ => evAcknowledgement_wf h) e
  case rateIncrease => exact eventOut_wf h (fun _ => evRateIncrease_wf h) e
  case signal => exact eventOut_wf h (fun _ => evSignal_wf h) e
  case wagon => exact eventOut_wf h (fun _ => evWagon_wf h) e
  case credit => exact eventOut_wf h (fun _ => evCredit_wf h) e
  case multicastWrite => exact eventOut_wf h (fun _ => evMulticastWrite_wf h) e
  case multicastCopyDrop => exact eventOut_wf h (fun _ => evMulticastCopyDrop_wf h) e
  case branchNack => exact eventOut_wf h (fun _ => evBranchNack_wf h) e
  case poolRsync => exact eventOut_wf h (fun _ => evPoolRsync_wf h) e
  case landauJobStart => exact eventOut_wf h (fun _ => evLandauJobStart_wf h) e
  case uetMessage => exact eventOut_wf h (fun _ => evUetMessage_wf h) e
  case landauTimeout => exact eventOut_wf h (fun _ => evLandauTimeout_wf h) e
  case collChildArrive => exact eventOut_wf h (fun _ => evCollChildArrive_wf h) e
  case collComplete => exact eventOut_wf h (fun _ => evCollComplete_wf h) e
  case ptpEventMessage => exact eventOut_wf h (fun _ => evPtpEventMessage_wf h) e
  case ptpSyncLoss => exact eventOut_wf h (fun _ => evPtpSyncLoss_wf h) e
  case ptpCfg => exact eventOut_wf h (fun _ => evPtpCfg_wf h) e
  case queueTail => exact eventOut_wf h (fun _ => evQueueTail_wf h) e
  case queueCfg => exact eventOut_wf h (fun _ => evQueueCfg_wf h) e
  case recordStart => exact eventOut_wf h (fun _ => evRecordStart_wf h) e
  case tokSignal => exact eventOut_wf h (fun _ => evTokSignal_wf h) e
  case tokenRecordFire => exact eventOut_wf h (fun _ => evTokenRecordFire_wf h) e
  case graphReplayStart => exact eventOut_wf h (fun _ => evGraphReplayStart_wf h) e
  case graphNodeStart => exact eventOut_wf h (fun _ => evGraphNodeStart_wf h) e
  case goResize => exact eventOut_wf h (fun _ => evGoResize_wf h) e
  case planDone => exact eventOut_wf h (fun _ => evPlanDone_wf h) e
  case admitEvent => exact eventOut_wf h (fun _ => evAdmit_wf h) e
  case shuntMove => exact eventOut_wf h (fun _ => evShuntMove_wf h) e
  case rehashSweep => exact eventOut_wf h (fun _ => evRehashSweep_wf h) e
  case rehashDone => exact eventOut_wf h (fun _ => evRehashDone_wf h) e
  case evacFrameCopy => exact eventOut_wf h (fun _ => evEvacFrameCopy_wf h) e
  case scrubDone => exact eventOut_wf h (fun _ => evScrubDone_wf h) e
  case mgmtRegisterWrite => exact eventOut_wf h (fun _ => evMgmtRegisterWrite_wf h) e
  case mgo => exact eventOut_wf h (fun _ => evMgo_wf h) e
  case packageFatalError => exact eventOut_wf h (fun _ => evPackageFatalError_wf h) e
  case powerLimitControl => exact eventOut_wf h (fun _ => evPowerLimitControl_wf h) e
  case svOperationComplete => exact eventOut_wf h (fun _ => evSvOperationComplete_wf h) e
  case ngaubPortDown => exact eventOut_wf h (fun _ => evNgaubPortDown_wf h) e
  case ngaubPortUp => exact eventOut_wf h (fun _ => evNgaubPortUp_wf h) e
  case poolLinkTrained => exact eventOut_wf h (fun _ => evPoolLinkTrained_wf h) e
  case uetLinkError => exact eventOut_wf h (fun _ => evUetLinkError_wf h) e
  case tlbInv => exact eventOut_ite_wf h (by simpa using h) e
  case lsBankSwitch | lsBankGate => exact eventOut_ite_wf h (bankWrite_wf h) e
  case l2WayGate | l2WayGateDone | l2WayWake | l2WayWakeDone => exact eventOut_ite_wf h (by simpa using h) e
  case hostWinbase => exact eventOut_some_wf h (writeWinBase_wf h) e
  case hostWinsize => exact eventOut_some_wf h (by simpa using h) e
  case drayCfg => exact eventOut_ite_wf h (by simpa using h) e
  case poolLinkLost | poolLinkDownTimeout => exact eventOut_wf h (fun _ => onLinkLoss_wf h) e
  case poolRequestTimeout =>
    refine eventOut_wf h (fun u hu => ?_) e
    obtain ⟨-, hu⟩ | ⟨-, hu⟩ := ite_eq_iff.mp hu
    · exact onLinkLoss_wf h hu
    · cases hu
  case cancel | evdone | partWchan | landauPid => exact eventOut_ite_wf h (by simpa using h) e
  case resetEvent => exact evReset_wf h (congrArg some (Host.Outcome.next.inj e))
  case imgChunk => exact eventOut_mailbox_wf h (mbxImgChunk_wf h) e
  case imgRun => exact eventOut_mailbox_wf h (mbxImgRun_wf h) e
  case imgFlash => exact eventOut_mailbox_wf h (mbxImgFlash_wf h) e
  case cfgWrite => exact eventOut_mailbox_wf h (mbxCfgWrite_wf h) e
  case testEnter => exact eventOut_mailbox_wf h h e
  case pwrLimit => exact eventOut_mailbox_wf h (mbxPwrLimit_wf h) e
  case dumpRelease => exact eventOut_mailbox_wf h h e
  case identity => exact eventOut_mailbox_wf h h e
  case keySet => exact eventOut_mailbox_wf h (mbxKeySet_wf h) e
  case keyClear => exact eventOut_mailbox_wf h (mbxKeyClear_wf h) e
  case loadPolicy => exact eventOut_mailbox_wf h (mbxLoadPolicy_wf h) e
  case loadContainer => exact eventOut_mailbox_wf h (mbxLoad_wf h) e
  case quote => exact eventOut_mailbox_wf h (mbxQuote_wf h) e
  case mbxUnknownCommand =>
    refine eventOut_wf h (fun u hu => ?_) e
    obtain ⟨-, hu⟩ | ⟨-, hu⟩ := ite_eq_iff.mp hu
    · cases hu
    · exact mailbox_wf (run := mbxFail s 1) h h hu
  case thermalTrip | feedFault => exact eventOut_some_wf (u := powerLost s) h h e
  all_goals cases hi

/-! ### A turn -/

theorem exec_wf {i : Instr} {s t : State} (h : Memory.wf s.mem) (e : exec i s = .next t) : Memory.wf t.mem := by
  cases hi : rawInstr i with
  | none => exact execEvent_wf hi h e
  | some r => exact runWord_wf h (fun _ => bodyOf_wf i) ((exec_bodyOf i r hi s).symm.trans e)

theorem issueOf_wf {s t : State} {ready : List (Group × Pick)} {g : Group} {p : Pick} (hp : Memory.wf p.st.mem)
    (e : issueOf s ready g p = .next t) : Memory.wf t.mem := by
  unfold issueOf at e
  dsimp only at e
  split at e
  · obtain rfl := Host.Outcome.next.inj e
    exact fetchTrap_wf (by simpa using hp)
  · exact exec_wf (by simpa using hp) e

theorem eventTurn_wf {i : Instr} {a : EvArgs} {s t : State} (h : Memory.wf s.mem) (e : eventTurn i a s = .next t) : Memory.wf t.mem := by
  unfold eventTurn at e
  split at e
  · obtain rfl := Host.Outcome.next.inj e
    exact h
  · exact exec_wf (s := { s with ev := a }) h e

theorem issueTurn_wf {gid : Nat} {s t : State} (h : Memory.wf s.mem) (e : issueTurn gid s = .next t) : Memory.wf t.mem := by
  have hd := enterDue_wf s.groups.length h
  unfold issueTurn at e
  dsimp only at e
  split at e
  · obtain rfl := Host.Outcome.next.inj e
    simpa using hd
  · rename_i g p hc
    obtain ⟨-, -, -, hp, -⟩ := chosenIssue_spec hc
    exact issueOf_wf (nextIssue_wf hd hp) e

theorem defaultTurn_wf {s t : State} (h : Memory.wf s.mem) (e : defaultTurn s = .next t) : Memory.wf t.mem := by
  unfold defaultTurn at e
  split at e
  · exact eventTurn_wf h e
  · dsimp only at e
    split at e
    · rename_i g p hf
      obtain ⟨-, -, hp⟩ := mem_readyGroups (firstReady_least hf).1
      exact issueOf_wf (nextIssue_wf h hp) e
    · obtain rfl := Host.Outcome.next.inj e
      simpa using h

theorem step_wf {s t : State} (h : Memory.wf s.mem) (e : step s = .next t) : Memory.wf t.mem := by
  unfold step at e
  split at e
  · exact defaultTurn_wf h e
  · rename_i gid rest _
    exact issueTurn_wf (s := { s with agenda := rest }) h e
  · rename_i i a rest _
    exact eventTurn_wf (s := { s with agenda := rest }) h e

end Sys2Proof.Machine

namespace Sys2Proof.Settled
open Sys2Proof.Machine

/-- Settles O58: whatever the turn performs, each function that it runs keeps the form. -/
theorem memoryStaysCanonical : Obligations.MemoryStaysCanonical := fun _ _ => step_wf

end Sys2Proof.Settled
end

section
namespace Sys2Proof.Machine

/-! Queues, tokens and graphs (spec/23 R394 to R405). -/

theorem evRecordStart_of {s t : State} (hd : distNext s s.ev.a = .start s.ev.b false t) :
    evRecordStart s = some (notePre s.ev.a (passTurn s.ev.a s.ev.b s t)) := by
  simp only [evRecordStart, hd, if_true]

theorem evGraphReplayStart_of {s t : State} (hd : distNext s s.ev.a = .start s.ev.b true t) : evGraphReplayStart s = some (notePre s.ev.a t) := by
  simp only [evGraphReplayStart, hd, if_true]

/-- A token record fires once its wait holds and its time has come, and no grid of its queue has a block to place. -/
theorem evTokenRecordFire_of {s : State} {pa : Nat} {r : LaunchRec} (hhead : headOf s s.ev.a s.ev.b = some (pa, some r)) (htok : r.token = true)
    (hgood : r.bad = false) (hwait : waitHolds s s.ev.a r = true) (hdue : r.params ≤ s.ptp.ns) (hidle : queueGrid s s.ev.a s.ev.b = none) :
    evTokenRecordFire s =
      some (signalToken s.ev.a r.sigTok (waitToks s s.ev.a r) (nextRecord s.ev.a s.ev.b (writeStatus s.ev.a pa 1 [] [] s))) := by
  simp only [evTokenRecordFire, hhead]
  exact if_pos (by simp [htok, hgood, hwait, hdue, hidle])

/-- A ready node whose record is sound starts its grid, or its replay fails where the grid cannot start. -/
theorem evGraphNodeStart_of {s u : State} {r : GraphRun} {n : Nat} {gr : Grid} {l : LaunchRec} (hr : mfind s.ev.a s.runs = some r)
    (hn : readyNode r = some n)
    (hl : l = { launchRec (r.nodes.getD n 0) with params := (r.genAddr + (launchRec (r.nodes.getD n 0)).params) % 2 ^ 64 })
    (hgood : l.bad = false) (hplace : l.coop = false ∨ mfind r.queue (preempted s r.part) = none) (hg : launchGrid s r.part l = (some gr, u)) :
    evGraphNodeStart s =
      (let t := startGrid u { gr with queue := r.queue, order := r.order + n, cls := r.cls.getD gr.cls, node := some (r.rid, n), acq := nodeAcq r n }
       some (notePre r.part (if t.1 = 0 then passTurn r.part r.queue s { t.2 with runs := mmodify r.rid (fun r => { r with started := r.started ++ [n] }) t.2.runs }
         else failRun r.rid t.1 t.2))) := by
  have hmay : (l.coop && (mfind r.queue (preempted s r.part)).isSome) = false := by
    rcases hplace with h | h <;> simp [h]
  simp only [evGraphNodeStart, hr, hn, ← hl, hgood, hmay, hg, Bool.false_eq_true, if_false]

end Sys2Proof.Machine

namespace Sys2Proof.Settled
open Sys2Proof.Machine

/-- Settles O48: each event of queues, tokens and graphs answers its state where it can happen. -/
theorem queueEvents : Obligations.QueueEvents := by
  refine fun s hp => ⟨fun hpart hq => ⟨?_, ?_⟩, fun hpart ht => ?_, fun t hd => ?_, fun t hd => ?_, fun pa r hhead htok hgood hwait hdue hidle => ?_,
    fun r n gr u hr hn => ?_⟩
  · exact hp.happens rfl (if_pos (by simp [hpart, hq]))
  · exact hp.happens rfl (if_pos (by simp [hpart, hq]))
  · exact hp.happens rfl ((if_pos hpart).trans (congrArg some (if_pos ht)))
  · exact hp.happens rfl (evRecordStart_of hd)
  · exact hp.happens rfl (evGraphReplayStart_of hd)
  · exact hp.happens rfl (evTokenRecordFire_of hhead htok hgood hwait hdue hidle)
  · exact fun hgood hplace hg => hp.happens rfl (evGraphNodeStart_of hr hn rfl hgood hplace hg)

end Sys2Proof.Settled
end

section
namespace Sys2Proof.Machine

/-! The states of a resize (spec/23 R383 to R393). -/

theorem evPlanDone_of {s : State} (h : (getPart s s.ev.a).state = 1) :
    evPlanDone s = some (settleResize 4 s.ev.a (setPart s.ev.a { getPart s s.ev.a with state := if (getPart s s.ev.a).growing then 2 else 3 } s)) :=
  if_neg (not_not.mpr h)

theorem evAdmit_of {s : State} (h : (getPart s s.ev.a).state = 2) :
    evAdmit s =
      (let p := getPart s s.ev.a
       some (settleResize 4 s.ev.a (notePre s.ev.a (setPart s.ev.a
         { p with quads := p.nquads, slices := p.nslices, chgrps := p.nchgrps, present := true, state := 4, oldSlices := p.slices, moved := []
                  ar := if p.present then p.ar else firstAr s.ev.a } s)))) :=
  if_neg (not_not.mpr h)

theorem evRehashSweep_of {s : State} (hstate : (getPart s s.ev.a).state = 4) (hheld : s.ev.b ∈ heldLines s s.ev.a)
    (hmove : mustMove (getPart s s.ev.a) s.ev.b = true) :
    evRehashSweep s = some (setPart s.ev.a { getPart s s.ev.a with moved := minsert s.ev.b true (getPart s s.ev.a).moved } s) :=
  if_pos (by simp [hstate, hheld, hmove])

/-- The rehash ends once no line that the homes hold must still move. -/
theorem evRehashDone_of {s : State} (hstate : (getPart s s.ev.a).state = 4) (hdone : ∀ l ∈ heldLines s s.ev.a, mustMove (getPart s s.ev.a) l = false) :
    evRehashDone s =
      some (settleResize 4 s.ev.a (setPart s.ev.a { getPart s s.ev.a with oldSlices := newSlices (getPart s s.ev.a), moved := [] } s)) := by
  have hany : (heldLines s s.ev.a).any (mustMove (getPart s s.ev.a)) = false := List.any_eq_false.mpr (fun l hl => by simp [hdone l hl])
  exact if_pos (by rw [hstate, hany]; rfl)

theorem evEvacFrameCopy_of {s : State} {src dst : Nat} {rest : List (Nat × Nat)} (hstate : (getPart s s.ev.a).state = 5)
    (hnext : (getPart s s.ev.a).evacPending = (src, dst) :: rest) :
    evEvacFrameCopy s =
      some (modPart s.ev.a (fun p => { p with evacPending := rest, forward := minsert src dst p.forward }) (copyFrame src dst s)) := by
  simp only [evEvacFrameCopy, hnext]
  exact if_neg (not_not.mpr hstate)

section
variable {s : State} (hstate : (getPart s s.ev.a).state = 6)
include hstate

theorem evScrubDone_quad (hkind : s.ev.b = 0) (hown : bit (getPart s s.ev.a).quads s.ev.c = true) (hleaves : bit (getPart s s.ev.a).nquads s.ev.c = false) :
    evScrubDone s =
      some (settleResize 4 s.ev.a (modPart s.ev.a (fun p => { p with quads := p.quads - 2 ^ s.ev.c }) (scrubQuad s.ev.a s.ev.c s))) :=
  if_pos (by simp [hkind, hstate, hown, hleaves])

theorem evScrubDone_slice (hkind : s.ev.b = 1) (hown : bit (getPart s s.ev.a).slices s.ev.c = true) (hleaves : bit (getPart s s.ev.a).nslices s.ev.c = false) :
    evScrubDone s =
      some (settleResize 4 s.ev.a (modPart s.ev.a (fun p => { p with slices := p.slices - 2 ^ s.ev.c }) (scrubSlice s.ev.a s.ev.c s))) :=
  (if_neg (by simp [hkind])).trans (if_pos (by simp [hkind, hstate, hown, hleaves]))

/-- A channel group waits for the accesses to it that are outstanding. -/
theorem evScrubDone_group (hkind : s.ev.b = 2) (hown : bit (getPart s s.ev.a).chgrps s.ev.c = true) (hleaves : bit (getPart s s.ev.a).nchgrps s.ev.c = false)
    (hidle : groupBusy s s.ev.c = false) :
    evScrubDone s =
      some (settleResize 4 s.ev.a (modPart s.ev.a (fun p => { p with chgrps := p.chgrps - 2 ^ s.ev.c }) (scrubGroup s.ev.a s.ev.c s))) :=
  (if_neg (by simp [hkind])).trans ((if_neg (by simp [hkind])).trans (if_pos (by simp [hkind, hstate, hown, hleaves, hidle])))

end

end Sys2Proof.Machine

namespace Sys2Proof.Settled
open Sys2Proof.Machine

/-- Settles O49: each event of a resize answers its state where the resize stands in the state that the event ends or works on. -/
theorem resizeEvents : Obligations.ResizeEvents := by
  refine fun s hp => ⟨fun hpart => ⟨?_, ?_⟩, fun hpart => ?_, fun hplan => ?_, fun hadmit => ?_, fun hrehash hheld hmove => ?_, fun hrehash hdone => ?_,
    fun hevac src dst rest hnext => ?_, fun hscrub => ⟨fun hkind hown hleaves => ?_, fun hkind hown hleaves => ?_, fun hkind hown hleaves hidle => ?_⟩,
    fun hpart => ?_⟩
  · exact hp.happens rfl (if_pos hpart)
  · exact hp.happens rfl (if_pos hpart)
  · exact hp.happens rfl (if_pos hpart)
  · exact hp.happens rfl (evPlanDone_of hplan)
  · exact hp.happens rfl (evAdmit_of hadmit)
  · exact hp.happens rfl (evRehashSweep_of hrehash hheld hmove)
  · exact hp.happens rfl (evRehashDone_of hrehash hdone)
  · exact hp.happens rfl (evEvacFrameCopy_of hevac hnext)
  · exact hp.happens rfl (evScrubDone_quad hscrub hkind hown hleaves)
  · exact hp.happens rfl (evScrubDone_slice hscrub hkind hown hleaves)
  · exact hp.happens rfl (evScrubDone_group hscrub hkind hown hleaves hidle)
  · exact hp.happens rfl (if_pos hpart)

end Sys2Proof.Settled
end

section
namespace Sys2Proof.Machine

/-! The mailbox (spec/25 R428, R429). -/

/-- The command that the host has started is performed where it is permitted, and ends with result 4 where it is not. -/
theorem mailbox_of {s : State} {code : Nat} (hbusy : mbxBusy s = true) (hcode : s.boot.mbxCmd = code) (ok : Bool) (out : MbxOut) :
    mailbox code ok out s = some (mbxEnd (if ok then out else mbxFail s 4)) :=
  if_pos (by simp [hbusy, hcode])

/-- Each command of R429 is an event of the mailbox, with the code, the permission and the work of its row. -/
theorem exec_of_mailboxRow {s : State} {i : Instr} {code : Nat} {ok : Bool} {out : MbxOut} (h : mailboxRow s i = some (code, ok, out)) :
    exec i s = eventOut s (mailbox code ok out s) := by
  unfold mailboxRow at h
  split at h <;> cases h <;> rfl

end Sys2Proof.Machine

namespace Sys2Proof.Settled
open Sys2Proof.Machine

/-- Settles O50: a command of the table by its row, any other code by its own event. -/
theorem mailboxCommands : Obligations.MailboxCommands := by
  refine ⟨fun i code ok out s hp hrow hbusy hcode => ?_, fun s hp hbusy hcode => ?_⟩
  · exact hp.happens (exec_of_mailboxRow hrow) (mailbox_of hbusy hcode ok out)
  · have hunknown : ¬ (1 ≤ s.boot.mbxCmd ∧ s.boot.mbxCmd ≤ 13) := by omega
    exact hp.happens rfl ((if_neg hunknown).trans (mailbox_of hbusy rfl true _))

end Sys2Proof.Settled
end

section
namespace Sys2Proof.Machine

/-! Register writes, and what stops or slows the package (spec/25 R424 to R435). -/

section
variable {s : State} {vf part : Nat} (hpart : mfind vf s.vfs = some part) (hpresent : (getPart s part).present = true)
include hpart hpresent

/-- A virtual function reads its partition's PART_STAT. -/
theorem vfRead_stat : vfRead s vf 0 = partStat (getPart s part) := by
  simp [vfRead, hpart, hpresent]

/-- The tail of another function's queue reads 0. -/
theorem vfRead_tail_other {q : Nat} (hq : q < 64) (hother : queueVf (getPart s part) q ≠ vf) : vfRead s vf (0x1200 + 8 * q) = 0 := by
  have hin : 0x1200 + 8 * q < 0x1400 := by omega
  have hstat : 0x1200 + 8 * q ≠ 8 := by omega
  simp [vfRead, hpart, hpresent, hin, hstat, hother]

/-- The head of another function's queue reads 0. -/
theorem vfRead_head_other {q : Nat} (hq : q < 64) (hother : queueVf (getPart s part) q ≠ vf) : vfRead s vf (0x1400 + 8 * q) = 0 := by
  have hin : 0x1400 + 8 * q < 0x1600 := by omega
  have hstat : 0x1400 + 8 * q ≠ 8 := by omega
  simp [vfRead, hpart, hpresent, hin, hstat, hother]

end

theorem evMgmtRegisterWrite_host {s : State} (h : s.ev.who = none) : evMgmtRegisterWrite s = some (mgmtWrite s.ev.a s.ev.b s.ev.c s) := by
  simp only [evMgmtRegisterWrite, h]

theorem evMgmtRegisterWrite_vf {s : State} {vf : Nat} (h : s.ev.who = some vf) : evMgmtRegisterWrite s = some (vfWrite vf s.ev.a s.ev.b s.ev.c s) := by
  simp only [evMgmtRegisterWrite, h]

/-- Above the power limit the clock falls by a step, and at its least HBM bandwidth is capped (R435). -/
theorem evPowerLimitControl_over {s : State} (h : bits s.boot.pwrStat 16 16 < s.ev.a) :
    evPowerLimitControl s =
      (let clock := bits s.boot.pwrStat 32 12
       some (if 1050 < clock then setClock s.ev.a (max 1050 (clock - 25)) s.boot.hbmCap s else setClock s.ev.a clock true s)) :=
  if_pos h

end Sys2Proof.Machine

namespace Sys2Proof.Settled
open Sys2Proof.Machine

/-- Settles O51: each event of the package answers its state, and a virtual function's reads by its register's offset. -/
theorem packageEvents : Obligations.PackageEvents := by
  refine fun s hp => ⟨fun hhost => ?_, fun vf hvf => ?_, fun vf part q hpart hpresent hq hother => ?_, fun hgo hcore => ?_, rfl,
    hp.happens rfl rfl, hp.happens rfl rfl, hp.happens rfl rfl, fun hover hfast => ?_, fun hover hslow => ?_⟩
  · exact hp.happens rfl (evMgmtRegisterWrite_host hhost)
  · exact hp.happens rfl (evMgmtRegisterWrite_vf hvf)
  · exact ⟨vfRead_stat hpart hpresent, vfRead_tail_other hpart hpresent hq hother, vfRead_head_other hpart hpresent hq hother⟩
  · exact hp.happens rfl (if_pos (by simp [hgo, hcore]))
  · exact hp.happens rfl ((evPowerLimitControl_over hover).trans (congrArg some (if_pos hfast)))
  · exact hp.happens rfl ((evPowerLimitControl_over hover).trans (congrArg some (if_neg (Nat.not_lt.mpr hslow))))

end Sys2Proof.Settled
end

section
namespace Sys2Proof.Machine

/-! Masks of lanes. -/

/-- Setting the bits of a list of lanes. -/
theorem testBit_fold_lanes (ls : List Nat) (l : Nat) : ∀ a : Nat, (ls.foldl (fun a l => a ||| (1 <<< l)) a).testBit l = (a.testBit l || decide (l ∈ ls)) := by
  induction ls with
  | nil => exact fun a => by simp
  | cons m ls ih =>
    intro a
    rw [List.foldl_cons, ih, Nat.testBit_or, Nat.one_shiftLeft, Nat.testBit_two_pow]
    simp only [List.mem_cons, Bool.decide_or, Bool.or_assoc, eq_comm]

/-- The mask of a list holds its lanes. -/
theorem hasLane_maskOf (ls : List Nat) {l : Nat} (hl : l < 96) : hasLane (maskOf ls) l = decide (l ∈ ls) := by
  rw [hasLane_eq_getLsbD, maskOf, BitVec.getLsbD_ofNat, testBit_fold_lanes, decide_eq_true hl, Nat.zero_testBit, Bool.true_and, Bool.false_or]

/-- No lane of a mask is outside another. -/
theorem andNot_eq_zero_iff (m n : LaneMask) : (m &&& ~~~n).toNat = 0 ↔ ∀ l ∈ lanesOf m, hasLane n l = true := by
  rw [show (m &&& ~~~n).toNat = 0 ↔ m &&& ~~~n = 0#96 from BitVec.toNat_inj (y := 0#96), BitVec.eq_of_getLsbD_eq_iff]
  simp only [mem_lanesOf, hasLane_eq_getLsbD, BitVec.getLsbD_and, BitVec.getLsbD_not, BitVec.getLsbD_zero, Bool.and_eq_false_iff, Bool.not_eq_false', and_imp]
  refine forall_congr' (fun l => forall_congr' (fun hl => ?_))
  cases m.getLsbD l <;> simp [hl]

theorem hasLane_andNot (m n : LaneMask) {l : Nat} (hl : l < 96) : hasLane (m &&& ~~~n) l = (hasLane m l && !hasLane n l) := by
  simp [hasLane_eq_getLsbD, hl]

/-- Where the disabled lanes of an issue stay and none joins, the enabled ones go on. -/
theorem mem_movedOf_enabled {x : Ctx} {o : Out} (hs : o.stay = maskOf (x.lanes.filter (fun l => !(enLanes x).contains l))) (ha : o.also = 0) (l : Nat) :
    l ∈ movedOf x o ↔ l ∈ enLanes x := by
  rw [movedOf, hs, ha, show ∀ m : LaneMask, m ||| 0 = m from fun _ => BitVec.or_zero, mem_lanesOf]
  by_cases hl : l < 96
  · have hlane : l ∈ x.lanes ↔ hasLane x.mask l = true := mem_lanesOf.trans (and_iff_right hl)
    rw [hasLane_andNot _ _ hl, hasLane_maskOf _ hl]
    by_cases hen : l ∈ enLanes x
    · simp [hl, hen, hlane.mp (enLanes_sub hen)]
    · simp [hl, hen, hlane]
  · exact iff_of_false (fun h => hl h.1) (fun h => hl (enLanes_lt h))

/-! SVC (spec/25 R410, R421). -/

/-- The trap that SVC takes for its enabled lanes. -/
def svcTrap (x : Ctx) : TrapInfo := { cause := .svc, lanes := maskOf (enLanes x), code := x.r.a + 1024 * x.r.b }

/-- What SVC answers with an enabled lane: the enabled lanes go on, the others stay. -/
def svcOut (x : Ctx) : Out := { stay := maskOf (x.lanes.filter (fun l => !(enLanes x).contains l)) }

/-- SVC is a double trap at service level, so what goes on to its effect stands at user level. -/
theorem svc_user {f : Form} {s : State} {x : Ctx} (hx : Issues (.svc f) s x) (hg : Goes x) : x.g.service = false := by
  have hop : x.r.op = 0xE4 := by
    rw [← show rawOf 0xE4 f = x.r from Option.some.inj hx.raw]
    cases f <;> rfl
  refine Bool.eq_false_iff.mpr (fun hs => ?_)
  have := hg.level hs
  rw [hop] at this
  exact absurd this (by decide)

theorem bodySvc_noLane {x : Ctx} (hc : Calm x) (he : enLanes x = []) : bodySvc x = .ok x.s {} := by
  simp only [bodySvc, ctlPoison_clean x hc.clean, he, List.isEmpty_nil, if_true]

theorem bodySvc_lane {x : Ctx} (hc : Calm x) (he : enLanes x ≠ []) : bodySvc x = .ok (takeTrap x.s x.g x.pc (svcTrap x)) (svcOut x) := by
  simp only [bodySvc, ctlPoison_clean x hc.clean, List.isEmpty_eq_false_iff.mpr he, hc.inReplay, Bool.false_eq_true, if_false, svcTrap, svcOut]

/-- The group as a trap at user level leaves it (R410, R413). -/
def trapped (s : State) (g : Group) (pc : Nat) (t : TrapInfo) : Group :=
  { g with
    tr := trapRec g pc t
    service := true
    spc := (lanesOf g.live).foldl (fun m l => cset 0 l (getPart s (partOf s g)).svcEntry m) []
    lastIssue := slotTime s g
    noBp := t.cause == .addrBreak
    hfault := if t.cause == .haulFault then none else g.hfault }

theorem takeTrap_user {g : Group} (h : g.service = false) (s : State) (pc : Nat) (t : TrapInfo) : takeTrap s g pc t = setGroup (trapped s g pc t) s := by
  rw [takeTrap, h, if_neg Bool.false_ne_true]
  rfl

/-- The record of a trap that is taken at user level holds what `Traps` says. -/
theorem trapped_traps {x : Ctx} (h : x.g.service = false) (t : TrapInfo) : Traps x (trapNow x t) t.cause t.lanes (trapped x.s x.g x.pc t) := by
  obtain ⟨g', traps, -⟩ := trapNow_spec x t h
  have hfind : mfind x.g.gid (trapNow x t).groups = some (trapped x.s x.g x.pc t) := by
    rw [trapNow, takeTrap_user h]
    exact find_setGroup (trapped x.s x.g x.pc t) x.s
  obtain rfl := Option.some.inj (traps.group.symm.trans hfind)
  exact traps

/-- A trap's code stands from bit 16 of TR_CAUSE on (R413). -/
theorem trapRec_code {t : TrapInfo} (hclose : t.close = 0) (hkind : t.fkind = 0) (hcause : t.cause ≠ .poison) (g : Group) (pc : Nat) :
    bits (trapRec g pc t).cause 16 20 = t.code % 2 ^ 20 := by
  have hle := causeCode_le t.cause
  have hpoison : (t.cause == Cause.poison) = false := beq_eq_false_iff_ne.mpr hcause
  simp only [trapRec, bits, hclose, hkind, hpoison, Bool.not_false, Bool.or_true, if_true, Nat.shiftRight_eq_div_pow]
  congr 1
  split <;> split <;> omega

/-- At user level, in a group without an open loop, an issue that goes on moves its lanes and writes neither registers nor service program
counters. -/
theorem finishIssue_user_noLoop {x : Ctx} {s : State} {o : Out} {g g' : Group} (hg : mfind x.g.gid s.groups = some g) (hk : g.gid = x.g.gid)
    (hu : x.g.service = false) (hloops : g.loops = []) (hr : x.inReplay = false) (ho : o.own = none)
    (hg' : mfind x.g.gid (finishIssue x s o).groups = some g') :
    g'.regs = g.regs ∧ g'.spc = g.spc ∧ ∀ l, cget 0 l g'.upc = if l ∈ movedOf x o then nextOf x o l else cget 0 l g.upc := by
  obtain ⟨hagain, hupc⟩ := settleLoops_noLoop (x := x) (o := o) hloops (slotTime s x.g)
  obtain ⟨hregs, hspc⟩ : (settleLoops x o (slotTime s x.g) g).1.regs = g.regs ∧ (settleLoops x o (slotTime s x.g) g).1.spc = g.spc := by
    unfold settleLoops
    rw [fold_arrive_noLoop _ _ _ _ _ (by exact hloops)]
    dsimp only
    rw [closeLoops_noLoop (by simp [hloops, popEmpty]) false 8]
    unfold dropCapture
    split <;> exact ⟨rfl, rfl⟩
  have hset := (settles_settleLoops x o (slotTime s x.g) g).trans (settles_settleWindow x s o _ hr)
  unfold finishIssue at hg'
  rw [hg] at hg'
  dsimp only at hg'
  rw [hu, if_neg Bool.false_ne_true, hagain, if_neg Bool.false_ne_true, ← hset.gid.trans hk] at hg'
  obtain rfl := Option.some.inj ((find_setGroup _ s).symm.trans hg')
  refine ⟨?_, ?_, fun l => by rw [settleWindow_upc s _ hr ho, hupc]⟩
  · simp only [settleWindow, hr, ho, Bool.false_eq_true, if_false, hregs]
  · simp only [settleWindow, hr, ho, Bool.false_eq_true, if_false, hspc]

/-- With no loop open SVC takes its group to the service routine with its enabled lanes past it. -/
theorem svc_enters {f : Form} {s : State} {x : Ctx} (hx : Issues (.svc f) s x) (hg : Goes x) (hc : Calm x) (he : enLanes x ≠ []) (hloops : x.g.loops = []) :
    ∃ t g', exec (.svc f) s = .next t ∧ mfind x.g.gid t.groups = some g' ∧ KeepsOutside s t x.g.gid ∧
      g'.service = true ∧ bits g'.tr.cause 0 8 = 21 ∧ bits g'.tr.cause 16 20 = (x.r.a + 1024 * x.r.b) % 2 ^ 20 ∧ g'.tr.pc = x.pc ∧
      g'.tr.lane0 + 2 ^ 64 * g'.tr.lane1 = (maskOf (enLanes x)).toNat ∧ g'.regs = x.g.regs ∧ g'.poison = x.g.poison ∧ g'.live = x.g.live ∧
      (∀ l ∈ lanesOf x.g.live, cget 0 l g'.spc = (getPart s (partOf s x.g)).svcEntry) ∧
      (∀ l, l < 96 → cget 0 l g'.upc = if l ∈ enLanes x then x.fall else cget 0 l x.g.upc) := by
  obtain rfl := hx.st
  have hu := svc_user hx hg
  have traps := trapped_traps hu (svcTrap x)
  have hb : bodyOf (.svc f) x = .ok (setGroup (trapped x.s x.g x.pc (svcTrap x)) x.s) (svcOut x) :=
    (bodySvc_lane hc he).trans (congrArg (Res.ok · (svcOut x)) (takeTrap_user hu _ _ _))
  have hend := hx.endsWith hg hb (overCount_setGroup x.g (trapped x.s x.g x.pc (svcTrap x)) x.s rfl hg.counters)
  have hput : mfind x.g.gid (setGroup (trapped x.s x.g x.pc (svcTrap x)) x.s).groups = some (trapped x.s x.g x.pc (svcTrap x)) :=
    find_setGroup (trapped x.s x.g x.pc (svcTrap x)) x.s
  obtain ⟨g', hfind, hout, settles⟩ := finishIssue_spec x _ (svcOut x) _ hput rfl hc.inReplay
  obtain ⟨hregs, hspc, hupc⟩ := finishIssue_user_noLoop hput rfl hu hloops hc.inReplay rfl hfind
  have htr : g'.tr = (trapped x.s x.g x.pc (svcTrap x)).tr := (congrArg Group.tr settles.keeps :)
  have hlive : g'.live = x.g.live := (congrArg Group.live settles.keeps :)
  refine ⟨_, g', hend, hfind, (keepsOutside_setGroup (trapped x.s x.g x.pc (svcTrap x)) x.s).trans hout, settles.service, ?_, ?_, ?_, ?_, hregs,
    settles.poison, hlive, fun l hl => ?_, fun l _ => ?_⟩
  · rw [htr]; exact traps.cause
  · rw [htr]; exact trapRec_code (t := svcTrap x) rfl rfl (show Cause.svc ≠ .poison by decide) _ _
  · rw [htr]; exact traps.addr
  · rw [htr]; exact traps.lanes
  · rw [hspc]; exact traps.entry l hl
  · rw [hupc]
    exact if_congr (mem_movedOf_enabled (o := svcOut x) rfl rfl l) rfl rfl

/-! ERET (spec/25 R417, R419). -/

section
variable {x : Ctx} (hs : x.g.service = true)
include hs

theorem bodyEret_replay (hfn : x.r.fn = 1) :
    bodyEret x =
      (let g : Group := { x.g with service := false }
       .ok (setGroup (endReplay (if g.win.opened && g.replay.isNone then beginReplay g else g)) x.s) { stay := x.mask }) := by
  simp only [bodyEret, hs, hfn, Bool.not_true, Bool.false_eq_true, if_false]

theorem bodyEret_skip (hfn : x.r.fn = 2) {w : Fetched} {u : State} (hf : fetchAt x.s { x.g with service := false } x.g.tr.pc = (.ok w, u)) :
    bodyEret x = .ok (skipTo { x.g with service := false } w.raw.len u) { stay := x.mask } := by
  simp only [bodyEret, hs, hfn, hf, Bool.not_true, Bool.false_eq_true, if_false]

theorem bodyEret_close (hfn : x.r.fn = 3) :
    bodyEret x = .ok (setGroup (endReplay (windowClose (stopReplay { x.g with service := false }))) x.s) { stay := x.mask } := by
  simp only [bodyEret, hs, hfn, Bool.not_true, Bool.false_eq_true, if_false]

/-- Plain ERET outside a replay only leaves service level. -/
theorem bodyEret_plain (h1 : x.r.fn ≠ 1) (h2 : x.r.fn ≠ 2) (h3 : x.r.fn ≠ 3) (hr : x.g.replay = none) :
    bodyEret x = .ok (setGroup { x.g with service := false } x.s) { stay := x.mask } := by
  simp only [bodyEret, hs, Bool.not_true, Bool.false_eq_true, if_false, endReplay, hr]

end

theorem bodyEret_user {x : Ctx} (hs : x.g.service = false) : bodyEret x = trapAll x .privilege := by
  simp only [bodyEret, hs, Bool.not_false, if_true]

/-- An issue that began at service level writes neither registers nor user program counters afterwards. -/
theorem finishIssue_service {x : Ctx} {s : State} {o : Out} {g g' : Group} (hg : mfind x.g.gid s.groups = some g) (hk : g.gid = x.g.gid)
    (hs : x.g.service = true) (hg' : mfind x.g.gid (finishIssue x s o).groups = some g') : g'.regs = g.regs ∧ g'.upc = g.upc := by
  have hset := settles_service x o (slotTime s x.g) g
  unfold finishIssue at hg'
  rw [hg] at hg'
  dsimp only at hg'
  rw [if_pos hs, ← hset.gid.trans hk] at hg'
  obtain rfl := Option.some.inj ((find_setGroup _ s).symm.trans hg')
  unfold settleService
  rw [fold_spc]
  exact ⟨rfl, rfl⟩

theorem eret_plain {f : Form} {s : State} {x : Ctx} (hx : Issues (.eret f) s x) (hg : Goes x) (hs : x.g.service = true) (h1 : x.r.fn ≠ 1)
    (h2 : x.r.fn ≠ 2) (h3 : x.r.fn ≠ 3) (hr : x.g.replay = none) :
    ∃ t g', exec (.eret f) s = .next t ∧ mfind x.g.gid t.groups = some g' ∧ KeepsOutside s t x.g.gid ∧ g'.service = false ∧ g'.upc = x.g.upc ∧
      g'.regs = x.g.regs ∧ g'.tr = x.g.tr := by
  obtain rfl := hx.st
  let back : Group := { x.g with service := false }
  have hin : x.inReplay = false := by simp [Ctx.inReplay, hr]
  have hend := hx.endsWith hg (bodyEret_plain hs h1 h2 h3 hr) (overCount_setGroup x.g back x.s rfl hg.counters)
  have hput : mfind x.g.gid (setGroup back x.s).groups = some back := find_setGroup back x.s
  obtain ⟨g', hfind, hout, settles⟩ := finishIssue_spec x (setGroup back x.s) { stay := x.mask } back hput rfl hin
  obtain ⟨hregs, hupc⟩ := finishIssue_service hput rfl hs hfind
  exact ⟨_, g', hend, hfind, (keepsOutside_setGroup back x.s).trans hout, settles.service, hupc, hregs, (congrArg Group.tr settles.keeps :)⟩

/-! The poison window (spec/25 R415). -/

/-- What the window records of a fault is its first one; all else of it stays. -/
theorem Win.noteFault_eq (w : Win) (fk addr : Nat) : w.noteFault fk addr =
    { w with fkind := if w.fkind = 0 then fk else w.fkind, faddr := if w.fkind = 0 then addr else w.faddr } := by
  unfold Win.noteFault
  split <;> rfl

/-- Poison of an issue before the last closing opens nothing. -/
theorem windowPoison_shut {g : Group} {n : Snap} (h : n.seq < g.win.shutSeq) (named : BitVec 925) (fk addr : Nat) (nr : Bool) :
    windowPoison g n named fk addr nr = g := if_pos h

theorem length_filter_since (seq from_ : Nat) (hs : List Hist) :
    ((hs.map (fun h => if h.seq = seq then { h with marked := true } else h)).filter (fun h => decide (from_ ≤ h.seq))).length =
      (hs.filter (fun h => decide (from_ ≤ h.seq))).length := by
  rw [List.filter_map, List.length_map]
  congr 1
  refine List.filter_congr (fun h _ => ?_)
  by_cases hh : h.seq = seq <;> simp [hh]

/-- Poison of an issue since opens a closed window with that issue as its origin. -/
theorem windowPoison_opens {g : Group} {n : Snap} (hshut : g.win.shutSeq ≤ n.seq) (hopen : g.win.opened = false) (hkind : g.win.fkind = 0)
    (named : BitVec 925) (fk addr : Nat) (nr : Bool) :
    (let h := windowPoison g n named fk addr nr
     h.win.opened = true ∧ h.win.orig = some n ∧ h.win.fkind = fk ∧ (fk ≠ 0 → h.win.faddr = addr) ∧ h.win.noRepl = nr ∧
       h.win.gcnt = (g.hist.filter (fun e => decide (n.seq ≤ e.seq))).length ∧ h.win.marked &&& named = named) := by
  have hbefore : originBefore g.win n.seq = false := by simp [originBefore, hopen]
  simp only [windowPoison, if_neg (Nat.not_lt.mpr hshut), hbefore, Bool.false_eq_true, if_false, Win.noteFault_eq, hkind, if_true, hopen, Bool.not_false,
    Bool.not_true, Bool.false_and, Bool.or_false, length_filter_since]
  refine ⟨trivial, trivial, trivial, fun _ => trivial, trivial, trivial, ?_⟩
  ext i hi
  simp only [BitVec.getElem_and, BitVec.getElem_or]
  cases named[i] <;> simp

/-- Poison of a later issue than an open window's origin only marks more registers. -/
theorem windowPoison_marks {g : Group} {n o : Snap} (hshut : g.win.shutSeq ≤ n.seq) (hopen : g.win.opened = true) (ho : g.win.orig = some o)
    (hle : o.seq ≤ n.seq) (named : BitVec 925) (fk addr : Nat) (nr : Bool) :
    (let h := windowPoison g n named fk addr nr
     h.win.orig = some o ∧ h.win.gcnt = g.win.gcnt ∧ h.win.cnt = g.win.cnt ∧ h.win.marked = g.win.marked ||| named) := by
  have hbefore : originBefore g.win n.seq = true := by simp [originBefore, hopen, ho, hle]
  simp only [windowPoison, if_neg (Nat.not_lt.mpr hshut), hbefore, if_true, Win.noteFault_eq]
  exact ⟨ho, trivial, trivial, trivial⟩

/-! Replay (spec/25 R420). -/

@[simp] theorem loadSnap_upc (g : Group) (n : Snap) : (loadSnap g n).upc = n.lpc := rfl
@[simp] theorem loadSnap_srctr (g : Group) (n : Snap) : (loadSnap g n).srctr = n.srctr := rfl
@[simp] theorem loadSnap_loops (g : Group) (n : Snap) : (loadSnap g n).loops = n.loops := rfl
@[simp] theorem loadSnap_poison (g : Group) (n : Snap) : (loadSnap g n).poison = g.poison := rfl
@[simp] theorem loadSnap_win (g : Group) (n : Snap) : (loadSnap g n).win = g.win := rfl

/-- The loop counters are put back. -/
theorem getReg_loadSnap (g : Group) (n : Snap) {k : Nat} (hk : k < 3) : getReg (loadSnap g n) (944 + k) 0 = n.lcs.getD k 0 % 2 ^ 32 := by
  simp only [loadSnap, getReg_putReg _ _ _ _ _ _ (show 0 < 96 by decide) (show 0 < 96 by decide)]
  interval_cases k <;> rfl

/-- A replay that some live lane has not finished goes on. -/
theorem endReplay_waits {g : Group} {r : Replay} (hr : g.replay = some r) {l : Nat} (hl : l ∈ lanesOf g.live) (hnot : hasLane r.done l = false) :
    endReplay g = g := by
  have hleft : ¬ (g.live &&& ~~~r.done).toNat = 0 := fun h => by
    rw [(andNot_eq_zero_iff _ _).mp h l hl] at hnot
    cases hnot
  simp only [endReplay, hr, beq_eq_false_iff_ne.mpr hleft, Bool.false_and, Bool.false_eq_true, if_false]

/-- One that every live lane has finished, with nothing pending at user level, returns the group to where it stood. -/
theorem endReplay_done {g : Group} {r : Replay} (hr : g.replay = some r) (hdone : ∀ l ∈ lanesOf g.live, hasLane r.done l = true) (hpend : g.pend = [])
    (hu : g.service = false) :
    endReplay g =
      (let h : Group := { loadSnap g r.back with replay := none }
       if anyPoison g then h else windowClose h) := by
  have hend : ((g.live &&& ~~~r.done).toNat == 0 && g.pend.isEmpty && !g.service) = true := by
    simp [(andNot_eq_zero_iff _ _).mpr hdone, hpend, hu]
  simp only [endReplay, hr, hend, if_true]
  rfl

/-- A replay with an issue to repeat begins at the origin. -/
theorem beginReplay_starts {g : Group} {o : Snap} (ho : g.win.orig = some o) {l : Nat} (hl : l ∈ lanesOf g.live) (hcnt : cget 0 l g.win.cnt ≠ 0) :
    ∃ p r, beginReplay g = { loadSnap g { o with parkWide := p } with replay := some r } := by
  simp only [beginReplay, ho]
  refine ⟨_, _, endReplay_waits rfl hl ?_⟩
  rw [hasLane_maskOf _ (mem_lanesOf.mp hl).1, decide_eq_false_iff_not, List.mem_filter, cget_fold_cset_fn, if_pos hl]
  rintro ⟨-, hzero⟩
  have := beq_iff_eq.mp hzero
  omega

theorem isLc_of_isV {d : Nat} (hd : isV d = true) : isLc d = false := by
  have : d < 768 := by simpa [isV] using hd
  simp [isLc]
  omega

/-- In replay a lane whose result the first attempt did not poison is not written. -/
theorem writeDst_replay_good {x : Ctx} {d l : Nat} (hr : x.inReplay = true) (hd : isV d = true) (h : x.wasBad d l = false) (g : Group) (n v : Nat) (p : Bool) :
    writeDst x g d n l v p = g := by
  simp only [writeDst, hr, h, isLc_of_isV hd, Bool.not_false, Bool.and_self, if_true]

/-- The same issue outside a replay. -/
def Ctx.forward (x : Ctx) : Ctx := { x with g := { x.g with replay := none } }

theorem Ctx.forward_inReplay (x : Ctx) : x.forward.inReplay = false := rfl

/-- Any other lane is written as outside a replay. -/
theorem writeDst_replay_bad {x : Ctx} {d l : Nat} (h : x.wasBad d l = true) (g : Group) (n v : Nat) (p : Bool) :
    writeDst x g d n l v p = writeDst x.forward g d n l v p := by
  simp only [writeDst, x.forward_inReplay, h, Bool.not_true, Bool.and_false, Bool.false_and]

end Sys2Proof.Machine

namespace Sys2Proof.Settled
open Sys2Proof.Machine

/-- Settles O24: SVC and ERET by what their effects answer, the window and its replay by the equations of their functions. -/
theorem serviceLevel : Obligations.ServiceLevel := by
  refine ⟨fun f s x hx hg hc => ⟨fun he => ?_, fun he => ?_, fun he hloops => svc_enters hx hg hc he hloops⟩,
    fun f s x hx hg => ⟨fun hs => ⟨fun hfn => ?_, fun hfn w u hf => ?_, fun hfn => ?_, fun h1 h2 h3 hr => eret_plain hx hg hs h1 h2 h3 hr⟩, fun hs => ?_⟩,
    fun g n named fk addr nr => ⟨fun h => windowPoison_shut h .., fun hshut hopen hkind => windowPoison_opens hshut hopen hkind ..,
      fun hshut hopen o ho hle => windowPoison_marks hshut hopen ho hle ..⟩,
    fun g o ho hlane => ?_, fun x g d n l v p hr hd hlast hl => ⟨fun hgood => writeDst_replay_good hr hd hgood .., fun hbad k hk => ?_⟩,
    fun g r hr hdone hpend hu => ?_⟩
  · obtain rfl := hx.st
    exact hx.endsWith hg (bodySvc_noLane hc he)
  · obtain rfl := hx.st
    exact hx.endsWith hg (bodySvc_lane hc he)
  · obtain rfl := hx.st
    exact hx.endsWith hg (bodyEret_replay hs hfn)
  · obtain rfl := hx.st
    exact hx.endsWith hg (bodyEret_skip hs hfn hf)
  · obtain rfl := hx.st
    exact hx.endsWith hg (bodyEret_close hs hfn)
  · exact (exec_trapAll hx hg (bodyEret_user hs)).1 hs
  · obtain ⟨l, hl, hcnt⟩ := hlane
    obtain ⟨p, r, hbegin⟩ := beginReplay_starts ho hl hcnt
    rw [hbegin]
    exact ⟨rfl, rfl, rfl, rfl, rfl, rfl, fun k hk => getReg_loadSnap g { o with parkWide := p } hk⟩
  · have hlt : d + k < 768 := by
      have : d + n - 1 < 768 := by simpa [isV] using hlast
      omega
    rw [writeDst_replay_bad hbad]
    obtain ⟨hreg, hpoison⟩ := (writeDst_spec x.forward g d n l v p x.forward_inReplay hl).2 (d + k) l hl
    rw [hreg, hpoison, if_pos ⟨by omega, by omega, fun _ => rfl⟩, if_pos ⟨isLc_of_isV hd, by omega, by omega, fun _ => rfl⟩, Nat.add_sub_cancel_left]
    exact ⟨rfl, rfl⟩
  · rw [endReplay_done hr hdone hpend hu]
    cases hp : anyPoison g
    · exact ⟨rfl, rfl, rfl, rfl, rfl, fun _ => rfl, nofun⟩
    · exact ⟨rfl, rfl, rfl, rfl, rfl, nofun, fun _ => rfl⟩

end Sys2Proof.Settled
end
